-- ==== Sys2Proof/Word.lean ====
section
/-! DEFINITION. The word types of the module and the plainest arithmetic over them (R5, R6, R12). -/

namespace Sys2Proof

/-- One byte of memory, of a descriptor, of a record or of a datagram. -/
abbrev Byte := BitVec 8

/-- A 64-bit value: an object, a counter, a synchronization object's COUNT (R342, R248). -/
abbrev U64 := BitVec 64

/-- A 32-bit value. -/
abbrev U32 := BitVec 32

/-- A 16-bit value. -/
abbrev U16 := BitVec 16

/-- `ceil_div(a, b)` of R12: the smallest integer not less than `a / b`; 0 for `b = 0`, which R12 leaves out. -/
def ceilDiv (a b : Nat) : Nat := (a + b - 1) / b

/-- A sparse table: the keys in strictly rising order, each with the value it holds; a key that is not
listed holds the table's default. -/
abbrev SMap (α : Type) := List (Nat × α)

end Sys2Proof
end

