-- ==== Sys2Proof/Syntax.lean ====
section
/-! DEFINITION. The commands of the block: ONE inductive, one constructor per row of spec/opcode_table.json,
with the operands the row's rule names. A value the outside decides (an error pattern, a reading, a message,
a datagram) is an operand of the command that brings it. -/

namespace Sys2Proof

/-- The four link directions of a compute die and its local port, numbered as R264 numbers them. -/
inductive Dir where
  | north | east | south | west | localPort
deriving DecidableEq, Repr

/-- The tensor operands of an operation descriptor (R66). -/
inductive Opd where
  | a | b | c | m | x
deriving DecidableEq, Repr

/-- What became of one 64-bit word that was read in error (R192): corrected, found uncorrectable, or, with three
or more bits in error, whichever of the outcomes the code happens to give; a wrong value is the outside's. -/
inductive WordFault where
  | single | double | multiDetected
  | multiMiscorrected (v : U64)
  | multiUnseen (v : U64)
deriving DecidableEq, Repr

/-- One word of a scratchpad line or accumulator row that is in error. -/
structure WordErr where
  word : Nat
  fault : WordFault
deriving DecidableEq, Repr

/-- Who made a memory read: it decides where the line is delivered and whose record counts it (R199, R216). -/
inductive Requester where
  | engine (die eng : Nat)
  | stream (eng thr : Nat)
  | hub
  | remote (die : Nat)
deriving DecidableEq, Repr

/-- A write to a scratchpad bank (R191, R192): byte enables, bit i for byte i of the line, the data and its marker. -/
structure SpWrite where
  enable : U64
  data : List Byte
  poison : Bool
deriving DecidableEq, Repr

/-- The writers of a ring's PUSH window (R312). -/
inductive RingWriter where
  | core (n : Nat)
  | endpoint
  | fabric (fd : Nat)
deriving DecidableEq, Repr

/-- The two ring indices that software writes (R238). -/
inductive RingIndex where
  | pi | ci
deriving DecidableEq, Repr

/-- The fields of a ring context that software writes besides its indices (R235). -/
inductive RingField where
  | base | type | order | esize | sync | irq | status
deriving DecidableEq, Repr

/-- The welt network's buffered classes (R253). -/
inductive WeltClass where
  | request | response
deriving DecidableEq, Repr

/-- The kind of source whose priority a contender has (R265): a stream thread is named by its engine and number, and a transfer
that has left its source die carries its priority. -/
inductive PrioSource where
  | engine | collector | thread (eng thr : Nat) | hub | fabric | carried (prio : Nat) | lane (vl : Nat)
deriving DecidableEq, Repr

/-- A beat: 64 bytes of data and the poison marker on its wire (R251). -/
structure Beat where
  data : List Byte
  poison : Bool
deriving DecidableEq, Repr

/-- What a transfer asks of its destination, as its header says (R253, R255, R262, R276): a read of so many lines, a write, a
synchronization add, a stream command or descriptor, lap beats, a request for a fabric port and lane, read data, or the completion of
a write. -/
inductive Load where
  | read (addr lines : Nat)
  | write (addr : Nat)
  | add (obj : Nat) (v : U64)
  | command
  | lap
  | fabric (port vl : Nat)
  | data (addr : Nat)
  | done
deriving DecidableEq, Repr

/-- A frame that a die's own units send into the network (R251): the class, the destination and the source, what the transfer asks,
whether the frame opens the transfer, its beats and the beats still to come. -/
structure Frame where
  cls : WeltClass
  dst : Nat
  source : PrioSource
  load : Load
  first : Bool
  beats : List Beat
  more : Nat
deriving DecidableEq, Repr

/-- The arbiters of R263, by resource. -/
inductive ArbId where
  | spBank (die bank : Nat)
  | accBank (die bank : Nat)
  | hbmPort (die ch : Nat)
  | weltLink (die : Nat) (dir : Dir)
  | egress (port : Nat)
deriving DecidableEq, Repr

/-- What a request for a bank or channel port does once it is granted (R191, R198, R202). -/
inductive Job where
  | none
  | spAccess (off : Nat) (wr : Option SpWrite) (errs : List WordErr) (parity : Bool)
  | hbmRead (addr : Nat) (rq : Requester)
  | hbmWrite (addr : Nat) (data : List Byte) (poison : Bool)
  | hbmMerge (addr : Nat) (enable : U64) (data : List Byte) (poison : Bool) (rq : Requester) (err : List (Nat × Byte))
deriving DecidableEq, Repr

/-- A request that reaches the arbiter of a bank or channel port in a round: the contender's number under R264, its source and what
it asks for. -/
structure ArbReq where
  port : Nat
  src : PrioSource
  job : Job
deriving DecidableEq, Repr

/-- The bank whose conflict queue is served, with the errors found in the row it reads (R107, R114). -/
structure BankServe where
  bank : Nat
  errs : List WordErr
deriving DecidableEq, Repr

/-- A die whose unit has no operand, and the line of its scratchpad that the unit reads, where that is what it waits for (R173, R228). -/
structure HoldStart where
  die : Nat
  line : Option Nat
deriving DecidableEq, Repr

/-- Who writes part of a line, and the errors found in the line that is read for it (R202). -/
structure MergeRead where
  rq : Requester
  err : List (Nat × Byte)
deriving DecidableEq, Repr

/-- What a receiving port meets in a cycle: a frame that the units at its end send, the beats whose parity fails, and whether the header
is uncorrectable (R251, R252, R404). -/
structure FrameIn where
  own : Option Frame
  bad : List Nat
  headerBad : Bool
deriving DecidableEq, Repr

/-- What a module is told of its neighbours besides the tables: the twin routes, and the device ID at each port (R284, R301). -/
structure Neighbours where
  twin : List Nat
  peers : List (Nat × Nat)
deriving DecidableEq, Repr

/-- A hub core and the offset it accesses in the hub complex range (R310). -/
structure CorePlace where
  core : Nat
  off : Nat
deriving DecidableEq, Repr

/-- What a device asks: a read, or a write of data, with the core and identity that it interrupts where it is a message-signalled
interrupt (R326). -/
structure DeviceAsk where
  data : Option (List Byte)
  msi : Option (Nat × Nat)
deriving DecidableEq, Repr

/-- A message of the Sundu fabric: the header of R291 and the data that follows it. -/
structure Msg where
  mtype : Nat
  dn : Bool
  poison : List Bool
  dst : Nat
  src : Nat
  len : Nat
  addr : Nat
  txtag : Nat
  hops : Nat
  arg : U32
  data : List Byte
deriving DecidableEq, Repr

/-- The heartbeat record of R302. -/
structure Heartbeat where
  uid : U64
  role : Nat
  applied : U64
  tick : U64
deriving DecidableEq, Repr

/-- The egress ports of one multicast group at a module, and whether it delivers locally (R297). -/
structure McTree where
  group : Nat
  ports : List Nat
  deliver : Bool
  receivers : List Nat
deriving DecidableEq, Repr

/-- The identity and port states that a discovery probe's reply carries (R288). -/
structure PeerInfo where
  uid : U64
  portStates : List Nat
  /-- The device ID it holds and the one it prefers, 0 for none. -/
  devId : Nat
  pref : Nat
  /-- Its ports that have a peer: the port, the peer's identity and the peer's port (R284). -/
  peers : List (Nat × U64 × Nat)
  /-- The multicast groups it has a role in, with the role (R297). -/
  groups : List (Nat × Nat)
deriving DecidableEq, Repr

/-- The fields of a fabric send slot when DOORBELL is written (R313). -/
structure SlotFields where
  mtype : Nat
  dst : Nat
  arg : U32
  len : Nat
  route : Nat
  data : List Byte
deriving DecidableEq, Repr

/-- The source of an FMP request (R362): an IPv6 address and UDP port, a fabric device ID or route, a hub core. -/
inductive Source where
  | ip (addr : List Byte) (port : Nat)
  | device (id : Nat)
  | route (ports : List Nat)
  | core (n : Nat)
deriving DecidableEq, Repr

/-- The three paths of R347; an FMP request carries an open session or none. -/
inductive Path where
  | fmpPlain | fmpSession | window
deriving DecidableEq, Repr

/-- A front-end configuration write to the endpoint (R317, R325, R433). -/
inductive EpCfg where
  | busMaster (on : Bool)
  | pmeEnable (on : Bool)
  | d3hot
  | msixEnable (on : Bool)
  | msixMask (entry : Nat) (on : Bool)
deriving DecidableEq, Repr

/-- A fitted DIMM as its SPD reports it and as training leaves it (R209, R210, R214). -/
structure Dimm where
  capGiB : Nat
  width : Nat
  stacked : Bool
  mts : Nat
  ecc8 : Bool
  trains : Bool
deriving DecidableEq, Repr

/-- An access of the kinds that wake the module (R379), as it is held until the exit completes. -/
inductive Access where
  | ringPush (w : RingWriter) (ring : Nat) (entry : List Byte)
  | ringIndex (ring : Nat) (which : RingIndex) (v : U32)
  | syncSet (obj : Nat) (v : U64)
  | syncAdd (obj : Nat) (v : U64)
  | vector (v : Nat)
  | bar0 (off : Nat) (len : Nat) (wr : Option U64)
  | bar2 (off : Nat) (len : Nat) (wr : Option (List Byte × Bool))
  | rootPort (q addr len : Nat) (wr : Option (List Byte)) (msi : Option (Nat × Nat))
  | fabRead (m : Msg)
  | fabWrite (m : Msg)
  | fabSignal (m : Msg)
  | fabRingPush (m : Msg)
  | fabMulticast (m : Msg)
  | mirror (seq : U32) (addr : Nat) (data : List Byte) (poison : Bool)
  | window (core off len : Nat) (wr : Option U64)
deriving DecidableEq, Repr

/-- The commands: one constructor per row of spec/opcode_table.json, in the table's order. -/
inductive Instr where
  /-- Operations: the hub takes the issue entry at the head of ring 0 (R242, R243, R69). -/
  | spmm | spgemm | sddmm | conv | gather | scatter | eltwise | reduce | softmax
  | formatConvertToBlocked | formatConvertToPlain | blockTranspose | predict | transposeCopy | unknownOperation
  | issueWait | issueSignal | issueSkipped
  /-- The schedule of an operation (R25, R155, R159 to R180, R27). -/
  | descriptorArrival (die : Nat)
  | lastHeaderCheck
  | metadataDue (die : Nat) (opd : Opd) (arrived : Bool)
  | lastingStart (die : Nat)
  | phaseCountersStart (die : Nat)
  | phaseCounterExpire (die : Nat)
  | barrierArrivalReceive (die : Nat)
  | barrierReleaseArrival (die : Nat)
  | nominalRelease (die : Nat)
  | completionRecordWrite
  | lapStep (die : Nat)
  | lapComplete (die : Nat)
  | collectorSlot (die : Nat) (dir : Dir)
  /-- Accumulator banks (R107, R114). -/
  | accRowUpdate (die requester : Nat) (errs : List WordErr) (parity : Bool)
  | conflictQueueServe (die : Nat) (q : BankServe)
  /-- HBM (R198 to R208). -/
  | hbmReadAccept (addr : Nat) (rq : Requester) (waited : Nat)
  | hbmReadDecode (id : Nat) (err : List (Nat × Byte))
  | holdEnd (die : Nat)
  | hbmReadDeliver (id : Nat)
  | supplyHoldStart (h : HoldStart)
  | supplyHoldEnd (die : Nat)
  | hbmWriteAccept (addr : Nat) (data : List Byte) (poison : Bool)
  | readModifyWrite (addr : Nat) (enable : U64) (data : List Byte) (poison : Bool) (r : MergeRead)
  | poisonWriteback (addr : Nat)
  | hbmRefresh (die channel bank cycles : Nat)
  | patrolScrubRead (addr : Nat) (err : List (Nat × Byte))
  | scrubWriteback (addr : Nat)
  /-- The DDR5 tier and the scratchpads (R191 to R194, R206, R210 to R212). -/
  | tierRead (addr : Nat) (rq : Requester) (err : List (Nat × Byte))
  | tierWrite (addr : Nat) (data : List Byte) (poison : Bool)
  | scratchpadAccess (die off : Nat) (wr : Option SpWrite) (errs : List WordErr) (parity : Bool)
  | spEnableWrite (die : Nat) (mask : U64)
  | spBankFillDone (die bank : Nat)
  | hbmEccModeWrite (v : Byte)
  | ddrEccModeWrite (v : Byte)
  | hbmFillDone (die : Nat)
  | ddrFillDone (channel : Nat)
  | taskWindowWrite (task field : Nat) (v : U64)
  /-- Stream commands and streams (R221 to R232, R454). -/
  | start | rearm | stop
  | stopComplete (eng thr : Nat)
  | query | invalidCommand
  | streamBatchFetch (eng thr : Nat)
  | streamBatchLanded (eng thr : Nat)
  | streamEntryIssue (eng thr : Nat) (parity : Bool)
  | streamEntryComplete (eng thr : Nat)
  | streamPassComplete (eng thr : Nat)
  /-- Laces, rings and synchronization objects (R229, R235 to R241, R248, R249, R310). -/
  | laceWindowPush (eng lace : Nat) (h : U32)
  | laceWindowPop (eng lace : Nat) (ctlErr : Bool)
  | laceStatusWrite (eng lace : Nat) (v : U64)
  | ringPushWindow (w : RingWriter) (ring : Nat) (entry : List Byte) (ctlErr : Bool)
  | ringPopWindow (ring : Nat) (ctlErr : Bool)
  | ringIndexWrite (ring : Nat) (which : RingIndex) (v : U32)
  | ringStatusWrite (ring : Nat) (field : RingField) (v : U64)
  | syncWindowSet (obj : Nat) (v : U64)
  | syncWindowAdd (obj : Nat) (v : U64) (ctlErr : Bool)
  | syncAddArrival (adds : List (Nat × U64)) (waiting : Nat)
  /-- The welt network (R252, R264). -/
  | weltFrameReceive (die : Nat) (port : Dir) (f : FrameIn)
  | arbiterGrant (arb : ArbId) (arrivals : List ArbReq)
  /-- The Sundu link layer (R275 to R285, R442). -/
  | phyTrainingComplete (port : Nat)
  | helloSend (port : Nat)
  | helloReceive (port : Nat) (rec : List Byte) (intact : Bool)
  | flitReceive (port : Nat) (flit : List Byte) (fecCorrected fecUncorrectable : Nat)
  | replayTimeout (port : Nat)
  | retrainDone (port : Nat)
  | retrainTimeout (port : Nat)
  | pluggableInsert (port deciwatts : Nat)
  | pluggableRemove (port : Nat)
  | portEnableWrite (v : Byte)
  /-- Fabric messages and discovery (R287 to R296). -/
  | messageForward (ingress : Option Nat) (m : Msg)
  | fabricRead (m : Msg)
  | fabricWrite (m : Msg)
  | fabricSignal (m : Msg)
  | fabricRingPush (m : Msg)
  | fabricFmp (m : Msg)
  | readData (m : Msg)
  | fabricAck (m : Msg)
  | probe (m : Msg)
  | probeReply (m : Msg) (info : PeerInfo)
  | setId (id : Nat)
  | setRoute (up down : List (Nat × Nat)) (trees : List McTree) (near : Neighbours)
  | sweepEnd
  | linkEvent (uid : U64) (port state : Nat)
  /-- Multicast (R297 to R300). -/
  | mcData (m : Msg)
  | mcAck (g receiver : Nat) (delivered consumed : U64)
  | mcAckReport (g : Nat)
  | mcCtlShed (g : Nat) (off : U64)
  | mcCtlRejoin (g receiver : Nat)
  | mcCtlAdmit (g : Nat) (off : U64)
  | mcCtlRemove (g : Nat)
  | mcRejoinAdmit (g receiver : Nat)
  | mcBehindTimeout (g receiver : Nat)
  | mcModeDisable (g : Nat)
  | mcModeSet (g : Nat) (v : Byte)
  | mcRejoin (g : Nat)
  | egressStallTimeout (port vl : Nat)
  /-- Twins and mirroring (R301 to R306). -/
  | heartbeatSend
  | heartbeatReceive (port : Nat) (hb : Heartbeat)
  | twinLost
  | takeoverEnWrite (v : Byte)
  | mirWrite (seq : U32) (addr : Nat) (data : List Byte) (poison : Bool)
  | mirAck (applied : U64)
  | mirStateWrite (region : Nat) (v : Byte)
  /-- The hub complex (R313 to R326, R430 to R433). -/
  | sendSlotDoorbell (slot : Nat) (f : SlotFields)
  | sendSlotTimeout (slot : Nat)
  | bar0Access (off len : Nat) (wr : Option U64)
  | bar2Access (off len : Nat) (wr : Option (List Byte × Bool))
  | outboundAccess (place : CorePlace) (len : Nat) (wr : Option (List Byte)) (reply : List Byte)
  | rootPortRequest (q addr len : Nat) (ask : DeviceAsk)
  | perstNAssert
  | perstNDeassert
  | endpointLinkUp
  | endpointD0Entry
  | rpPerstWrite (v : Byte)
  | vectorRaise (v : Nat) (ctlErr : Bool)
  | vectorDeliver (v : Nat)
  | wdtKick (v : U32)
  | wdtHalfPeriod
  | wdtExpire
  | corePoisonLoad (core addr : Nat)
  /-- The root of trust (R329 to R338, R390). -/
  | measureLast (addr : Nat)
  | measureRuntime (digest : List Byte)
  | measureDone
  | nonceWrite (nonce : List Byte)
  | quoteSigned
  | fwImageWrite (image : List Byte)
  | fwImageWriteDone
  | restart (v : Byte)
  | fullRestart
  | config (rec : List Byte)
  | configVerifyDone
  | idCertWrite (cert : List Byte)
  | islandPowerUp (pattern : List Byte)
  | auxInputLoss
  /-- The Fjarman Management Protocol (R351 to R369). -/
  | fmpDatagramReceive (src : Source) (bytes : List Byte) (fragmented : Bool)
  | fmpRead | fmpWrite | readSeg | writeSeg | poll
  | sessionOpen | sessionAuth
  | sessionAuthDone
  | sessionClose | fmpUndefinedOp
  | heartbeat (addr : List Byte) (hb : Heartbeat)
  | challengeTimeout (sid : Nat)
  | sessionIdleTimeout (sid : Nat)
  | segTransferTimeout (src : Source) (obj : Nat)
  | handleExpire (handle : Nat)
  | mailboxDoorbell (core len : Nat) (req : List Byte)
  | objectWrite (path : Path) (obj : Nat) (value : List Byte)
  | objectCopyRefresh
  /-- Event records (R368, R414). -/
  | eventRecordWrite (cls code unit sub : Nat) (data : List Byte)
  | eventMergeExpire (cls code unit sub : Nat)
  | eventSendTimeout
  /-- Power states (R376 to R381). -/
  | enterPoise | enterHold | enterRest | enterDormant
  | wakeEvent (acc : Access)
  | exitComplete
  /-- Caps, thermals and supplies (R384 to R391). -/
  | powerSample (milliwatts : Nat)
  | capStepAdjust
  | powerHoldEscalate
  | tjSample (deciC : List Int)
  | throttleStep
  | throttleEnd
  | tripEnd
  | vinWarn (mv : Nat)
  | vinWarnEnd (mv : Nat)
  | vinReset (mv : Nat)
  | railWarn (die mv : Nat)
  | railReset (die : Nat)
  | pllLockLoss (die : Nat)
  | healthPoll (answered : List Bool)
  /-- Losing a unit and module reset (R392, R416 to R422, R431). -/
  | dieLost
  | fenceRequestWrite (stk : Bool) (v : U32)
  | moduleReset
  | moduleResetWrite (v : Byte)
  | moduleResetDelayExpire
  | mrstNAssert
  | mrstNRelease
  | mainRailsRamp (slots : List (Option Dimm))
  /-- Wear (R395 to R399). -/
  | ageingMeasure (shifts : List Nat)
  | stressTick
  | dayRollover
  | lifeRecompute
  /-- The I3C sideband (R434 to R437). -/
  | sidebandRefresh
  | setdasa (addr : Nat)
  | entdaa (addr : Nat)
  | enec
  | sidebandRead (off len : Nat)
  | ibiAck
  /-- Bring-up and links (R389, R393, R416, R421, R430, R440). -/
  | mainRailsUp
  | vinResetRelease
  | mgmtLinkUp | mgmtLinkDown
  | rootPortLinkUp (q : Nat)
  | rootPortLinkDown (q : Nat)
  | endpointLinkDown
  | endpointConfigWrite (w : EpCfg)
  | hbmChannelLost (stack : Nat)
  | ddrChannelFailure (channel : Nat)
  | stateEntryComplete
deriving DecidableEq, Repr

end Sys2Proof
end

