-- ==== Sys2Proof/Machine/Bits.lean ====
section
/-! DEFINITION. Bit fields, byte order and the small list operations the meanings share (R5, R6, R12, R33). -/

namespace Sys2Proof

/-- Bits `hi` down to `lo` of `n` (R5). -/
def bits (n hi lo : Nat) : Nat := n / 2 ^ lo % 2 ^ (hi + 1 - lo)

/-- Bit `i` of `n`. -/
def bit (n i : Nat) : Bool := n / 2 ^ i % 2 == 1

/-- The little-endian value of a byte sequence (R6). -/
def leNat : List Byte → Nat
  | [] => 0
  | b :: rest => b.toNat + 256 * leNat rest

/-- The `k` little-endian bytes of `n` (R6). -/
def leBytes : Nat → Nat → List Byte
  | 0, _ => []
  | k + 1, n => BitVec.ofNat 8 n :: leBytes k (n / 256)

/-- The `len` bytes from offset `off` of a record; a byte the record lacks is 0. -/
def slice (bs : List Byte) (off len : Nat) : List Byte :=
  (List.range len).map fun i => bs.getD (off + i) 0

/-- The little-endian field of `len` bytes at offset `off` of a record. -/
def field (bs : List Byte) (off len : Nat) : Nat := leNat (slice bs off len)

/-- A byte sequence cut or padded with zero bytes to `n` bytes. -/
def fit (n : Nat) (bs : List Byte) : List Byte := slice bs 0 n

/-- `popcount(x)` of R12 over the low `w` bits. -/
def popcount (w n : Nat) : Nat := (List.range w).foldl (fun c i => c + n / 2 ^ i % 2) 0

/-- A bit mask with bit `i` set exactly where `p i`, for `i < w`. -/
def maskOf (w : Nat) (p : Nat → Bool) : Nat :=
  (List.range w).foldl (fun m i => if p i then m + 2 ^ i else m) 0

/-- The largest element of a list of numbers; 0 for none. -/
def listMax (l : List Nat) : Nat := l.foldl Nat.max 0

/-- The sum of a list of numbers. -/
def listSum (l : List Nat) : Nat := l.foldl (· + ·) 0

/-- Insertion into a list ordered by a key. -/
def insertBy {α : Type} (le : α → α → Bool) (x : α) : List α → List α
  | [] => [x]
  | y :: rest => if le x y then x :: y :: rest else y :: insertBy le x rest

/-- A stable sort by insertion: equal elements keep their order. -/
def sortBy {α : Type} (le : α → α → Bool) : List α → List α
  | [] => []
  | x :: rest => insertBy le x (sortBy le rest)

/-- The list without repeats, the first occurrence kept. -/
def dedup {α : Type} [DecidableEq α] (l : List α) : List α :=
  l.foldl (fun acc x => if x ∈ acc then acc else acc ++ [x]) []

/-- The list with element `i` replaced. -/
def setAt {α : Type} (l : List α) (i : Nat) (x : α) : List α := l.set i x

/-- The list cut into pieces of `k` elements, with fuel for the number of pieces. -/
def chunks {α : Type} (k : Nat) : Nat → List α → List (List α)
  | 0, _ => []
  | _, [] => []
  | n + 1, l => l.take k :: chunks k n (l.drop k)

/-- The place of an element in a list, or the list's length. -/
def placeOf {α : Type} [DecidableEq α] (x : α) : List α → Nat
  | [] => 0
  | y :: rest => if x = y then 0 else placeOf x rest + 1

/-- A signed value as the two's complement of width `w`, and back. -/
def toSigned (w n : Nat) : Int :=
  let m := n % 2 ^ w
  if m < 2 ^ (w - 1) then (m : Int) else (m : Int) - 2 ^ w

/-- The two's complement bits of width `w` of a signed value. -/
def ofSigned (w : Nat) (i : Int) : Nat := (i % (2 ^ w : Int)).toNat

end Sys2Proof
end

