-- ==== Sys2Proof/Machine/Objects.lean ====
section
/-! DEFINITION. The object dictionary's table: the index, sub-index, type, right and default of every object that a
chapter defines (R341 to R344, R370), and the number `index × 256 + sub` that names an object in the model. -/

namespace Sys2Proof

/-- The access rights of R343. -/
inductive Right where
  | ro | rw | wo | rs | const
deriving DecidableEq, Repr

/-- A run of objects of one kind: indices `idxLo` to `idxHi`, sub-indices `subLo` to `subHi`, the type code of R342,
the size in bytes (a fixed size, or the limit of a STR or DOMAIN), the right and the default. -/
structure ObjRow where
  idxLo : Nat
  idxHi : Nat
  subLo : Nat
  subHi : Nat
  type : Nat
  size : Nat
  right : Right
  dflt : Nat
deriving DecidableEq, Repr

/-- A row for a scalar unsigned object of one index: type codes 2 to 5 have 1, 2, 4 and 8 bytes. -/
def uRow (idx subLo subHi type : Nat) (right : Right) (dflt : Nat) : ObjRow :=
  { idxLo := idx, idxHi := idx, subLo := subLo, subHi := subHi, type := type, size := 2 ^ (type - 2), right := right, dflt := dflt }

/-- A row for a run of indices. -/
def uRows (idxLo idxHi subLo subHi type : Nat) (right : Right) (dflt : Nat) : ObjRow :=
  { idxLo := idxLo, idxHi := idxHi, subLo := subLo, subHi := subHi, type := type, size := 2 ^ (type - 2), right := right, dflt := dflt }

/-- A row for an object of another type, with its size. -/
def xRow (idx sub type size : Nat) (right : Right) : ObjRow :=
  { idxLo := idx, idxHi := idx, subLo := sub, subHi := sub, type := type, size := size, right := right, dflt := 0 }

/-- Identity, management port and events (R185, R339, R372); the ring for events (R250). -/
def objRows1 : List ObjRow :=
  [ uRow 0x1000 0x01 0x01 2 .const 1, xRow 0x1000 0x02 0x0B 255 .const, xRow 0x1000 0x03 0x0B 255 .const,
    uRow 0x1000 0x04 0x04 5 .ro 0, uRow 0x1000 0x05 0x05 2 .const 1, uRow 0x1000 0x06 0x06 2 .const 1,
    xRow 0x1010 0x01 0x0C 16 .ro, xRow 0x1010 0x02 0x0C 16 .ro, uRow 0x1010 0x03 0x03 3 .rw 4680,
    uRow 0x1010 0x04 0x04 4 .rw 60, uRow 0x1010 0x05 0x05 2 .const 4, uRow 0x1010 0x06 0x06 2 .ro 0,
    xRow 0x1020 0x01 0x0C 16 .rw, uRow 0x1020 0x02 0x02 3 .rw 4681, uRow 0x1020 0x03 0x03 4 .rw 0,
    uRow 0x1020 0x04 0x04 4 .ro 0,
    uRow 0x1100 0x01 0x01 2 .rw 36, uRow 0x1100 0x02 0x02 5 .rw 0,
    uRow 0x1101 0x01 0x01 3 .rw 1, uRow 0x1101 0x02 0x02 3 .rw 0, uRow 0x1101 0x03 0x03 3 .rw 16, uRow 0x1101 0x04 0x04 3 .rw 15,
    uRows 0x1110 0x111F 0x01 0x03 5 .rw 0, uRows 0x1110 0x111F 0x04 0x04 2 .rw 0,
    uRow 0x1120 0x01 0x01 2 .rw 0,
    uRows 0x1130 0x113F 0x01 0x03 5 .rw 0, uRows 0x1130 0x113F 0x04 0x04 2 .rw 0,
    uRow 0x1800 0x01 0x01 3 .rw 1 ]

/-- Power, readiness, supplies, junctions, watchdog and wear (R319, R400). -/
def objRows2 : List ObjRow :=
  [ uRow 0x2000 0x01 0x01 2 .rw 0, uRow 0x2000 0x02 0x02 2 .rw 2, uRow 0x2000 0x03 0x03 4 .rw 125,
    uRow 0x2000 0x04 0x04 4 .rw 12500, uRow 0x2000 0x05 0x05 4 .rw 1250000, uRow 0x2000 0x06 0x06 2 .ro 0,
    uRow 0x2000 0x08 0x08 4 .ro 0, uRow 0x2000 0x09 0x09 2 .ro 0, uRow 0x2000 0x0A 0x0A 3 .ro 2100, uRow 0x2000 0x0B 0x0B 2 .wo 0,
    uRow 0x2010 0x01 0x01 5 .ro 0, uRow 0x2020 0x01 0x01 4 .ro 0, uRow 0x2020 0x02 0x02 4 .ro 0xFFFFFFFF, uRow 0x2030 0x01 0x01 5 .ro 0,
    { idxLo := 0x2040, idxHi := 0x2040, subLo := 1, subHi := 0x19, type := 7, size := 2, right := .ro, dflt := 0 },
    { idxLo := 0x2041, idxHi := 0x2041, subLo := 1, subHi := 0x19, type := 7, size := 2, right := .ro, dflt := 0x8000 },
    uRow 0x2080 0x01 0x01 4 .rw 0, uRow 0x2080 0x02 0x02 4 .wo 0,
    uRow 0x2F00 0x01 0x01 4 .ro 0, uRow 0x2F00 0x02 0x03 2 .ro 0, uRow 0x2F00 0x04 0x04 4 .const 60000,
    uRow 0x2F10 0x01 0x19 4 .ro 0, uRow 0x2F11 0x01 0x19 3 .ro 0, uRow 0x2F20 0x01 0x02 4 .ro 0,
    uRow 0x2F30 0x01 0x12 4 .ro 0,
    { idxLo := 0x2F31, idxHi := 0x2F31, subLo := 1, subHi := 0x12, type := 0x0A, size := 4, right := .ro, dflt := 0 } ]

/-- Path thresholds, awl pass, schedule, fences, arbitration (R81, R150, R185, R274, R424). -/
def objRows3 : List ObjRow :=
  [ uRow 0x3100 0x01 0x01 2 .rw 192, uRow 0x3100 0x02 0x02 2 .rw 208, uRow 0x3100 0x03 0x03 2 .rw 224, uRow 0x3100 0x04 0x04 2 .rw 240,
    uRow 0x3200 0x01 0x01 2 .rw 0, uRow 0x3200 0x02 0x02 4 .rw 0,
    uRow 0x3300 0x01 0x01 3 .rw 0, uRow 0x3300 0x02 0x02 2 .rw 0, uRow 0x3300 0x03 0x03 4 .ro 0xFFFFF,
    uRow 0x3300 0x04 0x04 2 .ro 7, uRow 0x3300 0x05 0x05 2 .ro 4, uRow 0x3300 0x06 0x06 4 .rw 0, uRow 0x3300 0x07 0x07 3 .rw 0,
    uRow 0x3300 0x08 0x08 4 .ro 0, uRow 0x3300 0x09 0x09 3 .ro 0,
    uRow 0x3400 0x01 0x01 2 .rw 8, uRow 0x3400 0x02 0x02 2 .rw 15, uRow 0x3400 0x03 0x03 2 .rw 12, uRow 0x3400 0x04 0x04 2 .rw 10,
    uRow 0x3400 0x05 0x05 2 .rw 8 ]

/-- Memory modes, banks, tiers and task windows (R189, R214, R215). -/
def objRows4 : List ObjRow :=
  [ uRow 0x4000 0x01 0x02 2 .rw 0, uRow 0x4000 0x03 0x04 4 .rw 86400,
    uRow 0x4020 0x01 0x14 5 .rw 0xFFFFFFFFFFFFFFFF, uRow 0x4021 0x01 0x14 5 .rw 0, uRow 0x4022 0x01 0x14 5 .ro 0xFFFFFFFFFFFFFFFF,
    uRow 0x4040 0x01 0x08 4 .ro 0, uRow 0x4041 0x01 0x02 2 .rw 0,
    uRows 0x4100 0x41FF 0x01 0x02 5 .rs 0, uRows 0x4100 0x41FF 0x03 0x04 4 .rs 0, uRows 0x4100 0x41FF 0x05 0x06 3 .rs 0 ]

/-- The fabric, twins, groups and regions (R308). -/
def objRows5 : List ObjRow :=
  [ uRow 0x5000 0x01 0x01 3 .ro 0, uRow 0x5000 0x02 0x02 3 .rw 0,
    { idxLo := 0x5000, idxHi := 0x5000, subLo := 3, subHi := 3, type := 1, size := 1, right := .rw, dflt := 0 },
    uRow 0x5000 0x04 0x04 5 .const 0, uRow 0x5000 0x05 0x05 2 .const 1,
    uRow 0x5001 0x01 0x01 2 .rw 8, uRow 0x5001 0x02 0x02 2 .rw 10, uRow 0x5001 0x03 0x03 2 .rw 6, uRow 0x5001 0x04 0x04 2 .rw 12,
    uRow 0x5002 0x01 0x01 4 .ro 0, uRow 0x5003 0x01 0x01 2 .rw 0xFF,
    uRow 0x5010 0x01 0x08 4 .ro 0, uRow 0x5011 0x01 0x08 5 .ro 0,
    uRows 0x5020 0x502F 0x01 0x02 5 .rw 0, uRows 0x5020 0x502F 0x03 0x03 3 .rw 0, uRows 0x5020 0x502F 0x04 0x04 2 .rw 0,
    uRow 0x5040 0x01 0x01 3 .rw 1, uRow 0x5040 0x02 0x02 3 .rw 0, uRow 0x5040 0x03 0x03 3 .rw 1, uRow 0x5040 0x04 0x04 3 .rw 0,
    uRow 0x5100 0x01 0x01 5 .ro 0, uRow 0x5100 0x02 0x03 2 .ro 0, xRow 0x5100 0x04 0x0C 16 .ro,
    uRow 0x5100 0x05 0x05 2 .rw 0, uRow 0x5100 0x06 0x08 5 .ro 0,
    { idxLo := 0x5100, idxHi := 0x5100, subLo := 0x0A, subHi := 0x0A, type := 1, size := 1, right := .rw, dflt := 1 },
    uRows 0x5200 0x55FE 0x01 0x01 2 .rs 0, uRows 0x5200 0x55FE 0x02 0x02 4 .rs 262144, uRows 0x5200 0x55FE 0x03 0x03 4 .rs 2500,
    uRows 0x5200 0x55FE 0x04 0x04 5 .rs 0, uRows 0x5200 0x55FE 0x05 0x05 4 .rs 0, uRows 0x5200 0x55FE 0x06 0x07 3 .rs 0,
    uRows 0x5200 0x55FE 0x08 0x08 4 .ro 0, uRows 0x5200 0x55FE 0x09 0x09 5 .ro 0,
    uRows 0x5600 0x560F 0x01 0x03 5 .rs 0, uRows 0x5600 0x560F 0x04 0x04 2 .rw 0 ]

/-- Boot, attestation, image and record (R339). -/
def objRows6 : List ObjRow :=
  [ uRow 0x6000 0x01 0x01 2 .ro 1, uRow 0x6000 0x02 0x04 4 .ro 0, uRow 0x6000 0x05 0x05 2 .ro 0,
    xRow 0x6100 0x01 0x0C 64 .ro, xRow 0x6100 0x02 0x0C 64 .ro, xRow 0x6100 0x03 0x0C 64 .ro, xRow 0x6100 0x04 0x0C 64 .ro,
    uRow 0x6100 0x05 0x05 4 .ro 0, xRow 0x6100 0x06 0x0C 32 .wo, xRow 0x6100 0x07 0x0C 3629 .ro, uRow 0x6100 0x08 0x08 2 .ro 0,
    xRow 0x6100 0x09 0x0C 1952 .ro, xRow 0x6100 0x0A 0x0C 16384 .rs,
    xRow 0x6200 0x01 0x0D 0x2000000 .wo, uRow 0x6200 0x03 0x03 2 .wo 0, xRow 0x6300 0x01 0x0D 5389 .rw ]

/-- Counters and the event log (R81, R131, R150, R185, R216, R250, R274, R309, R340, R372, R401, R424, R425, R449). -/
def objRows7 : List ObjRow :=
  [ uRow 0x7110 0x01 0x0C 5 .ro 0, uRow 0x7120 0x01 0x08 5 .ro 0, uRow 0x7130 0x01 0x0A 5 .ro 0, uRow 0x7140 0x01 0x09 5 .ro 0,
    uRow 0x7150 0x01 0x0C 5 .ro 0, uRow 0x7160 0x01 0x11 5 .ro 0, uRow 0x7170 0x01 0x0F 5 .ro 0,
    uRow 0x7180 0x01 0x04 5 .ro 0, uRow 0x7180 0x05 0x05 4 .ro 0, uRow 0x7180 0x06 0x08 5 .ro 0,
    uRow 0x7190 0x01 0x14 5 .ro 0, uRow 0x71A0 0x01 0x0B 5 .ro 0, uRow 0x71B0 0x01 0x0A 5 .ro 0,
    xRow 0x7E00 0x01 0x0D 0x100000 .ro, uRow 0x7E00 0x02 0x02 4 .ro 0, uRow 0x7F00 0x01 0x08 5 .ro 0 ]

/-- The table of objects. -/
def objRows : List ObjRow :=
  objRows1 ++ objRows2 ++ objRows3 ++ objRows4 ++ objRows5 ++ objRows6 ++ objRows7

/-- The row, in a list, of object number `n`. -/
def findRow (rows : List ObjRow) (n : Nat) : Option ObjRow :=
  match rows with
  | [] => none
  | r :: rest =>
    if r.idxLo ≤ n / 256 ∧ n / 256 ≤ r.idxHi ∧ r.subLo ≤ n % 256 ∧ n % 256 ≤ r.subHi then some r else findRow rest n

/-- The highest sub-index of an index, which its sub-index 00 reads (R341). -/
def topSub (idx : Nat) : Nat :=
  listMax ((objRows.filter fun r => r.idxLo ≤ idx && idx ≤ r.idxHi).map ObjRow.subHi)

/-- The row of object number `n`: sub-index 00 of an index that exists is a U8 constant (R341). -/
def objRow (n : Nat) : Option ObjRow :=
  if n % 256 = 0 then
    if topSub (n / 256) = 0 then none else some (uRow (n / 256) 0 0 2 .const (topSub (n / 256)))
  else findRow objRows n

/-- The default of a scalar object (R344); 0 for an object that does not exist. -/
def objDefault (n : Nat) : Nat :=
  match objRow n with
  | some r => r.dflt
  | none => 0

end Sys2Proof
end

