-- ==== Sys2Proof/Machine/Rs.lean ====
section
/-! DEFINITION. The Reed-Solomon code of memory lines (R204) and its bounded-distance decoder (R205). Field elements are
numbers below 256. A word is described by its difference from a codeword: a list of symbol positions with the XOR of
their values. Positions 0 to 63 are the data bytes, 64 to 71 the check bytes c0 to c7. -/

namespace Sys2Proof

/-- Multiplication by α = 0x02 in GF(2^8) under 0x11D. -/
def gfDouble (a : Nat) : Nat := if a < 128 then 2 * a else (2 * a) ^^^ 0x11D

/-- Multiplication in GF(2^8): the bits of `b`, low first, with fuel for its eight bits. -/
def gfMulFuel : Nat → Nat → Nat → Nat
  | 0, _, _ => 0
  | k + 1, a, b => (if b % 2 = 1 then a else 0) ^^^ gfMulFuel k (gfDouble a) (b / 2)

/-- Multiplication in GF(2^8). -/
def gfMul (a b : Nat) : Nat := gfMulFuel 8 a b

/-- Powers in GF(2^8). -/
def gfPow (a : Nat) : Nat → Nat
  | 0 => 1
  | k + 1 => gfMul a (gfPow a k)

/-- α to the power `k`, reduced modulo the order 255 of α. -/
def gfAlpha (k : Nat) : Nat := gfPow 2 (k % 255)

/-- The inverse of a nonzero element: its power 254. -/
def gfInv (a : Nat) : Nat :=
  let a2 := gfMul a a
  let a4 := gfMul a2 a2
  let a8 := gfMul a4 a4
  let a16 := gfMul a8 a8
  let a32 := gfMul a16 a16
  let a64 := gfMul a32 a32
  let a128 := gfMul a64 a64
  gfMul a128 (gfMul a64 (gfMul a32 (gfMul a16 (gfMul a8 (gfMul a4 a2)))))

/-- The exponent of x that a symbol position stands at: data byte j at j + 8, check byte i at i. -/
def rsExponent (pos : Nat) : Nat := if pos < 64 then pos + 8 else pos - 64

/-- Syndrome `i` of an error pattern: its value at α^i. -/
def rsSyndrome (e : List (Nat × Nat)) (i : Nat) : Nat :=
  e.foldl (fun acc p => acc ^^^ gfMul p.2 (gfAlpha (i * rsExponent p.1))) 0

/-- A polynomial's value, coefficients low first. -/
def gfEval : List Nat → Nat → Nat
  | [], _ => 0
  | c :: rest, x => c ^^^ gfMul x (gfEval rest x)

/-- The sum of two polynomials. -/
def gfAdd : List Nat → List Nat → List Nat
  | [], q => q
  | p, [] => p
  | a :: p, b :: q => (a ^^^ b) :: gfAdd p q

/-- The state of the Berlekamp-Massey iteration. -/
structure RsIter where
  c : List Nat
  b : List Nat
  len : Nat
  shift : Nat
  disc : Nat
deriving DecidableEq, Repr

/-- One iteration on the syndromes up to number `n`. -/
def rsIterate (syn : List Nat) (it : RsIter) (n : Nat) : RsIter :=
  let d := (List.range (it.len + 1)).foldl (fun acc i => acc ^^^ gfMul (it.c.getD i 0) (if i ≤ n then syn.getD (n - i) 0 else 0)) 0
  if d = 0 then { it with shift := it.shift + 1 }
  else
    let k := gfMul d (gfInv it.disc)
    let c := gfAdd it.c (List.replicate it.shift 0 ++ it.b.map (gfMul k))
    if 2 * it.len ≤ n then { c := c, b := it.c, len := n + 1 - it.len, shift := 1, disc := d }
    else { it with c := c, shift := it.shift + 1 }

/-- The error locator of eight syndromes and its degree bound. -/
def rsLocator (syn : List Nat) : List Nat × Nat :=
  let it := (List.range 8).foldl (rsIterate syn) { c := [1], b := [1], len := 0, shift := 1, disc := 1 }
  (it.c, it.len)

/-- The value of the error at the symbol with exponent `x` (Forney's formula). -/
def rsErrorValue (syn loc : List Nat) (x : Nat) : Nat :=
  let inv := gfAlpha (255 - x % 255)
  let omega := (List.range 8).map fun i =>
    (List.range (i + 1)).foldl (fun acc j => acc ^^^ gfMul (loc.getD j 0) (syn.getD (i - j) 0)) 0
  let deriv := (List.range loc.length).foldl
    (fun acc i => if i % 2 = 1 then acc ^^^ gfMul (loc.getD i 0) (gfAlpha ((255 - x % 255) * (i - 1))) else acc) 0
  gfMul (gfAlpha x) (gfMul (gfEval omega inv) (gfInv deriv))

/-- The change the decoder makes to a word that differs from a codeword by `e`, where the word lies within `radius`
symbols of some codeword; none where it lies within the radius of none (R205). A pattern of at most `radius` symbols
is undone; a word that is itself a codeword is left; for any other the candidate that the locator gives is taken if it has at most `radius` symbols and leaves
a codeword. -/
def rsDecode (radius : Nat) (e : List (Nat × Nat)) : Option (List (Nat × Nat)) :=
  if e.length ≤ radius then some e
  else
    let syn := (List.range 8).map (rsSyndrome e)
    let lc := rsLocator syn
    if lc.2 = 0 then some []
    else if radius < lc.2 then none
    else
      let found := (List.range 72).filter fun p => gfEval lc.1 (gfAlpha (255 - rsExponent p % 255)) = 0
      let fix := found.map fun p => (p, rsErrorValue syn lc.1 (rsExponent p))
      if found.length = lc.2 ∧ (List.range 8).all (fun i => rsSyndrome fix i = syn.getD i 0) then some fix else none

/-- One step of the division by g(x): the remainder, high coefficient first, takes in the next data byte. -/
def rsShift (gen : List Nat) (r : List Nat) (d : Nat) : List Nat :=
  let f := d ^^^ r.headD 0
  (List.range 8).map fun i => (r.getD (i + 1) 0) ^^^ gfMul f (gen.getD i 0)

/-- g(x) without its leading coefficient, high coefficient first. -/
def rsGenerator : List Nat :=
  ((List.range 8).foldl (fun p i => gfAdd (0 :: p) (p.map (gfMul (gfAlpha i)))) [1]).reverse.drop 1

/-- The check bytes c0 to c7 of a line (R204). -/
def rsCheck (line : List Nat) : List Nat :=
  let gen := rsGenerator
  (line.reverse.foldl (rsShift gen) (List.replicate 8 0)).reverse

end Sys2Proof
end

