-- ==== Sys2Proof/Machine/SMap.lean ====
section
/-! DEFINITION. Sparse tables: reading, writing and the canonical form. A table lists its keys in strictly rising
order and never lists a key whose value is the default, so that equal tables are equal data. -/

namespace Sys2Proof

/-- The value at key `k`, or the default `d`. -/
def SMap.get {α : Type} (m : SMap α) (k : Nat) (d : α) : α :=
  match m with
  | [] => d
  | (i, v) :: rest => if i = k then v else SMap.get rest k d

/-- The table without key `k`. -/
def SMap.erase {α : Type} (m : SMap α) (k : Nat) : SMap α :=
  match m with
  | [] => []
  | (i, v) :: rest => if i = k then SMap.erase rest k else (i, v) :: SMap.erase rest k

/-- The table with `v` at key `k`, listed at its place. -/
def SMap.insert {α : Type} (m : SMap α) (k : Nat) (v : α) : SMap α :=
  match m with
  | [] => [(k, v)]
  | (i, w) :: rest =>
    if k < i then (k, v) :: (i, w) :: rest
    else if i = k then (k, v) :: rest
    else (i, w) :: SMap.insert rest k v

/-- The table with `v` at key `k`; the default `d` is not listed. -/
def SMap.set {α : Type} [DecidableEq α] (m : SMap α) (k : Nat) (v d : α) : SMap α :=
  if v = d then SMap.erase m k else SMap.insert m k v

/-- The canonical form above a key bound. -/
def SMap.wfFrom {α : Type} [DecidableEq α] (d : α) : Nat → SMap α → Bool
  | _, [] => true
  | lo, (k, v) :: rest => decide (lo ≤ k) && decide (v ≠ d) && SMap.wfFrom d (k + 1) rest

/-- The canonical form of a table with default `d`. -/
def SMap.wf {α : Type} [DecidableEq α] (d : α) (m : SMap α) : Bool := SMap.wfFrom d 0 m

/-- The keys a table lists. -/
def SMap.keys {α : Type} (m : SMap α) : List Nat := m.map Prod.fst

end Sys2Proof
end

