-- ==== Sys2Proof/Machine/State.lean ====
section
/-! DEFINITION. The state of the module as plain data, the reasons a step can stop, and the state after reset. -/

namespace Sys2Proof.Machine

/-- The faults that stop the machine: none. The spec gives every access, command and event an outcome
(clipping, dropping, ignoring, counting or refusing with a record: R14, R187, R218, R247), so no meaning raises one. -/
inductive Fault where
deriving DecidableEq, Repr

/-- Why a command has no meaning in the model. -/
inductive Refusal where
  /-- Raised by `exec` alone, for a command whose meaning is not written; safe: no step is taken. -/
  | notModelled (mnemonic : String)
deriving DecidableEq, Repr

/-! ## Memory -/

/-- Main memory: the bytes at physical addresses (R186), in the canonical form of `Memory.wf`. -/
abbrev Memory := List Host.Cell

/-- The canonical form above an address bound: strictly rising addresses, and no byte equal to what an unlisted
address reads as, which is 0 (the clean zero fill of R193, R197, R210). -/
def Memory.wfFrom : Nat → Memory → Bool
  | _, [] => true
  | lo, (a, b) :: rest => decide (lo ≤ a) && decide (b ≠ 0) && Memory.wfFrom (a + 1) rest

/-- The canonical form of memory. -/
def Memory.wf (m : Memory) : Bool := Memory.wfFrom 0 m

/-- One HBM read between its acceptance and its delivery (R198, R199). -/
structure HbmRead where
  id : Nat
  addr : Nat
  rq : Requester
  acceptedAt : Nat
  /-- Cycles it waited for acceptance, and those that a refresh of its bank holds it up (R201). -/
  waited : Nat
  delay : Nat
  /-- The data, the check difference (see `MemState.check`) and the tag as stored at acceptance. -/
  data : List Byte
  diff : List Byte
  tag : U16
  /-- A write to the line has been accepted since, so that a poison write-back is dropped (R207). -/
  stale : Bool
  /-- The die that the line answers over the network, and the request's priority (R265). -/
  reply : Option (Nat × Nat)
  /-- What the decode found, once it has taken place: the data, the poison marker, and the symbols corrected. -/
  result : Option (List Byte × Bool × Nat)
deriving DecidableEq, Repr

/-- A line as it was last delivered to a requester, and the cycle in which it reaches it (R191, R199). -/
structure Delivery where
  rq : Requester
  arrives : Nat
  addr : Nat
  data : List Byte
  poison : Bool
deriving DecidableEq, Repr

/-- How a tier die maps its ready channels into its aperture (R211); no channel is listed before the layout is chosen. -/
structure TierLayout where
  interleaved : Bool
  channels : List Nat
deriving DecidableEq, Repr

/-- The memories and their controllers. -/
structure MemState where
  /-- HBM, DDR5 and scratchpad bytes by physical address (R186). -/
  bytes : Memory
  /-- The XOR of a line's stored check bytes with the check bytes of its stored data, where it is not zero, by line
  number (R203; the code is linear, R204). -/
  check : SMap (List Byte)
  /-- TAG of HBM and DDR5 lines, by line number (R207). -/
  tag : SMap U16
  /-- The three copies of each scratchpad line's poison flag, by line number (R192). -/
  spFlag : SMap (BitVec 3)
  /-- HBM reads in flight, oldest first (R198, R199). -/
  reads : List HbmRead
  nextRead : Nat
  /-- The cycle after the last in which a channel's port accepted a request, by die × 16 + channel (R198), and by 320 + channel for DDR5. -/
  accepted : SMap Nat
  /-- The cycles in which the entries of an HBM channel's queue leave it, by die × 16 + channel (R198). -/
  queued : SMap (List Nat)
  /-- The cycle after the last in which a scratchpad bank performed an access, by die × 64 + bank (R191). -/
  spBusy : SMap Nat
  delivered : List Delivery
  /-- Cycle up to which a bank is blocked by refresh, by (die × 16 + channel) × 64 + bank (R201). -/
  refresh : SMap Nat
  /-- Lines found uncorrectable whose write-back is outstanding: data (64 bytes) and check difference (8) as read (R207). -/
  writeback : SMap (List Byte)
  /-- Scrub reads whose write-back is outstanding: data and check difference to write, and whether the line is
  uncorrectable (R208). -/
  scrub : SMap (List Byte × Bool)
  /-- Cycle at which a scratchpad bank's fill began, by die × 64 + bank (R193). -/
  spFill : SMap Nat
  /-- Bank enable masks waiting for the close of the operation in progress, by die (R193). -/
  spPending : SMap U64
  /-- The HBM decoder mode in force on each die (R206); 4000:01 holds the value written. -/
  eccMode : SMap Byte
  eccPending : Bool
  /-- Halves of HBM whose fill is complete, one bit per compute die (R197). -/
  filled : BitVec 20
  /-- The fitted DIMMs, by module channel (R209). -/
  dimms : List (Option Dimm)
  /-- The layout chosen for TD0 and TD1 (R211). -/
  tier : SMap TierLayout
  /-- TIER_MAP as the last module reset found it, which is in force (R211, R215). -/
  tierMap : SMap Nat
deriving DecidableEq, Repr

/-! ## The array -/

/-- How an accumulator row combines an update with what it holds (R108, R109, R126, R128). -/
inductive AccMode where
  | addF32 | addI32 | maxF32 | minF32 | maxI32 | minI32 | lastWriter
deriving DecidableEq, Repr

/-- One accumulator row: 16 lanes of 32 bits (none: no value received yet, read as +0, R108), the three copies of its poison flag (R103, R195), and the positions
of its lanes, which last-writer mode keeps (R126). -/
structure AccRow where
  vals : List (Option U32)
  flag : BitVec 3
  pos : List Nat
deriving DecidableEq, Repr

/-- A row update on its way to a bank (R107, R112): the physical row, or none where the slot is clipped (R105). -/
structure AccReq where
  requester : Nat
  row : Option Nat
  vals : List (Option U32)
  mode : AccMode
  poison : Bool
  pos : List Nat
  /-- The sum of its partial's pair bounds, which travels with the first row of a partial of PREDICT (R135). -/
  bound : Option U32
deriving DecidableEq, Repr

/-- The pre-reducer of an engine, or the collector's output, in a phase (R112): the row updates of the full buffer, the cycle of the
phase in which its last row left, the cycle in which the lanes end the segment that fills the other buffer, the segments still to end
with the cycles each takes and its row updates, and the cycle after the last in which a row was presented. -/
structure Flush where
  full : List AccReq
  freeAt : Nat
  fillEnd : Nat
  waiting : List (Nat × List AccReq)
  sentAt : Nat
deriving DecidableEq, Repr

/-- The present holds of a die (R172, R173, R386): the cycle after which an ECC hold lets the counter run, a supply
hold with the pending lines it waits for (R228), and the power holds with the cycle they began and the stopped cycles of every 64. -/
structure DieHold where
  eccFrom : Nat
  eccUntil : Nat
  supply : Bool
  awaits : List Nat
  power : Option (Nat × Nat)
deriving DecidableEq, Repr

/-- One work unit of R84 and R452, named by up to four numbers of its operation's kind, and its weight. -/
structure WorkUnit where
  a : Nat
  b : Nat
  c : Nat
  d : Nat
  weight : Nat
deriving DecidableEq, Repr

/-- A segment: the part of one tile, or of an untiled operation's units, that falls in one engine's share (R112). -/
structure Segment where
  die : Nat
  engine : Nat
  tile : Nat
  dense : Bool
  units : List WorkUnit
deriving DecidableEq, Repr

/-- An accumulator slot assignment of R161: block `blk` of C on `die` lies at slot offset `slot`, for the main phase or as a resole
entry (R141). -/
structure SlotAsg where
  die : Nat
  blk : Nat
  slot : Nat
  res : Bool
deriving DecidableEq, Repr

/-- A resole entry (R141, R144). -/
structure ResEntry where
  die : Nat
  blk : Nat
  misses : Nat
  admitted : Bool
deriving DecidableEq, Repr

/-- What one die's binding gives (R159, R160, R162, R165): the lengths of its phases, floors included, its lasting time, and what it
took from the last as it read it: the tile width, the barrier slack and the scheduling mode (R155, R157, R169). -/
structure DiePlan where
  die : Nat
  tLast : Nat
  tRebind : Nat
  lens : List Nat
  tRes : Nat
  tw : Nat
  slack : Nat
  interactive : Bool
deriving DecidableEq, Repr

/-- A lap record of R177. -/
structure LapRec where
  src : Nat
  dst : Nat
  z : Nat
deriving DecidableEq, Repr

/-- The schedule that lasting binds for an operation (the table of bound symbols before R159). -/
structure Plan where
  dies : List DiePlan
  segments : List Segment
  /-- The segments of the resole phase (R142), or of CONV's compute phase (R97). -/
  segments2 : List Segment
  slots : List SlotAsg
  /-- Blocks of C with contributions in the main phase, with the dies that hold them in rank order (R117). -/
  contribs : List (Nat × List Nat)
  /-- For each collected block, the additions of its collection in order: the die that adds and the die added (R119). -/
  merges : List (Nat × List (Nat × Nat))
  /-- The collector slots: the sending die, its parent, and the cycle of the collection phase in which the slot starts (R119). -/
  collLinks : List (Nat × Nat × Nat)
  resole : List ResEntry
  /-- Unfilled blocks (R139), and the miss elements of the computed blocks (R140). -/
  unfilled : List Nat
  missMain : Nat
  root : Nat
  depth : Nat
  laps : List LapRec
  /-- AWLMODE in force (R138, R150) and the threshold of the tiles. -/
  awlMode : Nat
  theta : Nat
deriving DecidableEq, Repr

/-- The planning objects as read once per operation, when planning starts (R82, R150, R185): 3100:01 to 04, 3200:01 and 02, 3300:01
and 02. -/
structure Knobs where
  thr : List Nat
  awlForce : Nat
  budget : Nat
  slack : Nat
  sched : Nat
deriving DecidableEq, Repr

/-- Where a die stands in an operation (R159, R162, R169, R171). -/
inductive Stage where
  | idle | fetching | lasting | running | arrived | closed
deriving DecidableEq, Repr

/-- One active die's progress in an operation. -/
structure DieOp where
  stage : Stage
  /-- Cycle in which the fetch began, and the due cycles of the tensors' metadata still outstanding. -/
  fetchAt : Nat
  due : List (Opd × Nat)
  lastAt : Nat
  /-- The phase in progress or just finished, 1 to 3, its start s, and the phase counter (R162). -/
  phase : Nat
  startAt : Nat
  counter : Nat
  /-- Cycles the counter has run in the phase, for AT (R227). -/
  ran : Nat
  expiredAt : Option Nat
  /-- Cycle in which the release of the open barrier reached the die (ρ of R169). -/
  releaseAt : Option Nat
  /-- Lap steps sent over all the laps carried (R179), the cycle in which each shard sent reaches the successor, and whether the laps
  have completed on the die (R180). -/
  lapStep : Nat
  lapDue : List Nat
  lapDone : Bool
deriving DecidableEq, Repr

/-- A combined arrival on its way to a parent switch (R121). -/
structure Flight where
  dst : Nat
  due : Nat
  count : Nat
  maxima : List Nat
deriving DecidableEq, Repr

/-- The open phase barrier's combining in the switches (R121, R167): what each switch has added up, whether it has sent,
the arrivals on their way, and the cycles in which the root sent the releases of this operation's barriers so far. -/
structure Barrier where
  sums : SMap (Nat × List Nat)
  sent : SMap Bool
  flights : List Flight
  releases : List Nat
deriving DecidableEq, Repr

/-- The counts that a completion record carries (R244). -/
structure Counts where
  clipped : Nat
  dropped : Nat
  unmapped : Nat
  uncorr : Nat
  poisonRd : Nat
  holdEcc : Nat
  holdSup : Nat
  slipCyc : Nat
  slips : Nat
  missMain : Nat
  missResoled : Nat
  missLost : Nat
  entryLost : Nat
  tresMax : Nat
  cycles : Nat
  poisonOut : Nat
  confStall : Nat
  collSlots : Nat
  intWrap : Nat
deriving DecidableEq, Repr

/-- A piece of C that a die writes: physical lines are reached through the task's windows of that die (R188). -/
structure OutWrite where
  die : Nat
  addr : Nat
  data : List Byte
  /-- The bits of each byte that are written; empty where all are. -/
  en : List Byte
  poison : Bool
  /-- Blocks counted at 71B0:04 with this piece: 1 with the first piece of a poisoned block. -/
  blocks : Nat
deriving DecidableEq, Repr

/-- An operation between its taking and its completion record (R25 to R27). -/
structure OpCtx where
  addr : Nat
  desc : List Byte
  descPoison : Bool
  tTaken : Nat
  issuedAt : Nat
  /-- The active dies in rank order, read when planning starts (R84, R181). -/
  active : List Nat
  dies : SMap DieOp
  /-- The planning objects, once planning has started, and the metadata bytes that each die's fetch read, by task address (R61). -/
  knobs : Option Knobs
  snaps : SMap (SMap Byte)
  plan : Option Plan
  /-- STATUS and XCODE of an operation that runs no phase, and the cycle its cause was found (R27). -/
  noPhase : Option (Nat × Nat)
  foundAt : Nat
  headerChecked : Bool
  abandoned : Bool
  barrier : Barrier
  gmax : List Nat
  /-- The writes to C, once the first die has begun the phase that makes them, and the dies that have made theirs. -/
  writes : Option (List OutWrite)
  wrote : List Nat
  /-- The collector slots taken, by their places in the plan. -/
  slotsUsed : List Nat
  poisoned : Bool
  /-- Poisoned metadata in what the dies read, and whether its record is written (R408). -/
  metaPoison : Bool
  metaSeen : Bool
  firstPoison : Option Nat
  forecast : Bool
  /-- The last mirror sequence that the operation's writes produced (R304). -/
  mirSeq : Nat
  counts : Counts
deriving DecidableEq, Repr

/-- The array: the operations taken and not completed, oldest first, accumulators, pre-reducer flushes and holds. -/
structure ArrayState where
  ops : List OpCtx
  /-- Accumulator rows by (die × 4,096 + slot) × 64 + row, and the valid bits of the slots by die × 4,096 + slot (R103,
  R106). A slot's rows 16 to 63 serve output grids of more than 256 elements, whose place R103 and R455 leave open. -/
  acc : SMap AccRow
  valid : SMap Bool
  /-- The sums of pair bounds that travelled with PREDICT's partials, by die × 4,096 + slot (R135). -/
  bounds : SMap (Option U32)
  /-- The cycle after the last in which a bank accepted an update, by die × 64 + bank (R107). -/
  accBusy : SMap Nat
  /-- Conflict queues by die × 64 + bank (R114). -/
  confQ : SMap (List AccReq)
  /-- The pre-reducers, and requester 40 for the collector, by die × 41 + requester (R112). -/
  flush : SMap Flush
  holds : SMap DieHold
  /-- An array clock step requested and not yet in force on every active die, and the step each die has taken (R175). -/
  stepPending : Option Nat
  dieStep : SMap Nat
deriving DecidableEq, Repr

/-! ## Streams -/

/-- The states of a software thread (R220). -/
inductive ThreadMode where
  | idle | running | parked
deriving DecidableEq, Repr

/-- A line's worth of a stream entry's bytes on its way to its destination: the cycle in which it lands, its task address, and its
bytes, each with the marker of the line it came from (R226, R454). -/
structure LineWrite where
  due : Nat
  addr : Nat
  data : List (Byte × Bool)
deriving DecidableEq, Repr

/-- An issued stream entry that has not completed (R226). -/
structure IssuedEntry where
  index : Nat
  entry : List Byte
  /-- The handle that a POP added to the source address (R225). -/
  handle : Nat
  issuedAt : Nat
  /-- Remote requests outstanding (R293). -/
  remote : Nat
  /-- Offset on a multicast stream at which the entry's bytes end, where it appends to one (R298). -/
  mcEnd : Option (Nat × Nat)
  /-- A parity error at the stream engine's input: the first line moved is poisoned (R403). -/
  parity : Bool
  /-- The row and the byte of it that the next request reads, and the bytes read whose destination line is not complete (R225). -/
  row : Nat
  off : Nat
  carry : List (Byte × Bool)
  /-- The lines on their way, and the cycle in which the last one landed. -/
  flying : List LineWrite
  landedAt : Nat
  /-- How many of its destination lines, in increasing order, it has marked pending (R228). -/
  marked : Nat
deriving DecidableEq, Repr

/-- A STOP that is being carried out (R222). -/
structure StopCmd where
  tag : Nat
  cring : Nat
  taken : Nat
  deadline : Nat
deriving DecidableEq, Repr

/-- A scratchpad line marked pending, with the thread and entry that marked it (R228). -/
structure Mark where
  line : Nat
  key : Nat
  index : Nat
deriving DecidableEq, Repr

/-- A stream thread: the command it holds (R221) and its progress through the list (R226, R230). -/
structure Thread where
  mode : ThreadMode
  list : Nat
  count : Nat
  batch : Nat
  prio : Nat
  task : Nat
  cring : Nat
  sync : Nat
  persist : Bool
  sbase : Nat
  dbase : Nat
  deadline : Nat
  tag : Nat
  cmd : Nat
  tTaken : Nat
  startedAt : Nat
  /-- The next entry to issue, the entries fetched and landed (by index), and the batch fetch outstanding. -/
  next : Nat
  entries : List (Nat × List Byte)
  fetched : Nat
  fetching : Option Nat
  retained : Bool
  issued : List IssuedEntry
  stopping : List StopCmd
  /-- The phase lengths of the operations that have closed on the die since the pass began, for AT (R227). -/
  bound : List (List Nat)
  /-- The entry at which the pass ends early, its batch lying beyond the window (R230). -/
  stopAt : Option Nat
  /-- The cycle from which the pass may issue line requests, and the cycle since which its present request waits (R232, R454). -/
  readyAt : Nat
  waitSince : Option Nat
  /-- The last mirror sequence that the command's writes produced (R304). -/
  mirSeq : Nat
  counts : Counts
deriving DecidableEq, Repr

/-- A lace: its handles, first in first out, the handle last popped and UNDERRUN (R229). -/
structure Lace where
  handles : List U32
  last : U32
  underrun : Bool
deriving DecidableEq, Repr

/-- The stream engines. -/
structure StreamState where
  /-- Threads by engine × 64 + thread (R219). -/
  threads : SMap Thread
  /-- Laces by engine × 16 + lace. -/
  laces : SMap Lace
  /-- The scoreboards (R228). -/
  board : List Mark
deriving DecidableEq, Repr

/-! ## The hub -/

/-- A ring context (R235), and the entry its POP window returned last (R239). -/
structure Ring where
  base : U64
  type : Byte
  order : Byte
  esize : Byte
  sync : U16
  irq : U16
  pi : U32
  piDup : U32
  ci : U32
  ciDup : U32
  underrun : Bool
  overflow : Bool
  held : Bool
  reset : Bool
  drops : U32
  lastPop : List Byte
deriving DecidableEq, Repr

/-- An interrupt vector's entry (R316). -/
structure Vector where
  dest : Byte
  core : Byte
  eiid : U16
  msix : U16
  pend : Bool
deriving DecidableEq, Repr

/-- What a completion record says besides its counts (R244). -/
structure RecordHead where
  kind : Nat
  status : Nat
  state : Nat
  tag : Nat
  tDone : Nat
  tTaken : Nat
  code : Nat
  xcode : Nat
  poison : Bool
  awl : Bool
  forecast : Bool
  deadline : Nat
deriving DecidableEq, Repr

/-- A completion record held on a full ring (R240), and the synchronization object it signals when written. -/
structure HeldRecord where
  ring : Nat
  head : RecordHead
  counts : Counts
  sync : Nat
deriving DecidableEq, Repr

/-- A fabric send slot (R313). -/
structure SendSlot where
  doorbell : Nat
  mtype : Nat
  result : U32
  rsp : List Byte
  txtag : Nat
  sentAt : Nat
deriving DecidableEq, Repr

/-- A TLP of a root port for a hub core: the port, configuration space or memory, the address in that space, the data, and whether it
writes (R310). -/
structure RpTlp where
  port : Nat
  config : Bool
  addr : Nat
  data : List Byte
  write : Bool
deriving DecidableEq, Repr

/-- A measurement extension waiting or in progress (R337). -/
inductive Measure where
  | last (addr : Nat)
  | runtime (digest : List Byte)
deriving DecidableEq, Repr

/-- The PCIe endpoint's link and function state (R317, R325, R430, R433). -/
structure Endpoint where
  dlActive : Bool
  perst : Bool
  training : Bool
  busMaster : Bool
  pme : Bool
  d3hot : Bool
  msixEnable : Bool
  /-- Masked MSI-X entries, and those pending in the bit array. -/
  masked : SMap Bool
  pba : SMap Bool
  wakeN : Bool
  pmPme : Bool
  barLog2 : Nat
deriving DecidableEq, Repr

/-- What the hub sends to a core's IMSIC or to the front-end (R317). -/
inductive Signal where
  | msi (core eiid : Nat)
  | msix (entry : Nat)
deriving DecidableEq, Repr

/-- The hub complex. -/
structure HubState where
  rings : SMap Ring
  sync : SMap U64
  /-- The cycle after the last in which a COUNT was added to, and the sum added in that cycle, by object (R249). -/
  added : SMap (Nat × U64)
  vectors : SMap Vector
  held : List HeldRecord
  /-- True when the hub takes no further issue entry: demoted, or module lost (R306, R422). -/
  demoted : Bool
  lost : Bool
  slots : SMap SendSlot
  measures : List Measure
  quoteNonce : List Byte
  quoteTick : Nat
  ep : Endpoint
  signals : List Signal
  /-- TLPs sent to the front-end, as (address, data, is a write) (R325). -/
  tlps : List (Nat × List Byte × Bool)
  /-- Completions returned to the front-end and to root-port devices: data, EP, Unsupported Request. -/
  completions : List (List Byte × Bool × Bool)
  /-- Reference clocks stable since this tick, and the resets the pins drive (R432). -/
  refSince : Option Nat
  rpPerst : BitVec 2
  wdtStart : Nat
  wdtHalf : Bool
  wdtExpired : Bool
  /-- The value a window read returned last: a lace or ring pop, or a hub core's outbound read. -/
  readValue : List Byte
  /-- The bytes the endpoint has stored in each ring's PUSH window since its last push there (R312). -/
  epPush : SMap (List Byte)
  /-- The same of each hub core, by core × 8,192 + ring (R312). -/
  corePush : SMap (List Byte)
  /-- The bytes that hub cores have stored in the send slots, the mailboxes and the measurement window, by their place in the hub complex
  range (R313, R337, R367). -/
  coreBytes : SMap Byte
  /-- TLPs sent by the root ports for the hub cores (R310, R326). -/
  rpTlps : List RpTlp
  coreFaults : List (Nat × Nat)
deriving DecidableEq, Repr

/-! ## The welt network -/

/-- A transfer in the network, or the part of one that a buffer, a frame or its destination holds (R252 to R254, R257 to R259, R266):
its number, its source and destination, the compute die at which it leaves the grid, its class and channel, whether a fence route has
made a down move, its source's kind and the priority it left with, what it asks, the beats held and the beats still to come. -/
structure Xfer where
  id : Nat
  src : Nat
  dst : Nat
  exit : Nat
  cls : WeltClass
  vcB : Bool
  down : Bool
  source : PrioSource
  prio : Nat
  load : Load
  beats : List Beat
  more : Nat
deriving DecidableEq, Repr

/-- A frame on a welt link: the die and port that receive it, the cycle in which it arrives, and what it carries (R251, R256). -/
structure LinkFrame where
  die : Nat
  port : Nat
  due : Nat
  xfer : Xfer
deriving DecidableEq, Repr

/-- A request waiting at an arbiter (R264): the contender's port, the number that tells requests of one port apart (an input buffer, a
lane), the transfer's number, the source, the stamp and age, and for a bank or channel port what it asks for and, where it came over
the network, the die to answer and its priority. -/
structure Waiter where
  port : Nat
  key : Nat
  xfer : Nat
  src : PrioSource
  stamp : Nat
  age : Nat
  rounds : Nat
  job : Job
  reply : Option (Nat × Nat)
deriving DecidableEq, Repr

/-- The owner of a link direction or egress port: its request, and the cycle of the grant (R269). -/
structure Holder where
  w : Waiter
  since : Nat
deriving DecidableEq, Repr

/-- An arbiter: its waiters, for a link direction or egress port the owner, and the cycle after its last round (R263, R269). -/
structure Arbiter where
  id : ArbId
  waiters : List Waiter
  holder : Option Holder
  round : Nat
deriving DecidableEq, Repr

/-- A line read for another die, which waits at the local port's side until its response is sent: the die that read it, the cycle from
which it is there, the die to answer, the priority, the address and the line (R191, R199, R253). -/
structure OwedLine where
  die : Nat
  due : Nat
  dst : Nat
  prio : Nat
  addr : Nat
  beat : Beat
deriving DecidableEq, Repr

/-- The switches' buffers, the links and the arbiters. -/
structure NetState where
  /-- Input buffers by ((die × 5 + port) × 2 + class) × 2 + channel; an edge die's ports are its links (R254). -/
  bufs : SMap (List Xfer)
  /-- Frames on the links, oldest first (R256). -/
  flying : List LinkFrame
  /-- The cycle after the last in which a port took a frame, by die × 5 + port (R251). -/
  taken : SMap Nat
  nextId : Nat
  /-- Transfers of which a part has reached the destination, the last that reached each die in each class, and the adds that have
  reached the hub die's object store (R253, R262). -/
  ending : List (Nat × Xfer)
  arrived : List (Nat × Xfer)
  adds : List (Nat × U64)
  /-- The beats of response for which each die has reserved space (R255). -/
  expected : SMap Nat
  answers : List OwedLine
  arbiters : List Arbiter
  /-- Cycle up to which a collector slot has a link direction, by die × 4 + direction (R270). -/
  reserved : SMap Nat
deriving DecidableEq, Repr

/-! ## The fabric -/

/-- A data flit sent and not acknowledged (R282): its sequence number, lane, payload, the tick it was sent or replayed,
and the messages whose last byte it carries. -/
structure ReplayFlit where
  seq : Nat
  lane : Nat
  payload : List Byte
  sentAt : Nat
  ends : List Msg
deriving DecidableEq, Repr

/-- A Sundu port's link layer (R277 to R285). STATE and the other fields of R284 are the object 5010. -/
structure Port where
  /-- A pluggable is present, and is kept in low-power mode (R442). -/
  cage : Bool
  lowPower : Bool
  txSeq : Nat
  replay : List ReplayFlit
  replays : Nat
  retrainSince : Option Nat
  rxNext : Nat
  /-- A NAK is owed, and the sequence of the last data flit received intact and in order. -/
  nakPending : Bool
  ackNext : Option Nat
  /-- A data flit has been accepted since the last flit was sent (R282). -/
  ackOwed : Bool
  /-- Credits held for each lane at the peer, flits held in the own receive buffers, and credits to return. -/
  credits : List Nat
  rxHeld : List Nat
  creditsOwed : List Nat
  /-- Messages waiting per lane, the bytes of each lane's head message already sent, and the bytes received per lane that
  do not yet make a message. -/
  txQueue : List (List Msg)
  txOff : List Nat
  rxBytes : List (List Byte)
  /-- Tick since which each lane's head message has waited for credit or a context, and the milliseconds reported (R307). -/
  headSince : List (Option Nat)
  stallMs : List Nat
  hellosLeft : Nat
  lastHello : Nat
  /-- Flits sent, newest first. -/
  sent : List (List Byte)
  /-- Multicast groups that hold a context at the port (R297). -/
  contexts : List Nat
deriving DecidableEq, Repr

/-- A receiver as a multicast sender sees it (R299). -/
structure McReceiver where
  id : Nat
  delivered : Nat
  consumed : Nat
  shed : Bool
  removed : Bool
  episode : Bool
deriving DecidableEq, Repr

/-- A multicast group at this module besides its objects (R297 to R300). -/
structure McGroup where
  ports : List Nat
  deliver : Bool
  /-- The sending module, as the group's messages name it. -/
  sender : Nat
  receivers : List McReceiver
  /-- Pieces appended by stream entries and not sent, with their lines' poison markers, and the offset sent. -/
  queue : List (List Byte × List Bool)
  sentOff : Nat
  appended : Nat
  /-- Tick at which each message's first offset was sent, oldest first. -/
  sentLog : List (Nat × Nat)
  /-- Where this module was shed: the first offset not received, and the offset up to which its buffer is poisoned (R300). -/
  shedAt : Nat
  poisonedTo : Nat
  reported : Nat × Nat
  reportAt : Nat
  rejoins : List Nat
deriving DecidableEq, Repr

/-- A mirror write on its way to the twin or waiting to be applied (R303). -/
structure MirLine where
  seq : Nat
  addr : Nat
  data : List Byte
  poison : Bool
deriving DecidableEq, Repr

/-- A remote request outstanding at its source (R293): its transaction tag, the stream thread and entry that made it,
where the bytes read are to be written (a task address, or a fabric global address), and the bytes still to come. -/
structure RemoteReq where
  tag : Nat
  eng : Nat
  thr : Nat
  index : Nat
  addr : Nat
  remoteDst : Bool
  len : Nat
deriving DecidableEq, Repr

/-- A message that crosses the grid from a port of one fabric die to a port of the other, and the cycle in which it is there (R276). -/
structure Transit where
  due : Nat
  port : Nat
  msg : Msg
deriving DecidableEq, Repr

/-- The fabric dies and twin mirroring. -/
structure FabState where
  ports : SMap Port
  /-- Tables U and D: egress port by destination; an unlisted destination has no route (R289). -/
  tableU : SMap Nat
  tableD : SMap Nat
  groups : SMap McGroup
  twinRoutes : List Nat
  /-- The manager's view: modules found by probes and the directed routes to them, whether a sweep is to start and whether one is under
  way, and the probes not yet answered, by transaction tag, with their routes (R288). -/
  found : List PeerInfo
  routes : List (U64 × List Nat)
  sweepWanted : Bool
  sweeping : Bool
  probes : List (Nat × List Nat)
  /-- Changes of STATE to be sent to the manager, and the manager as this module knows it: its device ID and a directed route to it. -/
  linkEvents : List (Nat × Nat)
  manager : Option (Nat × List Nat)
  /-- Messages on their way from one fabric die to the other. -/
  transit : List Transit
  /-- Messages that have reached this module and wait to be forwarded or served, with the port they came in by. -/
  inbox : List (Option Nat × Msg)
  remotes : List RemoteReq
  nextTag : Nat
  /-- Mirror lines queued on each fabric die, by unit number (R304), those received ahead of their turn, and the tick of the last report
  to the primary (R303). -/
  mirQueue : SMap (List MirLine)
  mirIn : List MirLine
  mirAckAt : Nat
  /-- Regions that diverged, each with 5100:06 at that moment, whose event records are still to be written (R304). -/
  mirEvents : List (Nat × Nat)
  mirStopped : Bool
  mirFrozen : Bool
  twinLost : Bool
  roleSettled : Bool
  lastBeat : Nat
deriving DecidableEq, Repr

/-! ## The island -/

/-- A configuration record of R334 as far as the module uses it. -/
structure ConfigRecord where
  seq : Nat
  uid : U64
  fence : U32
  stk : U16
  power : Nat
  role : Nat
  takeover : Bool
  manager : Bool
  twinUid : U64
  twinPorts : Byte
  twinMgmt : List Byte
  mgmtAddr : List Byte
  ownerKey : List Byte
  raw : List Byte
deriving DecidableEq, Repr

/-- An open or opening FMP session (R363, R364). -/
structure Session where
  sid : Nat
  src : Source
  challenge : List Byte
  opened : Bool
  anchor : List Byte
  lastToken : List Byte
  tokensLeft : Nat
  since : Nat
  auth : List Byte
deriving DecidableEq, Repr

/-- A segmented write under way (R358). -/
structure Transfer where
  src : Source
  obj : Nat
  total : Nat
  data : List Byte
  since : Nat
deriving DecidableEq, Repr

/-- A handle (R360): status 0x03 until the work ends. `work` is 0 for an image, 1 for a record, 2 + SID for SESSION_AUTH. -/
structure Handle where
  id : Nat
  work : Nat
  status : Nat
  state : Nat
  endedAt : Option Nat
deriving DecidableEq, Repr

/-- A datagram queued for service (R351, R361). -/
structure Request where
  src : Source
  op : Nat
  sid : Nat
  seq : Nat
  session : Bool
  token : List Byte
  payload : List Byte
  /-- TXTAG of the fabric message that brought it (R291). -/
  tag : Nat
  /-- The tick and cycle in which it arrived, and its place among those of one cycle (R351). -/
  arrived : Nat × Nat
  rank : Nat
deriving DecidableEq, Repr

/-- A reply the controller has sent and keeps (R362). -/
structure Reply where
  src : Source
  seq : Nat
  bytes : List Byte
deriving DecidableEq, Repr

/-- The FMP controller (R351 to R368). -/
structure FmpState where
  queue : List Request
  /-- The last 8 replies of each source, newest first. -/
  kept : List Reply
  sessions : List Session
  transfers : List Transfer
  handles : List Handle
  nextHandle : Nat
  nextSid : Nat
  challenges : Nat
  /-- Local mailboxes by core: DOORBELL and the reply (R367). -/
  mailbox : SMap (Nat × List Byte)
  /-- Replies and events sent on the management port, newest first, and those waiting to be sent. -/
  sent : List (Source × List Byte)
  events : List (Nat × List Byte)
deriving DecidableEq, Repr

/-- A record of class 0 or 2 in its merge window (R414): CLASS, CODE, UNIT, SUB, first tick, MERGED and DATA. -/
structure MergeRec where
  cls : Nat
  code : Nat
  unit : Nat
  sub : Nat
  tick : Nat
  merged : Nat
  data : List Byte
deriving DecidableEq, Repr

/-- The flash device (R327). -/
structure Flash where
  image : List Byte
  slotA : List Byte
  slotB : List Byte
  helper : List Byte
  keyDigest : List Byte
  cert : List Byte
  counter0 : U32
  counter1 : U32
  log : SMap (List Byte)
  logCount : Nat
deriving DecidableEq, Repr

/-- The root of trust as it runs (R329 to R338): whether the island has powered up, the running image, the record in use,
the identity's seed and public key, and the images and records that wait for their verdict, with their handles. -/
structure Trust where
  up : Bool
  running : List Byte
  record : Option ConfigRecord
  seed : List Byte
  pubKey : List Byte
  images : List (List Byte × Nat)
  records : List (List Byte × Nat)
  restartAt : Option Nat
  resetAt : Option Nat
deriving DecidableEq, Repr

/-- The sources that hold a module reset (R392, R431), and the sequencer (R440). -/
structure Rails where
  up : Bool
  ramping : Bool
  vinHold : Bool
  mrstHold : Bool
  trip : Option Nat
  /-- Dies found lost and not yet handled, with their causes (R416). -/
  lostPending : List (Nat × Nat)
  polls : SMap Nat
  /-- Dies that a rail reset keeps off (R391). -/
  off : List Nat
deriving DecidableEq, Repr

/-- Power state transitions, caps and throttle (R378 to R389). -/
structure PowerState where
  /-- The state being entered, an exit under way, and the tick from which the present state's dwell counts. -/
  entering : Option Nat
  exiting : Bool
  since : Nat
  /-- Accesses held until the exit completes (R379). -/
  heldAcc : List Access
  /-- Input power samples in mW, newest first, and the cap controller's step and last comparison. -/
  samples : List Nat
  capStep : Nat
  lastCap : Nat
  /-- Cycles of every 64 that the cap's power holds cover, the tick of their beginning, and whether a junction at 103.0 °C
  or above asks for its own. -/
  capHold : Nat
  holdsSince : Nat
  hot : Bool
  thermalStep : Nat
  throttled : Bool
  throttleSince : Nat
  hotSeen : Bool
  coolSince : Option Nat
  vinWarn : Bool
deriving DecidableEq, Repr

/-- Wear data besides the objects 2F00 to 2F31 (R395 to R399). Stress is kept in seconds at 85 °C in units of 2^-32, as are the
duty sums of the hour and of the last 168 hours; cycle counts are kept by the hour; corrections by the day; all newest first. -/
structure Wear where
  stress : SMap Nat
  duty : SMap Nat
  dutyHours : SMap (List Nat)
  /-- Hottest reading of the second by die, in 0.1 °C. -/
  secMax : SMap (Option Int)
  thermalHours : List Nat
  powerHours : List Nat
  trough : Int
  peak : Int
  today : SMap Nat
  days : SMap (List Nat)
  /-- Hour of the last ageing measurement, and the ticks of the last stress tick, day rollover and prediction. -/
  lastMeasure : Option Nat
  lastStress : Nat
  lastDay : Nat
  lastLife : Nat
deriving DecidableEq, Repr

/-- The I3C target (R435 to R437). -/
structure Sideband where
  dynAddr : Option Nat
  ibiEnabled : Bool
  ibiPending : Bool
  ibiData : Option Byte
  map : List Byte
  readData : List Byte
deriving DecidableEq, Repr

/-- The always-on island. -/
structure Island where
  flash : Flash
  trust : Trust
  fmp : FmpState
  merges : List MergeRec
  rails : Rails
  power : PowerState
  wear : Wear
  side : Sideband
deriving DecidableEq, Repr

/-- The module. -/
structure State where
  /-- Array clock cycles since island power-up (R9), and those since the last tick of the always-on timer. -/
  cycle : Nat
  subTick : Nat
  /-- The dictionary's scalar objects and counters (R341), by index × 256 + sub; an unlisted one holds its default. -/
  obj : SMap U64
  /-- The island's copy of the counters of the 7000 range (R346). -/
  copy : SMap U64
  /-- STR, BLOB and DOMAIN objects, by index × 256 + sub. -/
  blob : SMap (List Byte)
  mem : MemState
  arr : ArrayState
  streams : StreamState
  hub : HubState
  net : NetState
  fab : FabState
  isl : Island
  /-- The model's own: the number of free values drawn so far (see the log). -/
  free : Nat
  pending : List Instr
deriving DecidableEq, Repr

/-! ## The state after reset

Every part starts as the rules give it; a value the spec leaves open is named in the assumption log. -/

/-- No events counted. -/
def Counts.zero : Counts :=
  { clipped := 0, dropped := 0, unmapped := 0, uncorr := 0, poisonRd := 0, holdEcc := 0, holdSup := 0, slipCyc := 0,
    slips := 0, missMain := 0, missResoled := 0, missLost := 0, entryLost := 0, tresMax := 0, cycles := 0,
    poisonOut := 0, confStall := 0, collSlots := 0, intWrap := 0 }

/-- An accumulator row that no update has reached: it reads as zeros (R106). -/
def AccRow.zero : AccRow := { vals := List.replicate 16 none, flag := 0, pos := [] }

/-- A pre-reducer with nothing to flush. -/
def Flush.empty : Flush := { full := [], freeAt := 0, fillEnd := 0, waiting := [], sentAt := 0 }

/-- A die without holds. -/
def DieHold.none : DieHold := { eccFrom := 0, eccUntil := 0, supply := false, awaits := [], power := Option.none }

/-- No arrival has been raised. -/
def Barrier.empty : Barrier := { sums := [], sent := [], flights := [], releases := [] }

/-- A die the operation has not reached. -/
def DieOp.waiting : DieOp :=
  { stage := .idle, fetchAt := 0, due := [], lastAt := 0, phase := 0, startAt := 0, counter := 0, ran := 0,
    expiredAt := none, releaseAt := none, lapStep := 0, lapDue := [], lapDone := true }

/-- An idle thread (R220). -/
def Thread.reset : Thread :=
  { mode := .idle, list := 0, count := 0, batch := 0, prio := 0, task := 0, cring := 0, sync := 0, persist := false,
    sbase := 0, dbase := 0, deadline := 0, tag := 0, cmd := 0, tTaken := 0, startedAt := 0, next := 0, entries := [],
    fetched := 0, fetching := none, retained := false, issued := [], stopping := [], bound := [], stopAt := none,
    readyAt := 0, waitSince := none, mirSeq := 0, counts := Counts.zero }

/-- An empty lace (R229). -/
def Lace.empty : Lace := { handles := [], last := 0, underrun := false }

/-- A ring context of zeros (R237). -/
def Ring.zero : Ring :=
  { base := 0, type := 0, order := 0, esize := 0, sync := 0, irq := 0, pi := 0, piDup := 0, ci := 0, ciDup := 0,
    underrun := false, overflow := false, held := false, reset := false, drops := 0, lastPop := [] }

/-- A vector entry of zeros: disabled (R316). -/
def Vector.zero : Vector := { dest := 0, core := 0, eiid := 0, msix := 0, pend := false }

/-- An idle send slot (R313). -/
def SendSlot.idle : SendSlot := { doorbell := 0, mtype := 0, result := 0, rsp := [], txtag := 0, sentAt := 0 }

/-- A Sundu port that is down: nothing sent, received or held; the own receive buffers are empty (R280, R284). -/
def Port.down : Port :=
  { cage := false, lowPower := false, txSeq := 0, replay := [], replays := 0, retrainSince := none, rxNext := 0,
    nakPending := false, ackNext := none, ackOwed := false, credits := [512, 512, 256, 256], rxHeld := [0, 0, 0, 0],
    creditsOwed := [0, 0, 0, 0], txQueue := [[], [], [], []], txOff := [0, 0, 0, 0], rxBytes := [[], [], [], []],
    headSince := [none, none, none, none], stallMs := [0, 0, 0, 0], hellosLeft := 0, lastHello := 0, sent := [],
    contexts := [] }

/-- A group this module has no part in. -/
def McGroup.empty : McGroup :=
  { ports := [], deliver := false, sender := 0, receivers := [], queue := [], sentOff := 0, appended := 0, sentLog := [],
    shedAt := 0, poisonedTo := 0, reported := (0, 0), reportAt := 0, rejoins := [] }

/-- The memories after reset: clean zero lines, the fills still to come (R193, R197, R210). -/
def MemState.reset : MemState :=
  { bytes := [], check := [], tag := [], spFlag := [], reads := [], nextRead := 0, accepted := [], queued := [], spBusy := [],
    delivered := [], refresh := [],
    writeback := [], scrub := [], spFill := [], spPending := [], eccMode := [], eccPending := false, filled := 0,
    dimms := List.replicate 8 none, tier := [], tierMap := [] }

/-- The array after reset: no operation, every valid bit clear. -/
def ArrayState.reset : ArrayState :=
  { ops := [], acc := [], valid := [], bounds := [], accBusy := [], confQ := [], flush := [], holds := [], stepPending := none,
    dieStep := [] }

/-- Every thread idle, every lace empty. -/
def StreamState.reset : StreamState := { threads := [], laces := [], board := [] }

/-- The endpoint after reset: link down, bus mastering off, D0. -/
def Endpoint.reset : Endpoint :=
  { dlActive := false, perst := true, training := false, busMaster := false, pme := false, d3hot := false,
    msixEnable := false, masked := [], pba := [], wakeN := false, pmPme := false, barLog2 := 36 }

/-- The hub after reset: every ring context, COUNT and vector entry zero (R237, R248). -/
def HubState.reset : HubState :=
  { rings := [], sync := [], added := [], vectors := [], held := [], demoted := false, lost := false, slots := [],
    measures := [], quoteNonce := [], quoteTick := 0, ep := Endpoint.reset, signals := [], tlps := [],
    completions := [], refSince := none, rpPerst := 0, wdtStart := 0, wdtHalf := false, wdtExpired := false,
    readValue := [], epPush := [], corePush := [], coreBytes := [], rpTlps := [], coreFaults := [] }

/-- Empty buffers and idle arbiters. -/
def NetState.reset : NetState :=
  { bufs := [], flying := [], taken := [], nextId := 0, ending := [], arrived := [], adds := [], expected := [], answers := [], arbiters := [], reserved := [] }

/-- Ports down, no routes, no groups, no mirroring. -/
def FabState.reset : FabState :=
  { ports := [], tableU := [], tableD := [], groups := [], twinRoutes := [], found := [], routes := [], sweepWanted := false,
    sweeping := false, probes := [], linkEvents := [], manager := none, transit := [], inbox := [], remotes := [], nextTag := 0, mirQueue := [], mirIn := [], mirAckAt := 0, mirEvents := [],
    mirStopped := false, mirFrozen := false, twinLost := false, roleSettled := false, lastBeat := 0 }

/-- An erased flash device: no image, record, helper data or log record. -/
def Flash.blank : Flash :=
  { image := [], slotA := [], slotB := [], helper := [], keyDigest := [], cert := [], counter0 := 0, counter1 := 0,
    log := [], logCount := 0 }

/-- The island before its power-up: no image runs and no record is in use (R335). -/
def Trust.reset : Trust :=
  { up := false, running := [], record := none, seed := [], pubKey := [], images := [], records := [], restartAt := none,
    resetAt := none }

/-- The controller with nothing queued, kept or open. -/
def FmpState.reset : FmpState :=
  { queue := [], kept := [], sessions := [], transfers := [], handles := [], nextHandle := 1, nextSid := 1,
    challenges := 0, mailbox := [], sent := [], events := [] }

/-- Main rails off, no hold on the reset. -/
def Rails.reset : Rails :=
  { up := false, ramping := false, vinHold := false, mrstHold := false, trip := none, lostPending := [], polls := [], off := [] }

/-- No transition, cap step and thermal step 0. -/
def PowerState.reset : PowerState :=
  { entering := none, exiting := false, since := 0, heldAcc := [], samples := [], capStep := 0, lastCap := 0, capHold := 0,
    holdsSince := 0, hot := false, thermalStep := 0, throttled := false, throttleSince := 0, hotSeen := false, coolSince := none,
    vinWarn := false }

/-- A new module's wear data. -/
def Wear.zero : Wear :=
  { stress := [], duty := [], dutyHours := [], secMax := [], thermalHours := [], powerHours := [], trough := 0, peak := 0,
    today := [], days := [], lastMeasure := none, lastStress := 0, lastDay := 0, lastLife := 0 }

/-- The I3C target before an address is assigned. -/
def Sideband.reset : Sideband :=
  { dynAddr := none, ibiEnabled := false, ibiPending := false, ibiData := none, map := List.replicate 64 0,
    readData := [] }

/-- The island after reset. -/
def Island.reset : Island :=
  { flash := Flash.blank, trust := Trust.reset, fmp := FmpState.reset, merges := [], rails := Rails.reset,
    power := PowerState.reset, wear := Wear.zero, side := Sideband.reset }

/-- The module right after reset: every object at its default, memory with nothing listed, no command waiting. -/
def State.reset : State :=
  { cycle := 0, subTick := 0, obj := [], copy := [], blob := [], mem := MemState.reset, arr := ArrayState.reset,
    streams := StreamState.reset, hub := HubState.reset, net := NetState.reset, fab := FabState.reset,
    isl := Island.reset, free := 0, pending := [] }

end Sys2Proof.Machine
end

