-- ==== Sys2Proof/Machine/Ops.lean ====
section
/-! DEFINITION. The named operations on objects and on memory: reading and writing an object, counting an event,
physical and task addresses (R186 to R188), lines with their check code, tag and flag (R192, R202 to R207), the
clipping rule (R218), and the scratchpad banks' gating (R193). -/

namespace Sys2Proof.Machine

/-- The outcome of a meaning. -/
abbrev Out := Host.Outcome State Fault Refusal

/-! ## Objects and counters -/

/-- The value of object number `n` as the module holds it (R344). -/
def State.get (s : State) (n : Nat) : Nat := (s.obj.get n (BitVec.ofNat 64 (objDefault n))).toNat

/-- The state with `v` in object `n`. -/
def State.put (s : State) (n v : Nat) : State :=
  { s with obj := s.obj.set n (BitVec.ofNat 64 v) (BitVec.ofNat 64 (objDefault n)) }

/-- An event counted `k` times at counter `n`, modulo 2^64 (R372). -/
def State.bump (s : State) (n k : Nat) : State := s.put n (s.get n + k)

/-- A counter of 32 bits. -/
def State.bump32 (s : State) (n k : Nat) : State := s.put n ((s.get n + k) % 2 ^ 32)

/-- A row that writes one object: nothing before the island is up, refused in state and counted in recovery, else its effect
(R330, R345, R350). -/
def State.objectWritten (s : State) (effect : State → State) : Out :=
  if !s.isl.trust.up then .next s
  else if s.get 0x600001 = 2 then .next (s.bump 0x717005 1)
  else .next (effect s)

/-- The always-on timer (2030:01, R373). -/
def State.tick (s : State) : Nat := s.get 0x203001

/-- A STR, BLOB or DOMAIN object; zero bytes where nothing is stored. -/
def State.getBlob (s : State) (n len : Nat) : List Byte := fit len (s.blob.get n [])

/-- The state with the bytes `v` in object `n`. -/
def State.putBlob (s : State) (n : Nat) (v : List Byte) : State := { s with blob := s.blob.set n v [] }

/-- A free value drawn: the counter that names the next one moves on. -/
def State.draw (s : State) : Nat × State := (s.free, { s with free := s.free + 1 })

/-! ## Dies -/

/-- The HBM stack of a compute die (R18). -/
def dieStack (die : Nat) : Nat := if die < 10 then die % 5 else 5 + die % 5

/-- The two compute dies of a stack, the upper row first (R18). -/
def stackDies (k : Nat) : List Nat := if k < 5 then [k, k + 5] else [k + 5, k + 10]

/-- A die that is fenced now (3300:08, R424). -/
def State.fenced (s : State) (die : Nat) : Bool := bit (s.get 0x330008) die

/-- A compute die whose memory is unmapped: it is fenced or its stack is (R187). -/
def State.gone (s : State) (die : Nat) : Bool := s.fenced die || bit (s.get 0x330009) (dieStack die)

/-- The active compute dies in increasing number (3300:03, R181). -/
def State.activeDies (s : State) : List Nat := (List.range 20).filter fun d => bit (s.get 0x330003) d

/-- Main rails are up: the dies other than the island run (R376, R392). -/
def State.railsUp (s : State) : Bool := s.isl.rails.up

/-! ## Physical addresses -/

/-- Where a physical address lies (R186, R187). -/
inductive Place where
  | hbm (die off : Nat)
  | tier (channel off : Nat)
  | scratch (die off : Nat)
  | hub (off : Nat)
  | unmapped
deriving DecidableEq, Repr

/-- Capacity in use of module channel `c`, in bytes (4040, R214). -/
def State.tierCap (s : State) (c : Nat) : Nat := bits (s.get (0x404001 + c)) 15 4 * 2 ^ 30

/-- The channel and channel offset of a linear layout (R211). -/
def linearChannel (cap : Nat → Nat) : List Nat → Nat → Option (Nat × Nat)
  | [], _ => none
  | c :: rest, o => if o < cap c then some (c, o) else linearChannel cap rest (o - cap c)

/-- STATE of DDR5 channel `c` (R214). -/
def State.ddrState (s : State) (c : Nat) : Nat := bits (s.get (0x404001 + c)) 27 24

/-- The ready channels of tier die `k` in increasing number (R211). -/
def State.readyChannels (s : State) (k : Nat) : List Nat :=
  ((List.range 4).map fun i => 4 * k + i).filter fun c => decide (s.ddrState c = 3)

/-- The layout of tier die `k`: the one chosen, or, until the last of its channels has come up, its ready channels one after the
other, since each is usable as soon as its bit sets (R210, R211; see the log). -/
def State.tierLayout (s : State) (k : Nat) : TierLayout :=
  let t := s.mem.tier.get k { interleaved := false, channels := [] }
  if t.channels = [] then { interleaved := false, channels := s.readyChannels k } else t

/-- The channel and channel offset of offset `o` of tier die `k`'s aperture under its layout (R211). -/
def State.tierChannel (s : State) (k o : Nat) : Option (Nat × Nat) :=
  let t := s.tierLayout k
  if t.interleaved then
    let n := t.channels.length
    if o < listSum (t.channels.map s.tierCap) then
      some (t.channels.getD (o / 256 % n) 0, o / (256 * n) * 256 + o % 256)
    else none
  else linearChannel s.tierCap t.channels o

/-- The place of a physical address; the scratchpad alias has none (R186, R187, R421). A half whose stack's readiness bit is
clear is unmapped (R382). -/
def State.place (s : State) (a : Nat) : Place :=
  if a < 0xA000000000 then
    let d := a / 0x800000000
    let o := a % 0x800000000
    if o < 0x600000000 ∧ s.gone d = false ∧ bit (s.get 0x201001) (14 + dieStack d) then .hbm d o else .unmapped
  else if 0x10000000000 ≤ a ∧ a < 0x30000000000 then
    let k := (a - 0x10000000000) / 2 ^ 40
    if s.fenced (22 + k) then .unmapped
    else match s.tierChannel k ((a - 0x10000000000) % 2 ^ 40) with
      | some (c, o) => if s.ddrState c = 3 then .tier c o else .unmapped
      | none => .unmapped
  else if 0xE0000000000 ≤ a ∧ a < 0xF0000000000 then .hub (a - 0xE0000000000)
  else if 0xF0000000000 ≤ a ∧ a < 0xF0028000000 then
    let d := (a - 0xF0000000000) / 0x2000000
    if s.fenced d then .unmapped else .scratch d ((a - 0xF0000000000) % 0x2000000)
  else .unmapped

/-- The physical address of offset `off` of compute die `die`'s scratchpad (R186). -/
def scratchAddr (die off : Nat) : Nat := 0xF0000000000 + die * 0x2000000 + off

/-- A physical address lies in the scratchpad alias (R186). -/
def inAlias (a : Nat) : Bool := decide (0xF1000000000 ≤ a) && decide (a < 0xF1002000000)

/-- The physical address that an access made by die `die` reaches: on a compute die the alias is its own scratchpad (R186, R187). -/
def ownAddr (die a : Nat) : Nat := if inAlias a ∧ die < 20 then scratchAddr die (a - 0xF1000000000) else a

/-- The bank of a scratchpad offset (R190). -/
def spBank (off : Nat) : Nat := 8 * (off / 2 ^ 22) + off / 64 % 8

/-- A scratchpad bank that is enabled and filled, as 4022 shows (R193). -/
def State.bankAwake (s : State) (die bank : Nat) : Bool := bit (s.get (0x402201 + die)) bank

/-- The HBM channel of an offset in a die's half (R196). -/
def hbmChannel (off : Nat) : Nat := ((off / 2 ^ 8) ^^^ (off / 2 ^ 12) ^^^ (off / 2 ^ 16)) % 16

/-! ## Lines -/

/-- The bytes stored from physical address `a` on. -/
def State.bytesAt (s : State) (a n : Nat) : List Byte := (List.range n).map fun i => SMap.get s.mem.bytes (a + i) 0

/-- The state with `data` stored from physical address `a` on, where the enable list allows; the other bytes stay. -/
def storeBytes (m : Memory) (a : Nat) : List Bool → List Byte → Memory
  | e :: es, b :: bs => storeBytes (if e then SMap.set m a b 0 else m) (a + 1) es bs
  | _, _ => m

/-- A tag reads poisoned (R207). -/
def tagPoisoned (t : U16) : Bool := 8 ≤ popcount 16 t.toNat

/-- The majority of three copies of a flag (R192). -/
def majority (f : BitVec 3) : Bool := 2 ≤ popcount 3 f.toNat

/-- A flag in three equal copies. -/
def flagOf (p : Bool) : BitVec 3 := if p then 7 else 0

/-- A tag for a marker (R207). -/
def tagOf (p : Bool) : U16 := if p then 0xFFFF else 0

/-- The decoding radius of a memory: 4 in strong mode, 3 otherwise (R205, R206). -/
def State.radius (s : State) : Place → Nat
  | .hbm d _ => if s.mem.eccMode.get d 0 = 1 then 4 else 3
  | .tier _ _ => if s.get 0x400002 = 1 then 4 else 3
  | _ => 3

/-- Byte sequences combined by XOR. -/
def xorBytes (p q : List Byte) : List Byte := List.zipWith (· ^^^ ·) p q

/-- A list of symbol errors as a word of 72 symbols. -/
def errWord (e : List (Nat × Nat)) : List Byte :=
  e.foldl (fun w p => w.set p.1 ((w.getD p.1 0) ^^^ BitVec.ofNat 8 p.2)) (List.replicate 72 0)

/-- The nonzero symbols of a word, as a list of symbol errors. -/
def wordErr (w : List Byte) : List (Nat × Nat) :=
  ((List.range 72).map fun i => (i, (w.getD i 0).toNat)).filter fun p => p.2 ≠ 0

/-- What a decode finds in a word stored as `data` with check difference `diff`, read with the symbol errors `err`
(R205): the data delivered, the number of symbols changed, or none where the word is uncorrectable; and the word as
read, as data and check difference. -/
structure Decoded where
  data : List Byte
  changed : Option Nat
  rawData : List Byte
  rawDiff : List Byte
deriving DecidableEq, Repr

/-- The decode of R205. -/
def decodeWord (radius : Nat) (data diff : List Byte) (err : List (Nat × Byte)) : Decoded :=
  let e := xorBytes (List.replicate 64 0 ++ diff) (errWord (err.map fun p => (p.1, p.2.toNat)))
  let raw := xorBytes data (e.take 64)
  let rawDiff :=
    if e.take 64 = List.replicate 64 0 then e.drop 64
    else xorBytes (e.drop 64) ((rsCheck ((e.take 64).map BitVec.toNat)).map (BitVec.ofNat 8))
  match rsDecode radius (wordErr e) with
  | some fix => { data := xorBytes raw ((errWord fix).take 64), changed := some fix.length, rawData := raw, rawDiff := rawDiff }
  | none => { data := raw, changed := none, rawData := raw, rawDiff := rawDiff }

/-- The check difference stored for a line: eight zero bytes where none is listed. -/
def State.diffAt (s : State) (line : Nat) : List Byte := fit 8 (s.mem.check.get line [])

/-- The state with a check difference stored for a line. -/
def State.putDiff (s : State) (line : Nat) (d : List Byte) : State :=
  { s with mem := { s.mem with check := s.mem.check.set line (if d = List.replicate 8 0 then [] else d) [] } }

/-- The state with a tag stored for a line. -/
def State.putTag (s : State) (line : Nat) (t : U16) : State :=
  { s with mem := { s.mem with tag := s.mem.tag.set line t 0 } }

/-- The state with a poison flag stored for a scratchpad line. -/
def State.putFlag (s : State) (line : Nat) (p : Bool) : State :=
  { s with mem := { s.mem with spFlag := s.mem.spFlag.set line (flagOf p) 0 } }

/-- The state with `data` stored in memory at `a` under the enables. -/
def State.putBytes (s : State) (a : Nat) (en : List Bool) (data : List Byte) : State :=
  { s with mem := { s.mem with bytes := storeBytes s.mem.bytes a en data } }

/-- All 64 bytes enabled. -/
def allBytes : List Bool := List.replicate 64 true

/-- A line as a reader receives it: its data and marker, and what a read of it counts. -/
structure LineRead where
  data : List Byte
  poison : Bool
  /-- The line lies in no mapped place (R187). -/
  unmapped : Bool
  /-- A gated or filling scratchpad bank: not performed (R193). -/
  gated : Bool
  /-- An HBM or DDR5 line whose tag read poisoned (R207). -/
  tagged : Bool
  /-- An HBM or DDR5 line whose tag read clean and that the decoder could not correct (R205, R207), and whether it lies in DDR5. -/
  uncorr : Bool
  ddr : Bool
deriving DecidableEq, Repr

/-- A read that no memory answers: zeros. -/
def LineRead.none (unmapped gated : Bool) : LineRead :=
  { data := List.replicate 64 0, poison := false, unmapped := unmapped, gated := gated, tagged := false, uncorr := false, ddr := false }

/-- A place in a tier die's memory. -/
def Place.isTier : Place → Bool
  | .tier _ _ => true
  | _ => false

/-- The line at physical line address `a` as stored, read without new errors. The hub range holds no memory: it reads
as unmapped to every reader that comes this way (R188, R294). -/
def State.lineAt (s : State) (a : Nat) : LineRead :=
  match s.place a with
  | .unmapped => LineRead.none true false
  | .hub _ => LineRead.none true false
  | .scratch d o =>
    if s.bankAwake d (spBank o) then
      { LineRead.none false false with data := s.bytesAt a 64, poison := majority (s.mem.spFlag.get (a / 64) 0) }
    else LineRead.none false true
  | p =>
    let tp := tagPoisoned (s.mem.tag.get (a / 64) 0)
    let diff := s.diffAt (a / 64)
    if diff = List.replicate 8 0 then
      { LineRead.none false false with data := s.bytesAt a 64, poison := tp, tagged := tp, ddr := p.isTier }
    else
      let r := decodeWord (s.radius p) (s.bytesAt a 64) diff []
      { LineRead.none false false with data := r.data, poison := tp || r.changed = none, tagged := tp, uncorr := !tp && r.changed = none, ddr := p.isTier }

/-- What an accepted write does to work outstanding on its line: a poison write-back is dropped, that of a read still in flight too,
and a scrub write-back cancelled, which counts (R207, R208). -/
def State.dropWritebacks (s : State) (line : Nat) : State :=
  let reads := s.mem.reads.map fun r => if r.addr / 64 = line then { r with stale := true } else r
  let s1 : State := { s with mem := { s.mem with writeback := s.mem.writeback.erase line, reads := reads } }
  if s1.mem.scrub.get line ([], false) = ([], false) then s1
  else State.bump { s1 with mem := { s1.mem with scrub := s1.mem.scrub.erase line } } 0x716011 1

/-- The mirrored regions that hold a physical address: STATE is 1 and the address lies in [LBASE, LBASE + SIZE) (R303). -/
def State.mirrors (s : State) (a : Nat) : List Nat :=
  if ¬(s.get 0x510002 = 1 ∨ s.get 0x510002 = 3) then []
  else (List.range 16).filter fun r =>
    let base := s.get ((0x5600 + r) * 256 + 1) / 64 * 64
    s.get ((0x5600 + r) * 256 + 4) == 1 && base ≤ a && a < base + s.get ((0x5600 + r) * 256 + 2)

/-- A region that diverges: STATE 2, the count, and its event to be written (R304). -/
def State.diverge (s : State) (r : Nat) : State :=
  let s1 := (s.put ((0x5600 + r) * 256 + 4) 2).bump 0x71900E 1
  { s1 with fab := { s1.fab with mirEvents := s1.fab.mirEvents ++ [(r, s.get 0x510006)] } }

/-- The mirror lines queued on fabric die `u`. -/
def State.mirQueued (s : State) (u : Nat) : List MirLine := s.fab.mirQueue.get u []

/-- The state with the mirror lines of fabric die `u` replaced. -/
def State.putMirQueue (s : State) (u : Nat) (l : List MirLine) : State :=
  { s with fab := { s.fab with mirQueue := s.fab.mirQueue.set u l [] } }

/-- The fabric die that takes a mirror write: of those with a twin port, or of both where there is none, the first that is not fenced and
whose queue of 1 MiB, 16,384 lines, has room (R304; see the log). -/
def State.mirDie (s : State) : Option Nat :=
  let ports := s.get 0x510003
  [20, 21].find? fun u =>
    (decide (ports = 0) || decide (ports / 16 ^ (u - 20) % 16 ≠ 0)) && !s.fenced u && decide ((s.mirQueued u).length < 16384)

/-- A line written at a controller, sent to the twin where a region mirrors it, at the twin's local address of 52 bits (R8); full queues
stop the region, and so does a write made while mirroring is suspended, which finds no way to the twin (R303, R304). -/
def State.capture (s : State) (a : Nat) (poison : Bool) : State :=
  (s.mirrors a).foldl (fun s r =>
    match (if s.fab.mirStopped then none else s.mirDie) with
    | none => s.diverge r
    | some u =>
      let seq := (s.get 0x510006 + 1) % 2 ^ 64
      let line : MirLine := { seq := seq, addr := (s.get ((0x5600 + r) * 256 + 3) + (a - s.get ((0x5600 + r) * 256 + 1) / 64 * 64)) % 2 ^ 52,
                              data := s.bytesAt a 64, poison := poison }
      ((s.put 0x510006 seq).bump 0x71900D 1).putMirQueue u (s.mirQueued u ++ [line])) s

/-- Beats sent over a number of welt links, in transfers that travel on channel B or not (R259, R274). -/
def State.countBeats (s : State) (beats links transfers : Nat) (vcB : Bool) : State :=
  let s1 := if beats * links = 0 then s else s.bump 0x718001 (beats * links)
  if vcB ∧ transfers ≠ 0 then s1.bump 0x718006 transfers else s1

/-- The counts of the read that a write of part of a line makes at an HBM or DDR5 controller (R202, R207, R216). -/
def State.countMerge (s : State) (r : LineRead) : State :=
  let s1 := if r.tagged then s.bump 0x716004 1 else s
  if r.uncorr then s1.bump (if r.ddr then 0x71600D else 0x716003) 1 else s1

/-- A write of a whole or part of a line at its controller or bank: whole lines take the marker of the data, parts
keep a poisoned line poisoned (R192, R202, R207); an HBM or DDR5 part is a read-modify-write. An unmapped line or a
gated bank is not written; the caller counts the unmapped access (R187, R193). -/
def State.writeLine (s : State) (a : Nat) (en : List Bool) (data : List Byte) (poison : Bool) : State :=
  if en.all (fun b => !b) then s
  else match s.place a with
  | .unmapped => s
  | .hub _ => s
  | .scratch d o =>
    if s.bankAwake d (spBank o) then
      let old := majority (s.mem.spFlag.get (a / 64) 0)
      (s.putBytes a en data).putFlag (a / 64) (if en = allBytes then poison else old || poison)
    else s.bump 0x716008 1
  | _ =>
    let s1 := s.dropWritebacks (a / 64)
    if en = allBytes then (((s1.putBytes a en data).putDiff (a / 64) []).putTag (a / 64) (tagOf poison)).capture a poison
    else
      let r := s.lineAt a
      let s2 := (((s1.countMerge r).putBytes a allBytes r.data).putBytes a en data).putDiff (a / 64) []
      ((s2.putTag (a / 64) (tagOf (r.poison || poison))).bump 0x716007 1).capture a (r.poison || poison)

/-! ## Physical accesses of any length -/

/-- The pieces of the byte range [a, a + n) that lie in one line each, with fuel for the number of lines. -/
def linePieces : Nat → Nat → Nat → List (Nat × Nat)
  | 0, _, _ => []
  | k + 1, a, n => if n = 0 then [] else
      let m := min n (64 - a % 64)
      (a, m) :: linePieces k (a + m) (n - m)

/-- The pieces of a byte range. -/
def piecesOf (a n : Nat) : List (Nat × Nat) := linePieces (n / 64 + 2) a n

/-- Enables of the `m` bytes from offset `o` of a line. -/
def enablesOf (o m : Nat) : List Bool := (List.range 64).map fun i => o ≤ i && i < o + m

/-- Data placed at offset `o` of a line of zeros. -/
def placeData (o : Nat) (data : List Byte) : List Byte := fit 64 (List.replicate o 0 ++ data)

/-- The counts of one read access that reached an unmapped place (R187, R218). -/
def State.countUnmappedRead (s : State) : State := (s.bump 0x71600E 1).bump 0x717001 1

/-- The counts of one write access that reached an unmapped place. -/
def State.countUnmappedWrite (s : State) : State := (s.bump 0x71600E 1).bump 0x717002 1

/-- The dictionary's counts of one line read (R187, R193, R207). -/
def State.countLine (s : State) (r : LineRead) : State :=
  let s1 := if r.unmapped then s.countUnmappedRead else s
  let s2 := if r.gated then s1.bump 0x716008 1 else s1
  s2.countMerge r

/-- A read of `n` bytes at physical address `a` by the hub, the endpoint or the fabric: the bytes, whether any line
was poisoned, the bytes that fell in no mapped place, and the counts. -/
def State.readPhys (s : State) (a n : Nat) : List Byte × Bool × Nat × State :=
  (piecesOf a n).foldl
    (fun (acc : List Byte × Bool × Nat × State) p =>
      let r := acc.2.2.2.lineAt (p.1 / 64 * 64)
      (acc.1 ++ slice r.data (p.1 % 64) p.2, acc.2.1 || r.poison, acc.2.2.1 + (if r.unmapped then p.2 else 0),
        acc.2.2.2.countLine r))
    ([], false, 0, s)

/-- A write of bytes at physical address `a` by the hub, the endpoint or the fabric: the bytes that fell in no mapped
place, and the state. -/
def State.writePhys (s : State) (a : Nat) (data : List Byte) (poison : Bool) : Nat × State :=
  (piecesOf a data.length).foldl
    (fun (acc : Nat × State) p =>
      let l := p.1 / 64 * 64
      match acc.2.place l with
      | .unmapped => (acc.1 + p.2, acc.2.countUnmappedWrite)
      | .hub _ => (acc.1 + p.2, acc.2.countUnmappedWrite)
      | _ => (acc.1, acc.2.writeLine l (enablesOf (p.1 % 64) p.2) (placeData (p.1 % 64) (slice data (p.1 - a) p.2)) poison))
    (0, s)

/-! ## Task addresses -/

/-- The window record of a task (R189), its ignored bits cleared. -/
structure Window where
  hbmBase : Nat
  hbmBound : Nat
  spBase : Nat
  spBound : Nat
  accBase : Nat
  accBound : Nat
deriving DecidableEq, Repr

/-- The window record of task `t` as its objects hold it (R189). -/
def State.window (s : State) (t : Nat) : Window :=
  let g := fun k => s.get ((0x4100 + t) * 256 + k)
  { hbmBase := g 1 % 2 ^ 52 / 64 * 64, hbmBound := g 2, spBase := g 3 % 2 ^ 25 / 64 * 64, spBound := g 4,
    accBase := g 5 % 2 ^ 12 / 4 * 4, accBound := g 6 }

/-- Where a task address leads (R188). -/
inductive Reach where
  | clip | unmapped
  | at (p : Nat)
deriving DecidableEq, Repr

/-- The translation of R188 of one byte address for an access made by die `die`. -/
def State.xlate (s : State) (w : Window) (die a : Nat) : Reach :=
  let scratch := fun d o =>
    if w.spBound ≤ o then Reach.clip
    else if 0x2000000 ≤ o + w.spBase ∨ d ≥ 20 ∨ s.fenced d then .unmapped
    else .at (scratchAddr d (o + w.spBase))
  if 0xF1000000000 ≤ a ∧ a < 0xF1002000000 then scratch die (a - 0xF1000000000)
  else if 0xF0000000000 ≤ a ∧ a < 0xF0028000000 then
    scratch ((a - 0xF0000000000) / 2 ^ 25) ((a - 0xF0000000000) % 0x2000000)
  else if w.hbmBound ≤ a then .clip
  else
    let p := w.hbmBase + a
    if 2 ^ 52 ≤ p then .unmapped
    else match s.place (ownAddr die p) with
      | .unmapped => .unmapped
      | .hub _ => .unmapped
      | _ => .at (ownAddr die p)

/-- What one access of up to a line at a task address gives: its bytes, markers and what it counts. -/
structure TaskRead where
  bytes : List Byte
  poison : Bool
  clipped : Bool
  unmapped : Bool
  gated : Bool
  tagged : Bool
  uncorr : Bool
  ddr : Bool
  phys : Option Nat
deriving DecidableEq, Repr

/-- One access of `n` bytes within a line at task address `a`, byte by byte under R188 and R218. The bytes of a line
that lie inside the windows share one physical line, as window bases are multiples of 64. -/
def State.taskLine (s : State) (w : Window) (die a n : Nat) : TaskRead :=
  let rs := (List.range n).map fun i => s.xlate w die (a + i)
  match rs.findSome? (fun r => match r with | .at p => some p | _ => none) with
  | none =>
    { bytes := List.replicate n 0, poison := false, clipped := rs.contains .clip, unmapped := rs.contains .unmapped,
      gated := false, tagged := false, uncorr := false, ddr := false, phys := none }
  | some p0 =>
    let l := s.lineAt (p0 / 64 * 64)
    { bytes := rs.map (fun r => match r with | .at p => l.data.getD (p % 64) 0 | _ => 0), poison := l.poison,
      clipped := rs.contains .clip, unmapped := rs.contains .unmapped, gated := l.gated, tagged := l.tagged,
      uncorr := l.uncorr, ddr := l.ddr, phys := some p0 }

/-- The dictionary's counts of one task read (R187, R193, R207, R218). -/
def State.countTaskRead (s : State) (r : TaskRead) : State :=
  let s1 := if r.unmapped then s.bump 0x71600E 1 else s
  let s2 := if r.clipped || r.unmapped then s1.bump 0x717001 1 else s1
  let s3 := if r.gated then s2.bump 0x716008 1 else s2
  let s4 := if r.tagged then s3.bump 0x716004 1 else s3
  if r.uncorr then s4.bump (if r.ddr then 0x71600D else 0x716003) 1 else s4

/-- The record's counts of one task read (R244). -/
def Counts.addTaskRead (c : Counts) (r : TaskRead) : Counts :=
  { c with
    clipped := c.clipped + (if r.clipped || r.unmapped then 1 else 0)
    unmapped := c.unmapped + (if r.unmapped then 1 else 0)
    poisonRd := c.poisonRd + (if r.tagged then 1 else 0)
    uncorr := c.uncorr + (if r.uncorr then 1 else 0) }

/-- Reads of several pieces of one line as one access (R218). -/
def TaskRead.join (p q : TaskRead) : TaskRead :=
  { bytes := p.bytes ++ q.bytes, poison := p.poison || q.poison, clipped := p.clipped || q.clipped, unmapped := p.unmapped || q.unmapped,
    gated := p.gated || q.gated, tagged := p.tagged || q.tagged, uncorr := p.uncorr || q.uncorr, ddr := p.ddr || q.ddr,
    phys := match p.phys with
      | some a => some a
      | none => q.phys }

/-- A read of nothing. -/
def TaskRead.nothing : TaskRead :=
  { bytes := [], poison := false, clipped := false, unmapped := false, gated := false, tagged := false, uncorr := false, ddr := false,
    phys := none }

/-- The accesses that reading the given byte ranges takes, one for each line and for the bytes read of it alone (R218; see the
log). -/
def State.taskReads (s : State) (w : Window) (die : Nat) (ranges : List (Nat × Nat)) : List TaskRead :=
  let pieces := ranges.flatMap fun r => piecesOf r.1 r.2
  (dedup (pieces.map fun p => p.1 / 64)).map fun l =>
    (pieces.filter fun p => p.1 / 64 = l).foldl (fun acc p => acc.join (s.taskLine w die p.1 p.2)) TaskRead.nothing

/-- The bytes at a task address and the marker of the lines they lie in, without counting. -/
def State.taskBytes (s : State) (w : Window) (die a n : Nat) : List Byte × Bool :=
  (piecesOf a n).foldl (fun acc p =>
    let r := s.taskLine w die p.1 p.2
    (acc.1 ++ r.bytes, acc.2 || r.poison)) ([], false)

/-- The counts of the accesses that reading the given byte ranges takes. -/
def State.countTaskReads (s : State) (w : Window) (die : Nat) (c : Counts) (ranges : List (Nat × Nat)) : State × Counts :=
  (s.taskReads w die ranges).foldl (fun acc r => (acc.1.countTaskRead r, acc.2.addTaskRead r)) (s, c)

/-- The read that writing `n` bytes of the line at `a` makes: none where it writes all or nothing, or in a scratchpad (R202). -/
def State.mergeRead (s : State) (a n : Nat) : LineRead :=
  if n = 0 ∨ n = 64 then LineRead.none false false else s.lineAt a

/-- A write of up to a line at a task address, byte by byte under R188 and R218: bytes outside are not written; the
access counts once as clipped. `en` enables bytes of the piece. -/
def State.taskWriteLine (s : State) (w : Window) (die a : Nat) (en : List Bool) (data : List Byte) (poison : Bool)
    (c : Counts) : State × Counts :=
  let rs := (List.range data.length).map fun i => s.xlate w die (a + i)
  let clipped := (List.zipWith (fun e r => e && r = Reach.clip) en rs).any id
  let unm := (List.zipWith (fun e r => e && r = Reach.unmapped) en rs).any id
  let s1 := if unm then s.bump 0x71600E 1 else s
  let s2 := if clipped || unm then s1.bump 0x717002 1 else s1
  let c2 := { c with clipped := c.clipped + (if clipped || unm then 1 else 0), unmapped := c.unmapped + (if unm then 1 else 0) }
  match rs.findSome? (fun r => match r with | .at p => some p | _ => none) with
  | none => (s2, c2)
  | some p0 =>
    let l := p0 / 64 * 64
    let m := s2.mergeRead l ((List.zipWith (fun e r => e && r ≠ Reach.clip && r ≠ Reach.unmapped) en rs).countP id)
    let c3 := { c2 with poisonRd := c2.poisonRd + (if m.tagged then 1 else 0), uncorr := c2.uncorr + (if m.uncorr then 1 else 0) }
    let okAt := fun i => (List.zipWith (fun e r => e && r = Reach.at (l + i)) en rs).any id
    let byteAt := fun i => (List.zip rs data).findSome? (fun x => if x.1 = Reach.at (l + i) then some x.2 else none)
    (s2.writeLine l ((List.range 64).map okAt) ((List.range 64).map fun i => (byteAt i).getD 0) poison, c3)

/-- A write of bytes at a task address, in pieces of a line each. -/
def State.taskWrite (s : State) (w : Window) (die a : Nat) (data : List Byte) (poison : Bool) (c : Counts) : State × Counts :=
  (piecesOf a data.length).foldl (fun acc p =>
    acc.1.taskWriteLine w die p.1 (List.replicate p.2 true) (slice data (p.1 - a) p.2) poison acc.2) (s, c)

end Sys2Proof.Machine
end

