-- ==== Sys2Proof/Machine/Discovery.lean ====
section
/-! DEFINITION. What the fabric manager computes in a sweep (R288, R289, R297): device IDs, levels, legal routes, routing tables and
multicast trees. -/

namespace Sys2Proof.Machine

/-! ## Device IDs -/

/-- A device ID that a module can have (R286). -/
def moduleId (n : Nat) : Bool := decide (1 ≤ n) && decide (n < 0xC00)

/-- The modules that keep the ID they hold: the first in the order of UIDs to hold it (R288). -/
def keptIds (l : List PeerInfo) : List (U64 × Nat) :=
  l.foldl (fun acc x => if moduleId x.devId && acc.all fun y => y.2 ≠ x.devId then acc ++ [(x.uid, x.devId)] else acc) []

/-- The IDs of modules in increasing order of UID: the one held, else the preferred one where it is free, else the lowest free (R288). -/
def assignIds (l : List PeerInfo) : List (U64 × Nat) :=
  l.foldl (fun acc x =>
    if acc.any fun y => y.1 = x.uid then acc
    else
      let free := fun (n : Nat) => acc.all fun y => y.2 ≠ n
      let n := if moduleId x.pref && free x.pref then x.pref else (((List.range 0xBFF).map (· + 1)).find? free).getD 0
      acc ++ [(x.uid, n)]) (keptIds l)

/-! ## The graph -/

/-- A module of the fabric: its device ID and its links, each with the port and the module at the other end, by number. -/
structure Node where
  id : Nat
  links : List (Nat × Nat)
deriving DecidableEq, Repr

/-- The modules of a sweep, numbered in the order of the list; a link is one whose port is linked or active. -/
def fabricNodes (l : List PeerInfo) (ids : List (U64 × Nat)) : List Node :=
  l.map fun x =>
    { id := ((ids.find? fun y => y.1 = x.uid).map Prod.snd).getD 0
      links := x.peers.filterMap fun p =>
        let st := x.portStates.getD p.1 0
        if st = 4 ∨ st = 5 then (l.findIdx? fun y => y.uid = p.2.1).map fun j => (p.1, j) else none }

/-- The links of a module. -/
def linksOf (g : List Node) (i : Nat) : List (Nat × Nat) := ((g[i]?).map Node.links).getD []

/-- The device ID of a module. -/
def idOf (g : List Node) (i : Nat) : Nat := ((g[i]?).map Node.id).getD 0

/-- A distance longer than any route. -/
def farAway : Nat := 100000

/-- The level of every module: its distance in links from the manager (R289). -/
def fabricLevels (g : List Node) (mgr : Nat) : List Nat :=
  (List.range g.length).foldl (fun lev _ => (List.range g.length).map fun i =>
    (linksOf g i).foldl (fun m x => min m (lev.getD x.2 farAway + 1)) (lev.getD i farAway))
    ((List.range g.length).map fun i => if i = mgr then 0 else farAway)

/-- A move is up: toward the lower level, or toward the lower device ID between equal levels (R289). -/
def fabricUp (g : List Node) (lev : List Nat) (i j : Nat) : Bool :=
  let x := lev.getD i farAway
  let y := lev.getD j farAway
  decide (y < x) || (decide (x = y) && decide (idOf g j < idOf g i))

/-- The length of the shortest legal route from every module to `dst`, before and after a down move (R289). -/
def fabricDist (g : List Node) (lev : List Nat) (dst : Nat) : List (Nat × Nat) :=
  (List.range (2 * g.length)).foldl (fun d _ => (List.range g.length).map fun i =>
    (linksOf g i).foldl (fun (m : Nat × Nat) x =>
      let y := d.getD x.2 (farAway, farAway)
      if fabricUp g lev i x.2 then (min m.1 (y.1 + 1), m.2) else (min m.1 (y.2 + 1), min m.2 (y.2 + 1))) (d.getD i (farAway, farAway)))
    ((List.range g.length).map fun i => if i = dst then (0, 0) else (farAway, farAway))

/-- The move that a module makes toward a destination: the lowest port on a shortest legal route, the module it leads to and whether a
down move has been made then; none where there is no legal route (R289). -/
def fabricStep (g : List Node) (lev : List Nat) (dist : List (Nat × Nat)) (i : Nat) (down : Bool) : Option (Nat × Nat × Bool) :=
  let here := if down then (dist.getD i (farAway, farAway)).2 else (dist.getD i (farAway, farAway)).1
  if farAway ≤ here then none
  else (sortBy (fun (a b : Nat × Nat) => decide (a.1 ≤ b.1)) (linksOf g i)).findSome? fun x =>
    let y := dist.getD x.2 (farAway, farAway)
    if fabricUp g lev i x.2 then (if !down && decide (y.1 + 1 = here) then some (x.1, x.2, false) else none)
    else if y.2 + 1 = here then some (x.1, x.2, true) else none

/-- The modules and ports of the route between two modules, with fuel for its length. -/
def fabricPath (g : List Node) (lev : List Nat) (dist : List (Nat × Nat)) : Nat → Nat → Bool → List (Nat × Nat)
  | 0, _, _ => []
  | k + 1, i, down =>
    match fabricStep g lev dist i down with
    | some x => (i, x.1) :: fabricPath g lev dist k x.2.1 x.2.2
    | none => []

/-! ## Tables and trees -/

/-- Table U of a module, or table D with `down`: the port toward every destination that a legal route reaches (R289). -/
def fabricTable (g : List Node) (lev : List Nat) (i : Nat) (down : Bool) : List (Nat × Nat) :=
  ((List.range g.length).filter fun j => j ≠ i).filterMap fun j =>
    (fabricStep g lev (fabricDist g lev j) i down).map fun x => (idOf g j, x.1)

/-- The tree of a group at a module: the union of the legal routes from the sender to the receivers, whether it delivers there, and on the
sender the receivers (R297). -/
def fabricTree (g : List Node) (lev : List Nat) (i : Nat) (group : Nat) (senders receivers : List Nat) : McTree :=
  match senders with
  | [] => { group := group, ports := [], deliver := false, receivers := [] }
  | a :: _ =>
    let steps := (receivers.filter fun r => r ≠ a).flatMap fun r => fabricPath g lev (fabricDist g lev r) (2 * g.length) a false
    { group := group, ports := dedup ((steps.filter fun x => x.1 = i).map Prod.snd), deliver := receivers.contains i,
      receivers := if a = i then receivers.map (idOf g) else [] }

/-- The trees of every group that the sweep has found a role for, at a module (R288, R297). -/
def fabricTrees (l : List PeerInfo) (g : List Node) (lev : List Nat) (i : Nat) : List McTree :=
  let role := fun (k : Nat) (ok : Nat → Bool) =>
    (List.range l.length).filter fun j => ((l[j]?).map PeerInfo.groups).getD [] |>.any fun x => decide (x.1 = k) && ok x.2
  (dedup ((l.flatMap PeerInfo.groups).map Prod.fst)).map fun k =>
    fabricTree g lev i k (role k fun v => v == 1 || v == 2) (role k fun v => v == 3)

end Sys2Proof.Machine
end

