-- ==== Sys2Proof/Machine/HubOps.lean ====
section
/-! DEFINITION. The hub's named operations: raising an interrupt vector (R317, R318), additions to synchronization
objects (R248), rings (R235 to R241), event records (R411 to R415), completion records on their rings (R240, R244)
and the readiness vector (R394). -/

namespace Sys2Proof.Machine

/-! ## Waking -/

/-- The module is in a state below Poise, is entering one, or is on its way out of one (R376, R379). -/
def State.asleep (s : State) : Bool :=
  decide (2 ≤ s.get 0x200006) || s.isl.power.entering.isSome || s.isl.power.exiting

/-- A wake event while the module sleeps: an entry ends, the exit begins, and the access waits for it (R379, R381). -/
def State.wake (s : State) (acc : Access) : State :=
  let p := s.isl.power
  { s with isl := { s.isl with power := { p with entering := none, exiting := true, since := if p.exiting then p.since else s.tick,
                                                  heldAcc := p.heldAcc ++ [acc] } } }

/-- An access that reaches the hub, the grid or memory: nothing while the rails are off, held while the module sleeps, and
otherwise performed (R376, R379). -/
def State.access (s : State) (acc : Access) (perform : State → State) : State :=
  if !s.railsUp then s else if s.asleep then s.wake acc else perform s

/-! ## Vectors -/

/-- Vector `v`'s entry. -/
def State.vector (s : State) (v : Nat) : Vector := s.hub.vectors.get v Vector.zero

/-- The state with an entry for vector `v`. -/
def State.putVector (s : State) (v : Nat) (e : Vector) : State :=
  { s with hub := { s.hub with vectors := s.hub.vectors.set v e Vector.zero } }

/-- The endpoint asks the front-end to wake: a vector whose DEST includes it is raised while the function is in D3hot with PME
enabled (R433). -/
def State.wakeHost (s : State) (e : Vector) : State :=
  if bit e.dest.toNat 1 ∧ s.hub.ep.d3hot ∧ s.hub.ep.pme then
    { s with hub := { s.hub with ep := { s.hub.ep with wakeN := true, pmPme := true } } }
  else s

/-- Raising vector `v`: PEND is set; a raise that finds it set is merged and counted (R317). Vectors 5 to 15 are
reserved, and naming one raises nothing (R318). A raise wakes the module (R379). -/
def State.raiseVector (s : State) (v : Nat) : State :=
  if (5 ≤ v ∧ v ≤ 15) ∨ !s.railsUp then s
  else if s.asleep then s.wake (.vector v)
  else
    let s1 := s.wakeHost (s.vector v)
    if (s.vector v).pend then s1.bump 0x71A006 1
    else s1.putVector v { s.vector v with pend := true }

/-! ## Synchronization objects -/

/-- COUNT of object `k` (R248). -/
def State.count (s : State) (k : Nat) : Nat := (s.hub.sync.get k 0).toNat

/-- The state with COUNT `v` in object `k`. -/
def State.putCount (s : State) (k v : Nat) : State :=
  { s with hub := { s.hub with sync := s.hub.sync.set k (BitVec.ofNat 64 v) 0 } }

/-- What has been added to object `k` in the present cycle (R249). -/
def State.addedNow (s : State) (k : Nat) : Nat :=
  let x := s.hub.added.get k (0, 0)
  if x.1 = s.cycle + 1 then x.2.toNat else 0

/-- COUNT of object `k` raised by `v`, which counts among the additions of the cycle (R249). -/
def State.addCount (s : State) (k v : Nat) : State :=
  let s1 := s.putCount k (s.count k + v)
  { s1 with hub := { s1.hub with added := s1.hub.added.set k (s.cycle + 1, BitVec.ofNat 64 (s.addedNow k + v)) (0, 0) } }

/-- An addition to object `k`: one that names an object of the array's own is discarded and counted (R248). -/
def State.syncAdd (s : State) (k v : Nat) : State :=
  if k < 16 then s.bump 0x71700F 1 else s.addCount k v

/-- A signal through a SYNC field: bit 15 enables it, bits 13:0 name the object (R66, R221, R235). -/
def State.syncSignal (s : State) (fld : Nat) : State :=
  if bit fld 15 then s.syncAdd (fld % 2 ^ 14) 1 else s

/-! ## Rings -/

/-- Ring `n`'s context. -/
def State.ring (s : State) (n : Nat) : Ring := s.hub.rings.get n Ring.zero

/-- The state with a context for ring `n`. -/
def State.putRing (s : State) (n : Nat) (r : Ring) : State :=
  { s with hub := { s.hub with rings := s.hub.rings.set n r Ring.zero } }

/-- TYPE as it reads: ring 0 is the issue ring; TYPE 1 elsewhere and values above 5 read as 0 (R235 to R237). -/
def ringType (n : Nat) (r : Ring) : Nat :=
  if n = 0 then 1 else if r.type = 1 ∨ 5 < r.type.toNat then 0 else r.type.toNat

/-- The number of slots of a ring (R235). -/
def ringSlots (r : Ring) : Nat := 2 ^ min (r.order.toNat % 32) 16

/-- The slot size of ring `n` in bytes; the issue ring's slots are 16 bytes (R236). -/
def ringSlotSize (n : Nat) (r : Ring) : Nat := if n = 0 then 16 else 16 * 2 ^ (r.esize.toNat % 4)

/-- The entries a ring holds (R238). -/
def ringHeld (r : Ring) : Nat := (r.pi - r.ci).toNat

/-- A ring with no free slot (R238). -/
def ringFull (r : Ring) : Bool := ringSlots r ≤ ringHeld r

/-- The physical address of the slot that index `i` names (R238). -/
def ringSlotAddr (n : Nat) (r : Ring) (i : U32) : Nat :=
  (r.base.toNat % 2 ^ 52 / 64 * 64 + i.toNat % ringSlots r * ringSlotSize n r) % 2 ^ 52

/-- An index differs from its copy (R241). -/
def ringBroken (r : Ring) : Bool := r.pi != r.piDup || r.ci != r.ciDup

/-- A new PI in both copies. -/
def Ring.setPi (r : Ring) (v : U32) : Ring := { r with pi := v, piDup := v }

/-- A new CI in both copies. -/
def Ring.setCi (r : Ring) (v : U32) : Ring := { r with ci := v, ciDup := v }

/-- What follows an entry that ring `n` has taken: PI advances, then SYNC and IRQ where they are enabled (R240). -/
def State.ringAdvance (s : State) (n : Nat) : State :=
  let r := s.ring n
  let s1 := (s.putRing n (r.setPi (r.pi + 1))).syncSignal r.sync.toNat
  if bit r.irq.toNat 15 then s1.raiseVector (r.irq.toNat % 2 ^ 12) else s1

/-- An entry written at slot PI, cut to the slot's size, and what follows it (R236, R240). -/
def State.ringStore (s : State) (n : Nat) (entry : List Byte) : State :=
  let r := s.ring n
  ((s.writePhys (ringSlotAddr n r r.pi) (entry.take (ringSlotSize n r)) false).2).ringAdvance n

/-- A dropped entry: DROPS rises and 7170:08 counts it (R239, R240). -/
def State.ringDrop (s : State) (n : Nat) : State :=
  (s.putRing n { s.ring n with drops := (s.ring n).drops + 1 }).bump 0x717008 1

/-! ## Event records -/

/-- The 32-byte record of R411. -/
def eventBytes (cls code flags sub unit merged tick : Nat) (data : List Byte) : List Byte :=
  leBytes 1 1 ++ leBytes 1 cls ++ leBytes 1 code ++ leBytes 1 flags ++ leBytes 2 (sub % 2 ^ 13) ++ leBytes 1 unit ++
    leBytes 1 merged ++ leBytes 8 tick ++ fit 16 data

/-- SEV of a class and code (R412, R413). -/
def eventSev (cls code : Nat) : Nat :=
  match cls with
  | 0 => 2
  | 1 => 2
  | 2 => 2
  | 3 => 2
  | 7 => if code = 3 then 4 else 0
  | 10 => if code = 3 then 4 else 3
  | _ => 0

/-- Records that the flash log takes besides the ring (R415). -/
def eventLogged (cls code : Nat) : Bool := 3 ≤ eventSev cls code || cls = 11 || cls = 13 || (cls = 7 && code = 3)

/-- A record in the flash log: its slot is LOG_NEXT, the log a circle of 32,768 (R415). -/
def State.logWrite (s : State) (evt : List Byte) : State :=
  let slot := s.get 0x7E0002
  let f := s.isl.flash
  let s1 := { s with isl := { s.isl with flash :=
    { f with log := f.log.set slot evt [], logCount := min 32768 (f.logCount + 1) } } }
  (s1.put 0x7E0002 ((slot + 1) % 32768)).bump 0x71B00A 1

/-- The event ring (1800:01). -/
def State.eventRing (s : State) : Nat := s.get 0x180001 % 2 ^ 13

/-- A record on the event ring as it stands: dropped where the ring cannot take it or is full (R237, R240). Before the hub
runs there is no ring (R415). -/
def State.eventPut (s : State) (evt : List Byte) : State :=
  let n := s.eventRing
  if !s.railsUp then s
  else if ringType n (s.ring n) ≠ 4 then s.bump 0x717008 1
  else if ringFull (s.ring n) then s.ringDrop n
  else s.ringStore n evt

/-- The management link is up and the controller serves FMP (R393). -/
def State.mgmtUp (s : State) : Bool := bit (s.get 0x201001) 0

/-- An FMP datagram: the header of R353 with LEVEL 1, VERSION 1 and no token, and the payload. -/
def fmpDatagram (op flags sid seq status state : Nat) (payload : List Byte) : List Byte :=
  leBytes 2 0x4D46 ++ leBytes 1 1 ++ leBytes 1 1 ++ leBytes 1 op ++ leBytes 1 flags ++ leBytes 2 sid ++ leBytes 4 seq ++
    leBytes 1 status ++ leBytes 1 state ++ leBytes 2 payload.length ++ List.replicate 16 0 ++ payload

/-- A datagram sent on the management port; the model keeps the last 16. -/
def State.sendUdp (s : State) (dst : Source) (bytes : List Byte) : State :=
  { s with isl := { s.isl with fmp := { s.isl.fmp with sent := ((dst, bytes) :: s.isl.fmp.sent).take 16 } } }

/-- An EVENT datagram sent for a record (R368). -/
def State.eventOut (s : State) (evt : List Byte) : State :=
  let seq := (s.get 0x102004 + 1) % 2 ^ 32
  ((s.put 0x102004 seq).bump 0x7F0007 1).sendUdp (.ip (s.getBlob 0x102001 16) (s.get 0x102002))
    (fmpDatagram 0x20 1 0 seq 0 0 (leBytes 4 seq ++ leBytes 4 0 ++ evt))

/-- An EVENT datagram for a record of a selected class (R368): sent at once where the port can, else waiting. -/
def State.eventSend (s : State) (cls : Nat) (evt : List Byte) : State :=
  if s.getBlob 0x102001 16 = List.replicate 16 0 ∨ bit (s.get 0x102003) cls = false then s
  else if s.mgmtUp then s.eventOut evt
  else { s with isl := { s.isl with fmp := { s.isl.fmp with events := s.isl.fmp.events ++ [(s.tick, evt)] } } }

/-- A record produced without looking at the event ring's indices: counted, logged, put on the ring, sent (R414, R415). -/
def State.eventEmit (s : State) (cls code unit sub merged tick : Nat) (data : List Byte) : State :=
  let sev := eventSev cls code
  let logged := eventLogged cls code
  let evt := eventBytes cls code (sev + (if logged then 8 else 0)) sub unit merged tick data
  let s1 := s.bump 0x71B009 1
  let s2 := if logged then s1.logWrite evt else s1
  (s2.eventPut evt).eventSend cls evt

/-! ## Completion records -/

/-- A count field of a record: the all-ones value where it does not fit, and whether it saturated (R244). -/
def satField (bytes v : Nat) : List Byte := leBytes bytes (min v (2 ^ (8 * bytes) - 1))

/-- Whether any count of a record saturates (R244). -/
def Counts.saturates (c : Counts) : Bool :=
  decide (2 ^ 64 ≤ c.clipped) || decide (2 ^ 16 ≤ c.slips) ||
    [c.dropped, c.unmapped, c.uncorr, c.poisonRd, c.holdEcc, c.holdSup, c.slipCyc, c.missMain, c.missResoled, c.missLost,
      c.entryLost, c.tresMax, c.cycles, c.poisonOut, c.confStall, c.collSlots, c.intWrap].any (fun v => decide (2 ^ 32 ≤ v))

/-- The ticks by which a completion missed its deadline (R233). -/
def RecordHead.late (h : RecordHead) : Nat :=
  if h.deadline = 0 then 0 else (h.tDone - h.tTaken) - h.deadline

/-- The FLAGS of a record (R245); SAT is set where any count of the record saturates, DL_LATE among them (R244). -/
def recordFlags (h : RecordHead) (c : Counts) : Nat :=
  (if h.poison then 1 else 0) + (if h.late ≠ 0 then 2 else 0) + (if h.forecast then 4 else 0) +
    (if h.awl then 8 else 0) + (if c.saturates || decide (2 ^ 32 ≤ h.late) then 16 else 0)

/-- The 128 bytes of a completion record (R244). -/
def recordBytes (h : RecordHead) (c : Counts) : List Byte :=
  leBytes 1 1 ++ leBytes 1 h.kind ++ leBytes 1 h.status ++ leBytes 1 h.state ++ leBytes 4 h.tag ++ leBytes 8 h.tDone ++
    leBytes 8 h.tTaken ++ leBytes 1 h.code ++ leBytes 1 h.xcode ++ leBytes 2 (recordFlags h c) ++ satField 4 h.late ++
    satField 8 c.clipped ++ satField 4 c.dropped ++ satField 4 c.unmapped ++ satField 4 c.uncorr ++ satField 4 c.poisonRd ++
    satField 4 c.holdEcc ++ satField 4 c.holdSup ++ satField 4 c.slipCyc ++ satField 2 c.slips ++ leBytes 2 0 ++
    satField 4 c.missMain ++ satField 4 c.missResoled ++ satField 4 c.missLost ++ satField 4 c.entryLost ++
    satField 4 c.tresMax ++ satField 4 c.cycles ++ satField 4 c.poisonOut ++ satField 4 c.confStall ++
    satField 4 c.collSlots ++ satField 4 c.intWrap ++ List.replicate 16 0

/-- A completion record written now at slot PI of ring `n`, with its time, a missed deadline counted and the signal that
follows it (R233, R240, R244). -/
def State.recordWrite (s : State) (n : Nat) (h : RecordHead) (c : Counts) (sync : Nat) : State :=
  let h1 := { h with tDone := s.tick }
  (((if h1.late ≠ 0 then s.bump 0x717009 1 else s).ringStore n (recordBytes h1 c))).syncSignal sync

/-- The held records of ring `n` that now find a free slot, with fuel: each is written, and the synchronization
object of its completion signalled (R240). -/
def State.flushHeldFuel : Nat → State → Nat → State
  | 0, s, _ => s
  | k + 1, s, n =>
    match s.hub.held.find? (fun h => h.ring = n) with
    | none => if (s.ring n).held then s.putRing n { s.ring n with held := false } else s
    | some h =>
      if ringFull (s.ring n) then s
      else
        let s1 := { s with hub := { s.hub with held := s.hub.held.erase h } }
        State.flushHeldFuel k (s1.recordWrite n h.head h.counts h.sync) n

/-- The held records of ring `n` that now find a free slot are written. -/
def State.flushHeld (s : State) (n : Nat) : State := State.flushHeldFuel (s.hub.held.length + 1) s n

/-- The context of a ring reset under R241: indices 0, RESET set, the POP window returning zeros. -/
def Ring.cleared (r : Ring) : Ring :=
  { r with pi := 0, piDup := 0, ci := 0, ciDup := 0, reset := true, lastPop := [] }

/-- Ring `n` reset under R241: its indices, RESET, the count, the record of the ring class, and its held records
written from slot 0. An event ring that is itself broken is reset first, with its own record. -/
def State.ringReset (s : State) (n : Nat) : State :=
  let r := s.ring n
  let data := fun (r : Ring) => leBytes 4 r.pi.toNat ++ leBytes 4 r.piDup.toNat ++ leBytes 4 r.ci.toNat ++ leBytes 4 r.ciDup.toNat
  let s1 := (s.putRing n r.cleared).bump 0x717006 1
  let e := s1.eventRing
  let s2 :=
    if e ≠ n ∧ ringBroken (s1.ring e) then
      (((s1.putRing e (s1.ring e).cleared).bump 0x717006 1).eventEmit 3 1 24 e 0 s.tick (data (s1.ring e)))
    else s1
  (s2.eventEmit 3 1 24 n 0 s.tick (data r)).flushHeld n

/-- The check at every use of ring `n`: indices that differ from their copies reset the ring (R241). -/
def State.ringCheck (s : State) (n : Nat) : State := if ringBroken (s.ring n) then s.ringReset n else s

/-- A record written or merged now (R414): classes 0 and 2 open or join a merge window of 1,250 ticks, every other
record is written at once. -/
def State.event (s : State) (cls code unit sub : Nat) (data : List Byte) : State :=
  if cls = 0 ∨ cls = 2 then
    let same := fun (m : MergeRec) => m.cls = cls ∧ m.code = code ∧ m.unit = unit ∧ m.sub = sub ∧ s.tick < m.tick + 1250
    match s.isl.merges.find? same with
    | some m =>
      let ms := s.isl.merges.map fun x => if x = m then { m with merged := min 255 (m.merged + 1) } else x
      State.bump { s with isl := { s.isl with merges := ms } } 0x71B008 1
    | none =>
      let m := { cls := cls, code := code, unit := unit, sub := sub, tick := s.tick, merged := 0, data := data }
      { s with isl := { s.isl with merges := s.isl.merges ++ [m] } }
  else
    (if ringBroken (s.ring s.eventRing) then s.ringReset s.eventRing else s).eventEmit cls code unit sub 0 s.tick data

/-- The event records of regions that diverged are written (R304); UNIT is the fabric die of the lowest twin port. -/
def State.settle (s : State) : State :=
  s.fab.mirEvents.foldl (fun s x =>
    let unit := if s.get 0x510003 % 16 = 0 then 21 else 20
    s.event 5 6 unit x.1 (leBytes 8 x.2)) { s with fab := { s.fab with mirEvents := [] } }

/-- A data-path record of R413 class 2 for a parity error at a check point: 71B0:01 counts it, at a welt port 7180:08
does (R403). -/
def State.parityError (s : State) (die sub addr : Nat) : State :=
  (s.bump (if sub = 8 then 0x718008 else 0x71B001) 1).event 2 1 die sub (leBytes 8 addr)

/-- A control entry reset under R405, with its count and record. -/
def State.controlReset (s : State) (die sub entry : Nat) : State :=
  (s.bump 0x71B002 1).event 2 2 die sub (leBytes 2 entry)

/-- A record produced for ring `n`, with the SYNC field of what it completes: dropped where the ring is no completion
ring, held where it is full, else written; the signal follows the record, and a dropped one is signalled (R237, R240).
Records produced for a ring on which one is held wait behind it. -/
def State.complete (s0 : State) (h : RecordHead) (c : Counts) (cring sync : Nat) : State :=
  let n := cring % 2 ^ 13
  let s := s0.ringCheck n
  if ringType n (s.ring n) ≠ 3 then
    ((if RecordHead.late { h with tDone := s.tick } ≠ 0 then s.bump 0x717009 1 else s).bump 0x717008 1).syncSignal sync
  else if ringFull (s.ring n) || s.hub.held.any (fun h => h.ring = n) then
    let s1 := s.putRing n { s.ring n with held := true }
    { s1 with hub := { s1.hub with held := s1.hub.held ++ [{ ring := n, head := h, counts := c, sync := sync }] } }
  else s.recordWrite n h c sync

/-! ## Readiness -/

/-- The readiness vector with bit `i` set or clear; a change writes a power record with both vectors (R394). -/
def State.setReady (s : State) (changes : List (Nat × Bool)) : State :=
  let old := s.get 0x201001
  let new := changes.foldl (fun v c =>
    if bit v c.1 = c.2 then v else if c.2 then v + 2 ^ c.1 else v - 2 ^ c.1) old
  if new = old then s else (s.put 0x201001 new).event 9 1 255 0 (leBytes 8 old ++ leBytes 8 new)

end Sys2Proof.Machine
end

