-- ==== Sys2Proof/Config.lean ====
section
/-! DEFINITION. What the spec leaves to the implementation: free values that nothing in Lean can evaluate, the
cryptographic functions the spec names by their standards, and the digest in mask ROM. Each is named in a log entry. -/

namespace Sys2Proof.Config

/-- Which of the two FP32 neighbours of e^x an exponential unit gives: each exp of SOFTMAX has an error below 1 unit in
the last place and no more is stated (R129; log entry 24). -/
opaque expRoundsUp : U32 → Bool

/-- SHAKE256 of a message with an output of the given number of bytes (FIPS 202; R329, R332, R336, R337, R364). -/
opaque shake256 : List Byte → Nat → List Byte

/-- ML-DSA-65 verification: public key, context string, message, signature (FIPS 204; R329, R335, R363). -/
opaque mldsaVerify : List Byte → List Byte → List Byte → List Byte → Bool

/-- The public key and private key that ML-DSA-65 key generation gives from a seed (R332). -/
opaque mldsaPublic : List Byte → List Byte

/-- An ML-DSA-65 signature: seed of the key pair, context string, message (R338). -/
opaque mldsaSign : List Byte → List Byte → List Byte → List Byte

/-- The seed that a start-up pattern, corrected with helper data, yields (R332). -/
opaque pufSeed : List Byte → List Byte → List Byte

/-- The helper data that enrolling a pattern gives (R332). -/
opaque pufHelper : List Byte → List Byte

/-- SHAKE256 of the vendor signer's key, in mask ROM (R329). -/
opaque vendorRoot : List Byte

/-- Which of the two variants of R2 the module is: the one with the finned heatsink, or the one without (log entry 8). -/
opaque finned : Bool

/-- The part number in ASCII: UF2520-H480-A or UF2520-H480-N (R2, R3, R372). -/
def partNumber : List Byte :=
  [0x55, 0x46, 0x32, 0x35, 0x32, 0x30, 0x2D, 0x48, 0x34, 0x38, 0x30, 0x2D, if finned then 0x41 else 0x4E]

/-- The serial number of the module, from manufacture (R372). -/
opaque serialNumber : List Byte

/-- A fresh challenge of 32 bytes for an FMP session, by number (R363). -/
opaque challenge : Nat → List Byte

/-- A free byte, bit pattern or choice, by the number of its drawing and by what it stands for (see the log). -/
opaque freeNat : Nat → Nat

/-- The bank, 0 to 63, of its channel that holds the HBM line at a physical address: the placement within a channel is not
stated (R196). -/
opaque hbmBank : Nat → Nat

end Sys2Proof.Config
end

