-- ==== Sys2Proof/Machine/Num.lean ====
section
/-! DEFINITION. Numbers and element encodings: exact decoded values, rounding to nearest with ties to even, the
encodings of R30 to R35, conversion (R36 to R40, R450), microscaling (R41 to R43) and FP32 arithmetic. -/

namespace Sys2Proof

/-- A decoded value: a NaN, an infinity, or `(-1)^neg × m × 2^e`; zero keeps its sign (R37). -/
inductive Val where
  | nan
  | inf (neg : Bool)
  | fin (neg : Bool) (m : Nat) (e : Int)
deriving DecidableEq, Repr

namespace Val

/-- Positive zero. -/
def zero : Val := .fin false 0 0

/-- The value of an integer. -/
def ofInt (i : Int) : Val := .fin (i < 0) i.natAbs 0

/-- A zero of either sign. -/
def isZero : Val → Bool
  | .fin _ m _ => m = 0
  | _ => false

/-- A NaN. -/
def isNan : Val → Bool
  | .nan => true
  | _ => false

/-- A finite value. -/
def isFinite : Val → Bool
  | .fin _ _ _ => true
  | _ => false

/-- The value with its sign changed. -/
def neg : Val → Val
  | .nan => .nan
  | .inf s => .inf !s
  | .fin s m e => .fin (!s) m e

/-- The magnitude. -/
def abs : Val → Val
  | .nan => .nan
  | .inf _ => .inf false
  | .fin _ m e => .fin false m e

/-- The signed mantissa of a finite value at exponent `q ≤ e`. -/
def scaled (s : Bool) (m : Nat) (e q : Int) : Int :=
  let v : Int := (m * 2 ^ (e - q).toNat : Nat)
  if s then -v else v

/-- The exact sum; an exact zero is positive unless both terms are negative zeros. -/
def add : Val → Val → Val
  | .nan, _ => .nan
  | _, .nan => .nan
  | .inf s, .inf t => if s = t then .inf s else .nan
  | .inf s, .fin _ _ _ => .inf s
  | .fin _ _ _, .inf t => .inf t
  | .fin s m e, .fin t n f =>
    let q := min e f
    let v := scaled s m e q + scaled t n f q
    if v = 0 then .fin (s && t) 0 0 else .fin (v < 0) v.natAbs q

/-- The exact product; zero times infinity is a NaN. -/
def mul : Val → Val → Val
  | .nan, _ => .nan
  | _, .nan => .nan
  | .inf s, .inf t => .inf (s != t)
  | .inf s, .fin t n _ => if n = 0 then .nan else .inf (s != t)
  | .fin s m _, .inf t => if m = 0 then .nan else .inf (s != t)
  | .fin s m e, .fin t n f => .fin (s != t) (m * n) (e + f)

/-- The quotient to 64 bits and a sticky bit, which rounds as the exact quotient does to any encoding of the module. -/
def div : Val → Val → Val
  | .nan, _ => .nan
  | _, .nan => .nan
  | .inf _, .inf _ => .nan
  | .inf s, .fin t _ _ => .inf (s != t)
  | .fin s _ _, .inf t => .fin (s != t) 0 0
  | .fin s m e, .fin t n f =>
    if n = 0 then (if m = 0 then .nan else .inf (s != t))
    else
      let k := 64 + n.log2
      let p := m * 2 ^ k
      .fin (s != t) (2 * (p / n) + (if p % n = 0 then 0 else 1)) (e - f - (k : Int) - 1)

/-- Comparison of two values that are no NaN: the first is less. -/
def lt : Val → Val → Bool
  | .nan, _ => false
  | _, .nan => false
  | .inf s, .inf t => s && !t
  | .inf s, .fin _ _ _ => s
  | .fin _ _ _, .inf t => !t
  | .fin s m e, .fin t n f => scaled s m e (min e f) < scaled t n f (min e f)

/-- Equality of values; the two zeros are equal. -/
def eqv (x y : Val) : Bool := !x.isNan && !y.isNan && !lt x y && !lt y x

/-- The value is positive (for a zero, its sign bit is clear). -/
def isNeg : Val → Bool
  | .nan => false
  | .inf s => s
  | .fin s _ _ => s

/-- The value times a power of two. -/
def shift (x : Val) (k : Int) : Val :=
  match x with
  | .fin s m e => .fin s m (e + k)
  | y => y

/-- The larger of two values: a NaN operand gives NaN, and max(+0, −0) is +0 (R99, R128). -/
def max (x y : Val) : Val :=
  if x.isNan || y.isNan then .nan
  else if lt x y then y else if lt y x then x else if x.isNeg then y else x

/-- The smaller of two values: a NaN operand gives NaN, and min(+0, −0) is −0 (R99, R128). -/
def min (x y : Val) : Val :=
  if x.isNan || y.isNan then .nan
  else if lt x y then x else if lt y x then y else if x.isNeg then x else y

end Val

/-- `m × 2^sh` rounded to an integer, ties to even (R36). -/
def roundShift (m : Nat) (sh : Int) : Nat :=
  if 0 ≤ sh then m * 2 ^ sh.toNat
  else
    let k := (-sh).toNat
    let q := m / 2 ^ k
    let r := m % 2 ^ k
    if 2 * r < 2 ^ k then q else if 2 ^ k < 2 * r then q + 1 else q + q % 2

/-- The integer nearest to a finite value, ties to even. -/
def Val.toInt (neg : Bool) (m : Nat) (e : Int) : Int :=
  let v : Int := (roundShift m e : Nat)
  if neg then -v else v

/-- A floating-point encoding of R32: exponent bits, mantissa bits, bias, the largest finite pattern, the canonical NaN
and the pattern of infinity where the encoding has them. -/
structure FloatFmt where
  eb : Nat
  mb : Nat
  bias : Int
  maxBits : Nat
  nan : Option Nat
  inf : Option Nat
deriving DecidableEq, Repr

/-- FP32 (R32). -/
def fp32 : FloatFmt := { eb := 8, mb := 23, bias := 127, maxBits := 0x7F7FFFFF, nan := some 0x7FC00000, inf := some 0x7F800000 }
/-- FP16. -/
def fp16 : FloatFmt := { eb := 5, mb := 10, bias := 15, maxBits := 0x7BFF, nan := some 0x7E00, inf := some 0x7C00 }
/-- BF16. -/
def bf16 : FloatFmt := { eb := 8, mb := 7, bias := 127, maxBits := 0x7F7F, nan := some 0x7FC0, inf := some 0x7F80 }
/-- FP8 E4M3. -/
def e4m3 : FloatFmt := { eb := 4, mb := 3, bias := 7, maxBits := 0x7E, nan := some 0x7F, inf := none }
/-- FP8 E5M2. -/
def e5m2 : FloatFmt := { eb := 5, mb := 2, bias := 15, maxBits := 0x7B, nan := some 0x7E, inf := some 0x7C }
/-- FP6 E3M2. -/
def e3m2 : FloatFmt := { eb := 3, mb := 2, bias := 3, maxBits := 0x1F, nan := none, inf := none }
/-- FP6 E2M3. -/
def e2m3 : FloatFmt := { eb := 2, mb := 3, bias := 1, maxBits := 0x1F, nan := none, inf := none }
/-- FP4 E2M1. -/
def e2m1 : FloatFmt := { eb := 2, mb := 1, bias := 1, maxBits := 0x7, nan := none, inf := none }

/-- The width of a floating-point encoding. -/
def FloatFmt.width (f : FloatFmt) : Nat := 1 + f.eb + f.mb

/-- The value of a pattern (R32). -/
def FloatFmt.decode (f : FloatFmt) (b : Nat) : Val :=
  let neg := bit b (f.eb + f.mb)
  let mag := b % 2 ^ (f.eb + f.mb)
  if f.maxBits < mag then
    match f.inf with
    | some p => if mag = p then .inf neg else .nan
    | none => .nan
  else
    let ex := mag / 2 ^ f.mb
    let man := mag % 2 ^ f.mb
    if ex = 0 then .fin neg man (1 - f.bias - f.mb) else .fin neg (man + 2 ^ f.mb) (ex - f.bias - f.mb)

/-- The magnitude pattern nearest to `m × 2^e`, ties to even, with no bound above. -/
def FloatFmt.round (f : FloatFmt) (m : Nat) (e : Int) : Nat :=
  if m = 0 then 0
  else
    let qmin : Int := 1 - f.bias - f.mb
    let q : Int := max qmin ((m.log2 : Int) + e - f.mb)
    (q - qmin).toNat * 2 ^ f.mb + roundShift m (e - q)

/-- Conversion to a floating-point encoding (R36 to R39). -/
def FloatFmt.encode (f : FloatFmt) (sat : Bool) (x : Val) : Nat :=
  let signed := fun (neg : Bool) (mag : Nat) => mag + (if neg then 2 ^ (f.eb + f.mb) else 0)
  let overflow := fun (neg : Bool) => signed neg (match f.inf with
    | some p => if sat then f.maxBits else p
    | none => f.maxBits)
  match x with
  | .nan => f.nan.getD 0
  | .inf neg => overflow neg
  | .fin neg m e => if f.maxBits < f.round m e then overflow neg else signed neg (f.round m e)

/-- Rounding to FP32, as every FP32 operation does (R36). -/
def Val.toF32 (x : Val) : Val := fp32.decode (fp32.encode false x)

/-- FP32 addition on patterns. -/
def f32Add (a b : U32) : U32 := BitVec.ofNat 32 (fp32.encode false (Val.add (fp32.decode a.toNat) (fp32.decode b.toNat)))

/-- The value of an FP32 pattern. -/
def f32 (a : Nat) : Val := fp32.decode a

/-- The FP32 pattern of a value, rounded. -/
def toF32 (x : Val) : U32 := BitVec.ofNat 32 (fp32.encode false x)

/-! ## Element encodings -/

/-- The encodings of R30 by their codes; code 0 is read as INT8 (R31). -/
inductive Enc where
  | int4 | int8 | uint8 | int16 | int32 | fp32 | fp16 | bf16 | e4m3 | e5m2 | e3m2 | e2m3 | e2m1 | e8m0 | tern2
deriving DecidableEq, Repr

/-- The encoding of a code (R30, R31). -/
def Enc.ofCode (c : Nat) : Enc :=
  match c with
  | 1 => .int4 | 2 => .int8 | 3 => .uint8 | 4 => .int16 | 5 => .int32 | 6 => .fp32 | 7 => .fp16 | 8 => .bf16
  | 9 => .e4m3 | 10 => .e5m2 | 11 => .e3m2 | 12 => .e2m3 | 13 => .e2m1 | 14 => .e8m0 | 15 => .tern2
  | _ => .int8

/-- Bits of an element (R30). -/
def Enc.width : Enc → Nat
  | .int4 => 4 | .int8 => 8 | .uint8 => 8 | .int16 => 16 | .int32 => 32 | .fp32 => 32 | .fp16 => 16 | .bf16 => 16
  | .e4m3 => 8 | .e5m2 => 8 | .e3m2 => 6 | .e2m3 => 6 | .e2m1 => 4 | .e8m0 => 8 | .tern2 => 2

/-- The rate classes of R21, from the fastest: 4-bit and ternary, 8-bit, 16-bit, FP32. -/
def Enc.rateClass : Enc → Nat
  | .int4 => 0 | .e2m1 => 0 | .tern2 => 0
  | .int8 => 1 | .uint8 => 1 | .e4m3 => 1 | .e5m2 => 1 | .e3m2 => 1 | .e2m3 => 1 | .e8m0 => 1
  | .int16 => 2 | .fp16 => 2 | .bf16 => 2
  | .int32 => 3 | .fp32 => 3

/-- Encodings that microscaling applies to (R41). -/
def Enc.canScale : Enc → Bool
  | .int8 => true | .e4m3 => true | .e5m2 => true | .e3m2 => true | .e2m3 => true | .e2m1 => true
  | _ => false

/-- Integer encodings (R72). TERN2 is none: R40 sets it beside them (DEDUCED, log entry 21). -/
def Enc.isInt : Enc → Bool
  | .int4 => true | .int8 => true | .uint8 => true | .int16 => true | .int32 => true
  | _ => false

/-- The range of an integer encoding (R30). -/
def Enc.intRange : Enc → Int × Int
  | .int4 => (-8, 7) | .uint8 => (0, 255) | .int16 => (-32768, 32767) | .int32 => (-2147483648, 2147483647)
  | _ => (-128, 127)

/-- The floating-point layout of an encoding, where it has one. -/
def Enc.float : Enc → Option FloatFmt
  | .fp32 => some Sys2Proof.fp32 | .fp16 => some Sys2Proof.fp16 | .bf16 => some Sys2Proof.bf16 | .e4m3 => some Sys2Proof.e4m3
  | .e5m2 => some Sys2Proof.e5m2 | .e3m2 => some Sys2Proof.e3m2 | .e2m3 => some Sys2Proof.e2m3 | .e2m1 => some Sys2Proof.e2m1
  | _ => none

/-- The value of an E8M0 byte (R31, R32). -/
def e8m0Value (b : Nat) : Val := if b = 255 then .nan else .fin false 1 ((b : Int) - 127)

/-- The value of an element's bits, without a scale (R30 to R34). -/
def Enc.decode (enc : Enc) (b : Nat) : Val :=
  match enc.float with
  | some f => f.decode b
  | none =>
    match enc with
    | .uint8 => .ofInt b
    | .e8m0 => e8m0Value b
    | .tern2 => if b = 1 then .ofInt 1 else if b = 3 then .ofInt (-1) else .zero
    | .int4 => .ofInt (toSigned 4 b)
    | .int16 => .ofInt (toSigned 16 b)
    | .int32 => .ofInt (toSigned 32 b)
    | _ => .ofInt (toSigned 8 b)

/-- An integer saturated to a range (R38). -/
def clampInt (lo hi i : Int) : Int := if i < lo then lo else if hi < i then hi else i

/-- Conversion to an integer encoding with range [lo, hi] (R36, R38 to R40). -/
def encodeInt (w : Nat) (lo hi : Int) (x : Val) : Nat :=
  match x with
  | .nan => 0
  | .inf neg => ofSigned w (if neg then lo else hi)
  | .fin neg m e => ofSigned w (clampInt lo hi (Val.toInt neg m e))

/-- Conversion to E8M0 (R450). -/
def encodeE8m0 (x : Val) : Nat :=
  match x with
  | .nan => 255
  | .inf neg => if neg then 0 else 254
  | .fin neg m e =>
    if neg ∨ m = 0 then 0
    else
      let k : Int := (m.log2 : Int) + e
      if 127 ≤ k then 254
      else if k < -127 then 0
      else
        let half := 3 * 2 ^ m.log2
        let up := half < 2 * m ∨ (2 * m = half ∧ (k + 127) % 2 = 1)
        ((k + 127).toNat) + (if up then 1 else 0)

/-- Conversion to TERN2 (R40). -/
def encodeTern (x : Val) : Nat :=
  let half : Val := .fin false 1 (-1)
  if Val.lt half x then 1 else if Val.lt x half.neg then 3 else 0

/-- Conversion of a value to an encoding without microscaling (R36 to R40, R450). -/
def Enc.encode (enc : Enc) (sat : Bool) (x : Val) : Nat :=
  match enc.float with
  | some f => f.encode sat x
  | none =>
    match enc with
    | .uint8 => encodeInt 8 0 255 x
    | .e8m0 => encodeE8m0 x
    | .tern2 => encodeTern x
    | .int4 => encodeInt 4 (-8) 7 x
    | .int16 => encodeInt 16 (-32768) 32767 x
    | .int32 => encodeInt 32 (-2147483648) 2147483647 x
    | _ => encodeInt 8 (-128) 127 x

/-! ## Microscaling -/

/-- The value of an element of a microscaled group (R41, R43). -/
def Enc.decodeScaled (enc : Enc) (scale b : Nat) : Val :=
  if scale = 255 then .nan
  else
    let v := enc.decode b
    (if enc = .int8 then v.shift (-6) else v).shift ((scale : Int) - 127)

/-- The exponent `m` of R43 step 3. -/
def Enc.scaleExp : Enc → Int
  | .e4m3 => 8 | .e5m2 => 15 | .e3m2 => 4 | .e2m3 => 2 | .e2m1 => 2
  | _ => 0

/-- floor(log2) of the largest magnitude among finite values; none where all are zero. -/
def maxLog (xs : List Val) : Option Int :=
  xs.foldl (fun acc x => match x with
    | .fin _ m e => if m = 0 then acc else
        let k := (m.log2 : Int) + e
        match acc with
        | none => some k
        | some j => some (max j k)
    | _ => acc) none

/-- A group written: the scale byte and the element bits (R43). -/
def Enc.encodeGroup (enc : Enc) (xs : List Val) : Nat × List Nat :=
  if xs.any (fun x => !x.isFinite) then (255, xs.map fun _ => 0)
  else match maxLog xs with
    | none => (127, xs.map fun x => (if enc = .int8 then 0 else enc.encode true x))
    | some k =>
      let x := clampInt (-127) 127 (k - enc.scaleExp)
      ((x + 127).toNat, xs.map fun v => enc.encode true (v.shift ((if enc = .int8 then 6 else 0) - x)))

end Sys2Proof
end

