-- ==== Sys2Proof/Machine/Operands.lean ====
section
/-! DEFINITION. The formats that operations read: the tensor descriptor (R49 to R54), the operation descriptor (R66 to
R71), the last with its symbols and variants (R152 to R158), lap records (R177), and what a die sees of memory when it
reads them through its task's windows. -/

namespace Sys2Proof.Machine

/-- What a die sees of memory on behalf of a task: the state, the task's window record and the die (R188, R451), and the metadata
bytes that its fetch has read already, by task address (R61). -/
structure View where
  s : State
  w : Window
  die : Nat
  snap : SMap Byte

/-- Bytes at a task address and whether a line among them reads poisoned; metadata fetched already stands as the fetch found it. -/
def View.read (v : View) (a n : Nat) : List Byte × Bool :=
  let r := v.s.taskBytes v.w v.die a n
  if v.snap = [] then r
  else ((List.range r.1.length).map fun i => SMap.get v.snap (a + i) (r.1.getD i 0), r.2)

/-- The little-endian value of `n` bytes at a task address. -/
def View.num (v : View) (a n : Nat) : Nat := leNat (v.read a n).1

/-! ## Tensor descriptors -/

/-- A tensor as its descriptor gives it, with the readings of R51, R52 and R54 applied. -/
structure Tensor where
  supplied : Bool
  addr : Nat
  plain : Bool
  enc : Enc
  mx : Bool
  /-- Block height and width (R44), replaced by the output grid's where R455 says so. -/
  h : Nat
  w : Nat
  awaits : Bool
  s48 : Bool
  sat : Bool
  axis : Bool
  masked : Bool
  full : Bool
  base : Nat
  metaBase : Nat
  size : List Nat
  /-- Offsets of the level-2, level-1 and mask areas in bytes (blocked). -/
  l2 : Nat
  l1 : Nat
  maskOff : Nat
  /-- STRIDE[1] to STRIDE[4], and the pitches p0 to p5 of R52 (plain). -/
  strides : List Nat
  pitch : List Nat
  /-- The operation reads it transposed (R67, R78, R91). -/
  trans : Bool
  /-- A size of 1 in dimensions 2 to 5 serves every batch (R453). -/
  bcast : Bool
deriving DecidableEq, Repr

/-- The block shape of a code, as height and width (R44). -/
def shapeOf (c : Nat) : Nat × Nat :=
  match c % 4 with
  | 0 => (16, 16) | 1 => (8, 8) | 2 => (8, 32) | _ => (32, 8)

/-- The pitches of R52: a STRIDE of 0 packs, and dimension 5 is always packed. -/
def pitches (size strides : List Nat) : List Nat :=
  let step := fun (p : Nat) (d : Nat) => p * size.getD d 1
  let p1 := if strides.getD 0 0 = 0 then step 1 0 else strides.getD 0 0
  let p2 := if strides.getD 1 0 = 0 then step p1 1 else strides.getD 1 0
  let p3 := if strides.getD 2 0 = 0 then step p2 2 else strides.getD 2 0
  let p4 := if strides.getD 3 0 = 0 then step p3 3 else strides.getD 3 0
  [1, p1, p2, p3, p4, step p4 4]

/-- The tensor that 64 descriptor bytes give (R49 to R54). -/
def Tensor.decode (addr : Nat) (b : List Byte) : Tensor :=
  let flags := field b 4 2
  let plain := bit flags 0
  let r := field b 1 1 % 8
  let rank := if r = 0 then 1 else min r 6
  let size := (List.range 6).map fun d => if d < rank then field b (0x18 + 4 * d) 4 else 1
  let enc := Enc.ofCode (field b 2 1 % 16)
  let base := field b 8 8 % 2 ^ 52
  let mt := field b 16 8 % 2 ^ 52
  let hw := shapeOf (field b 3 1)
  { supplied := true, addr := addr, plain := plain, enc := enc, mx := bit flags 3 && enc.canScale, h := hw.1, w := hw.2,
    awaits := bit flags 7, s48 := bit flags 6 && !plain, sat := bit flags 5, axis := bit flags 4 && !plain,
    masked := bit flags 2 && !plain, full := bit flags 1 && !plain,
    base := if plain then base else base / 64 * 64, metaBase := if plain then mt else mt / 64 * 64, size := size,
    l2 := field b 0x30 4 * 64, l1 := field b 0x34 4 * 64, maskOff := field b 0x38 4 * 64,
    strides := (List.range 4).map fun d => field b (0x30 + 4 * d) 4,
    pitch := pitches size ((List.range 4).map fun d => field b (0x30 + 4 * d) 4), trans := false, bcast := false }

/-- Coordinates with dimensions 0 and 1 exchanged. -/
def swap01 (x : List Nat) : List Nat := [x.getD 1 0, x.getD 0 0] ++ x.drop 2

/-- The tensor as an operation that reads it transposed uses it: a plain one as the transpose of the whole tensor, a blocked one with
its descriptor naming the blocks as used (R67, R78, R91). -/
def Tensor.transposed (t : Tensor) : Tensor := { t with trans := true, size := if t.plain then swap01 t.size else t.size }

/-- The stored coordinates of an element, and the stored sizes (R78). -/
def Tensor.storedAt (t : Tensor) (x : List Nat) : List Nat := if t.trans && t.plain then swap01 x else x

/-- The coordinates at which an operand is read: index 0 of each batch dimension of size 1 where the operation spreads it (R453). -/
def Tensor.readAt (t : Tensor) (x : List Nat) : List Nat :=
  if t.bcast then (List.range 6).map fun d => if 2 ≤ d ∧ t.size.getD d 1 = 1 then 0 else x.getD d 0 else x

/-- An operand that is not supplied reads as an empty tensor (R68). -/
def Tensor.absent : Tensor :=
  { Tensor.decode 0 (List.replicate 64 0) with supplied := false, size := List.replicate 6 0, full := true }

/-- The tensor descriptor that a pointer names, 0 for none (R68), as a die reads it; and whether it reads poisoned. -/
def View.tensor (v : View) (ptr : Nat) : Tensor × Bool :=
  let a := ptr % 2 ^ 52 / 64 * 64
  if ptr % 2 ^ 52 = 0 then (Tensor.absent, false)
  else
    let r := v.read a 64
    (Tensor.decode a r.1, r.2)

/-- The same tensor read in blocked layout, or in plain layout, whatever LAYOUT holds (R63, R94, R101). -/
def View.tensorAs (v : View) (ptr : Nat) (plain : Bool) : Tensor :=
  let a := ptr % 2 ^ 52 / 64 * 64
  if ptr % 2 ^ 52 = 0 then { Tensor.absent with plain := plain }
  else
    let b := (v.read a 64).1
    Tensor.decode a (b.set 4 (if plain then (b.getD 4 0) ||| 1 else (b.getD 4 0) &&& 0xFE))

/-- The block grid nb0 to nb5 (R46). -/
def Tensor.grid (t : Tensor) : List Nat :=
  [ceilDiv (t.size.getD 0 0) t.w, ceilDiv (t.size.getD 1 0) t.h, t.size.getD 2 0, t.size.getD 3 0, t.size.getD 4 0, t.size.getD 5 0]

/-- The product of a list of numbers. -/
def listProd (l : List Nat) : Nat := l.foldl (· * ·) 1

/-- The number of blocks (R46). -/
def Tensor.nb (t : Tensor) : Nat := listProd t.grid

/-- The coordinates of a linear index in a box of extents, dimension 0 fastest. -/
def unravel : List Nat → Nat → List Nat
  | [], _ => []
  | n :: rest, l => (if n = 0 then 0 else l % n) :: unravel rest (if n = 0 then 0 else l / n)

/-- The linear index of coordinates in a box of extents (R46). -/
def ravel : List Nat → List Nat → Nat
  | n :: ns, i :: is => i + n * ravel ns is
  | _, _ => 0

/-- Element bits within a record (R35, R48). -/
def Tensor.elemBits (t : Tensor) : Nat := if t.enc = .tern2 ∧ t.masked then 1 else t.enc.width

/-- Bytes of a record's element data, and of the whole record with its scales, a multiple of 8 (R48). -/
def Tensor.dataBytes (t : Tensor) : Nat := ceilDiv (t.h * t.w * t.elemBits) 8

/-- The record size (R48). -/
def Tensor.recSize (t : Tensor) : Nat :=
  ceilDiv (t.dataBytes + (if t.mx then ceilDiv (t.h * t.w) 32 else 0)) 8 * 8

/-- The mask entry size (R59). -/
def Tensor.maskSize (t : Tensor) : Nat := ceilDiv (t.h * t.w) 8

/-- The tensor read in another block shape (R455). -/
def Tensor.reshape (t : Tensor) (h w : Nat) : Tensor := { t with h := h, w := w }

/-! ## Operation descriptors -/

/-- The operations that opcodes and sub-functions select (R69, R70, R71). -/
inductive OpKind where
  | spmm | spgemm | sddmm | conv | gather | scatter | eltwise | reduce | softmax | toBlocked | toPlain | blockTrans
  | predict | transCopy | unknown
deriving DecidableEq, Repr

/-- The kind of an operation descriptor: an undefined SUBF reads as 1 (R70, R71). -/
def opKind (d : List Byte) : OpKind :=
  match field d 1 1 with
  | 1 => .spmm | 2 => .spgemm | 3 => .sddmm | 4 => .conv | 5 => .gather | 6 => .scatter | 7 => .eltwise | 8 => .reduce
  | 9 => .softmax
  | 10 => (match field d 0x50 1 with
    | 0 => .toBlocked
    | 2 => .blockTrans
    | _ => .toPlain)
  | 11 => .predict | 12 => .transCopy | _ => .unknown

/-- The fields of an operation descriptor (R66, R67). -/
structure OpDesc where
  kind : OpKind
  opcode : Nat
  flags : Nat
  tag : Nat
  last : Nat
  ta : Nat
  tb : Nat
  tc : Nat
  tm : Nat
  tx : Nat
  alpha : Nat
  beta : Nat
  awlThr : Nat
  cring : Nat
  task : Nat
  deadline : Nat
  sync : Nat
  params : List Byte
deriving DecidableEq, Repr

/-- The operation descriptor that 128 bytes give. -/
def OpDesc.decode (d : List Byte) : OpDesc :=
  { kind := opKind d, opcode := field d 1 1, flags := field d 2 2, tag := field d 4 4, last := field d 8 8 % 2 ^ 52 / 64 * 64,
    ta := field d 0x10 8, tb := field d 0x18 8, tc := field d 0x20 8, tm := field d 0x28 8, tx := field d 0x30 8,
    alpha := field d 0x38 4, beta := field d 0x3C 4, awlThr := field d 0x40 4, cring := field d 0x44 2 % 2 ^ 13,
    task := field d 0x46 1, deadline := field d 0x48 4, sync := field d 0x4C 2, params := slice d 0x50 16 }

/-- OPFLAGS (R67): THRU, which PREDICT ignores (R132). -/
def OpDesc.thru (o : OpDesc) : Bool := bit o.flags 11 && o.kind != .predict
/-- CMP: B is the compacted operand. -/
def OpDesc.cmpB (o : OpDesc) : Bool := bit o.flags 10
/-- PATHSEL, 11 read as 00. -/
def OpDesc.pathSel (o : OpDesc) : Nat := if bits o.flags 9 8 = 3 then 0 else bits o.flags 9 8
/-- TRANS_B. -/
def OpDesc.transB (o : OpDesc) : Bool := bit o.flags 7
/-- TRANS_A. -/
def OpDesc.transA (o : OpDesc) : Bool := bit o.flags 6
/-- ACCUM, which PREDICT ignores (R132). -/
def OpDesc.accum (o : OpDesc) : Bool := bit o.flags 5 && o.kind != .predict
/-- DUPLAST. -/
def OpDesc.dupLast (o : OpDesc) : Bool := bit o.flags 4
/-- IDXWRAP. -/
def OpDesc.idxWrap (o : OpDesc) : Bool := bit o.flags 3
/-- LOSTVAL. -/
def OpDesc.lostVal (o : OpDesc) : Bool := bit o.flags 2
/-- AWLMODE as stored, 11 read as strict. -/
def OpDesc.awlMode (o : OpDesc) : Nat := if o.flags % 4 = 3 then 2 else o.flags % 4

/-- AXIS: values 6 and 7 read as 5 (R71). -/
def OpDesc.axis (o : OpDesc) : Nat := min (field o.params 0 1 % 8) 5

/-- Products, which share the tiles of R79. -/
def OpKind.isProduct : OpKind → Bool
  | .spmm => true | .spgemm => true | .sddmm => true | .predict => true
  | _ => false

/-- Operations that carry poison instead of consuming it (R406); PREDICT does neither. -/
def OpKind.carries : OpKind → Bool
  | .transCopy => true | .blockTrans => true
  | _ => false

/-! ## Lasts -/

/-- The header of a last (R153). -/
structure LastHdr where
  magic : Nat
  cver : Nat
  opcode : Nat
  lflags : Nat
  len : Nat
  nsym : Nat
  nvar : Nat
  nlap : Nat
  symOff : Nat
  varOff : Nat
  lapOff : Nat
deriving DecidableEq, Repr

/-- The header that 64 bytes give, counts limited as R153 says. -/
def LastHdr.decode (b : List Byte) : LastHdr :=
  { magic := field b 0 4, cver := field b 4 1, opcode := field b 5 1, lflags := field b 6 2, len := field b 8 4,
    nsym := min (field b 0x0C 2) 256, nvar := min (field b 0x0E 1) 32, nlap := min (field b 0x0F 1) 2,
    symOff := field b 0x10 4, varOff := field b 0x14 4, lapOff := field b 0x18 4 }

/-- The check of a last (R155): STATUS and XCODE of a refusal, or none. A CVER of 0 reads as 1. -/
def lastCheck (ver : Nat) (opcode : Nat) (l : LastHdr) : Option (Nat × Nat) :=
  if l.magic ≠ 0x5453414C then some (0x11, 0)
  else if ver < max l.cver 1 then some (0x12, l.cver)
  else if l.opcode ≠ opcode then some (0x13, l.opcode)
  else none

/-- The stored symbols of R157. -/
structure Symbols where
  tw : Nat
  rb : Nat
  sl : Nat
  slotBase : Nat
  floors : List Nat
deriving DecidableEq, Repr

/-- The defaults of R157. -/
def Symbols.default : Symbols := { tw := 16, rb := 0, sl := 16, slotBase := 0, floors := [0, 0, 0] }

/-- One symbol record applied (R156, R157): a record of another symbol or kind is ignored. -/
def Symbols.apply (y : Symbols) (r : List Byte) : Symbols :=
  let v := field r 4 4
  match field r 0 2, field r 2 1 with
  | 0x0001, 0 => { y with tw := if v = 0 then 1 else min v 16 }
  | 0x0002, 0 => { y with rb := v }
  | 0x0003, 0 => { y with sl := min v 4096 }
  | 0x0004, 0 => { y with slotBase := v % 2 ^ 12 / 4 * 4 }
  | 0x0010, 1 => { y with floors := y.floors.set 0 v }
  | 0x0011, 1 => { y with floors := y.floors.set 1 v }
  | 0x0012, 1 => { y with floors := y.floors.set 2 v }
  | _, _ => y

/-- `n` records of 8 bytes from an address on, applied in order. -/
def View.applySymbols (v : View) (y : Symbols) (a n : Nat) : Symbols :=
  (List.range n).foldl (fun y i => y.apply (v.read (a + 8 * i) 8).1) y

/-- A last as a die reads it: header, symbols with the selected variant's, lap records, the byte ranges read, and
whether a line of it reads poisoned (R152 to R158, R177). -/
structure Last where
  hdr : LastHdr
  sym : Symbols
  variant : Bool
  laps : List LapRec
  ranges : List (Nat × Nat)
  poison : Bool
deriving DecidableEq, Repr

/-- The last at `a` under the active set `act` (3300:03). -/
def View.last (v : View) (a act : Nat) : Last :=
  let h := LastHdr.decode (v.read a 64).1
  let vars := (List.range h.nvar).map fun i => (a + h.varOff + 16 * i)
  let sel := vars.find? fun x => v.num x 4 % 2 ^ 20 + act % 2 ^ 20 = 2 ^ 20 - 1 ∧ (v.num x 4 % 2 ^ 20) &&& (act % 2 ^ 20) = 0
  let y := v.applySymbols Symbols.default (a + h.symOff) h.nsym
  let y2 := match sel with
    | some x => v.applySymbols y (a + v.num (x + 8) 4) (min (v.num (x + 4) 2) 256)
    | none => y
  let laps := (List.range h.nlap).map fun i =>
    let x := a + h.lapOff + 32 * i
    { src := v.num x 8 % 2 ^ 52, dst := v.num (x + 8) 8 % 2 ^ 52, z := v.num (x + 16) 4 : LapRec }
  let ranges := [(a, 64), (a + h.symOff, 8 * h.nsym), (a + h.varOff, 16 * h.nvar), (a + h.lapOff, 32 * h.nlap)] ++
    (match sel with
    | some x => [(a + v.num (x + 8) 4, 8 * min (v.num (x + 4) 2) 256)]
    | none => [])
  { hdr := h, sym := y2, variant := sel.isSome, laps := laps.filter fun l => l.z ≠ 0, ranges := ranges,
    poison := ranges.any fun r => (v.read r.1 r.2).2 }

end Sys2Proof.Machine
end

