-- ==== Sys2Proof/Machine/Tensor.lean ====
section
/-! DEFINITION. Reading and writing tensors: the bitmap hierarchy (R55 to R62), records, masks and scales (R35, R42,
R47, R48), plain elements (R52, R53), and the bytes that writing a tensor puts into memory (R58 to R60). -/

namespace Sys2Proof.Machine

/-! ## The bitmap hierarchy -/

/-- A present block: its linear index, its record address and its mask address (R62). -/
structure BlockRef where
  l : Nat
  addr : Nat
  mask : Option Nat
deriving DecidableEq, Repr

/-- What a walk of the hierarchy finds: the present blocks in index order, the bitmap bits dropped (R54), the number
of level-1 nodes, and the byte ranges read. -/
structure Scan where
  blocks : List BlockRef
  dropped : Nat
  n1 : Nat
  ranges : List (Nat × Nat)
deriving DecidableEq, Repr

/-- The set bits of a 64-bit node, in increasing order. -/
def setBits (bm : Nat) : List Nat := (List.range 64).filter (bit bm)

/-- The children of inner nodes, each given by the first block index it covers and its address: their own first block
indices and addresses, and the number of bits dropped because their range begins at or above `nb` (R54, R62). -/
def View.children (v : View) (nb span area size : Nat) (nodes : List (Nat × Nat)) : List (Nat × Nat) × Nat :=
  nodes.foldl (fun acc nd =>
    let bm := v.num nd.2 8
    let pre := v.num (nd.2 + 8) 4
    (setBits bm).foldl (fun acc b =>
      if nb ≤ nd.1 + b * span then (acc.1, acc.2 + 1)
      else (acc.1 ++ [(nd.1 + b * span, area + (pre + popcount 64 (bm % 2 ^ b)) * size)], acc.2)) acc) ([], 0)

/-- The present blocks of level-1 nodes, and the bits dropped (R58, R62). -/
def View.leaves (v : View) (t : Tensor) (nodes : List (Nat × Nat)) : List BlockRef × Nat :=
  nodes.foldl (fun acc nd =>
    let bm := v.num nd.2 8
    let mm := (v.num (nd.2 + 8) 8) &&& bm
    let pre := v.num (nd.2 + 16) 4
    let mpre := v.num (nd.2 + 20) 4
    (setBits bm).foldl (fun acc b =>
      if t.nb ≤ nd.1 + b then (acc.1, acc.2 + 1)
      else (acc.1 ++ [{ l := nd.1 + b, addr := t.base + (pre + popcount 64 (bm % 2 ^ b)) * t.recSize,
                        mask := if t.masked && bit mm b then
                            some (t.metaBase + t.maskOff + (mpre + popcount 64 (mm % 2 ^ b)) * t.maskSize) else none }], acc.2))
      acc) ([], 0)

/-- The walk of a tensor's hierarchy; a plain or FULL tensor has every block and no nodes (R55, R78). A plain block has
no record: its address stands as 0. -/
def View.scan (v : View) (t : Tensor) : Scan :=
  if t.plain ∨ t.full then
    { blocks := (List.range t.nb).map fun l =>
        { l := l, addr := if t.plain then 0 else t.base + l * t.recSize,
          mask := if t.masked then some (t.metaBase + t.maskOff + l * t.maskSize) else none },
      dropped := 0, n1 := if t.plain then 0 else ceilDiv t.nb 64, ranges := [] }
  else
    let roots := (List.range (ceilDiv t.nb 262144)).map fun r => (r * 262144, t.metaBase + 16 * r)
    let l2 := v.children t.nb 4096 (t.metaBase + t.l2) 16 roots
    let l1 := v.children t.nb 64 (t.metaBase + t.l1) 32 l2.1
    let lv := v.leaves t l1.1
    { blocks := lv.1, dropped := l2.2 + l1.2 + lv.2, n1 := l1.1.length,
      ranges := roots.map (fun x => (x.2, 16)) ++ l2.1.map (fun x => (x.2, 16)) ++ l1.1.map (fun x => (x.2, 32)) }

/-- The present block of linear index `l`. -/
def Scan.find (sc : Scan) (l : Nat) : Option BlockRef := sc.blocks.find? fun b => b.l = l

/-! ## Elements -/

/-- The `w` bits at bit position `p` of a byte sequence (R33). -/
def bitsAt (bs : List Byte) (p w : Nat) : Nat := leNat (slice bs (p / 8) (w / 8 + 2)) / 2 ^ (p % 8) % 2 ^ w

/-- A block as stored: its element values in index order, masked elements zero, the elements that lie in a group with scale 0xFF, its
mask, and whether a line of its record or mask reads poisoned. -/
structure Blk where
  vals : List Val
  bad : List Bool
  mask : Option (List Bool)
  poison : Bool
deriving DecidableEq, Repr

/-- The scale group of stored element `q` of a record with `ws` columns and `hs` rows (R42). -/
def groupOf (axis : Bool) (hs ws q : Nat) : Nat := (if axis then q % ws * hs + q / ws else q) / 32

/-- A block's record and mask decoded, for a record of `hs` rows and `ws` columns; an element whose mask bit is 0 is zero, whatever its
group's scale (R35, R41, R42, R48). -/
def View.block (v : View) (t : Tensor) (hs ws : Nat) (b : BlockRef) : Blk :=
  let n := hs * ws
  let rd := v.read b.addr t.recSize
  let mk := b.mask.map fun a => v.read a t.maskSize
  let on : Nat → Bool := fun q => match mk with
    | some m => bitsAt m.1 q 1 == 1
    | none => true
  let bad := fun q => on q && t.mx && rd.1.getD (t.dataBytes + groupOf t.axis hs ws q) 0 == 255
  let val := fun q =>
    if on q then
      let e := bitsAt rd.1 (q * t.elemBits) t.elemBits
      if t.enc = .tern2 ∧ t.masked then Val.ofInt (if e = 1 then -1 else 1)
      else if t.mx then t.enc.decodeScaled ((rd.1.getD (t.dataBytes + groupOf t.axis hs ws q) 0).toNat) e
      else t.enc.decode e
    else .zero
  { vals := (List.range n).map val, bad := (List.range n).map bad, mask := mk.map fun _ => (List.range n).map on,
    poison := rd.2 || (match mk with | some m => m.2 | none => false) }

/-- Coordinates within a tensor's size. -/
def Tensor.within (t : Tensor) (x : List Nat) : Bool := (List.range 6).all fun d => x.getD d 0 < t.size.getD d 0

/-- The sizes as stored (R78). -/
def Tensor.storedSize (t : Tensor) : List Nat := t.storedAt t.size

/-- The byte range of a plain element and the bit at which it starts (R52). -/
def Tensor.plainPlace (t : Tensor) (x : List Nat) : Nat × Nat × Nat :=
  let e := listSum (List.zipWith (· * ·) (t.storedAt x) t.pitch)
  let p := e * t.enc.width
  (t.base + p / 8, ceilDiv (p % 8 + t.enc.width) 8, p % 8)

/-- The address of a plain element's scale (R53). -/
def Tensor.plainScale (t : Tensor) (x : List Nat) : Nat :=
  let n := t.storedSize
  let y := t.storedAt x
  t.metaBase + ravel (n.drop 1) (y.drop 1) * ceilDiv (n.getD 0 0) 32 + y.getD 0 0 / 32

/-- A plain element's stored bits and whether a line it lies in reads poisoned. -/
def View.plainBits (v : View) (t : Tensor) (x : List Nat) : Nat × Bool :=
  let p := t.plainPlace x
  let r := v.read p.1 p.2.1
  (bitsAt r.1 p.2.2 t.enc.width, r.2)

/-- A plain element (R41, R52, R53). -/
def View.plainElem (v : View) (t : Tensor) (x : List Nat) : Val × Bool :=
  let b := v.plainBits t x
  if t.mx then
    let sc := v.read (t.plainScale x) 1
    (t.enc.decodeScaled ((sc.1.getD 0 0).toNat) b.1, b.2 || sc.2)
  else (t.enc.decode b.1, b.2)

/-- A plain element lies in a group with scale 0xFF (R43). -/
def View.plainBad (v : View) (t : Tensor) (x : List Nat) : Bool := t.mx && (v.read (t.plainScale x) 1).1.getD 0 0 == 255

/-- The bidirectional 4:8 pattern of a mask of `h` rows and `w` columns (R93). -/
def s48Pattern (h w : Nat) (m : List Bool) : Bool :=
  let row := fun r g => ((List.range 8).filter fun i => 8 * g + i < w && m.getD (r * w + 8 * g + i) false).length ≤ 4
  let col := fun c g => ((List.range 8).filter fun i => 8 * g + i < h && m.getD ((8 * g + i) * w + c) false).length ≤ 4
  (List.range h).all (fun r => (List.range (ceilDiv w 8)).all fun g => row r g) &&
    (List.range w).all (fun c => (List.range (ceilDiv h 8)).all fun g => col c g)

/-- A stored block of `hs` rows and `ws` columns in a transposed role: its mask is honoured only in an S48 tensor and with the pattern;
otherwise it is read without one, which counts at the object given (R92). -/
def View.transBlock (v : View) (t : Tensor) (hs ws : Nat) (b : BlockRef) : Blk × Option Nat :=
  let st := v.block t hs ws b
  match st.mask with
  | none => (st, none)
  | some m =>
    if t.s48 && s48Pattern hs ws m then (st, none)
    else ({ v.block t hs ws { b with mask := none } with poison := st.poison }, some (if t.s48 then 0x712006 else 0x712007))

/-- A list of a stored block of `w` rows as used, `h` rows of `w` columns: element (r, c) is stored at c × h + r (R91). -/
def untranspose {α : Type} (h w : Nat) (z : α) (l : List α) : List α :=
  (List.range (h * w)).map fun q => l.getD (q % w * h + q / w) z

/-- A block as an operation uses it (R91). -/
def View.usedBlock (v : View) (t : Tensor) (b : BlockRef) : Blk :=
  if t.trans then
    let st := (v.transBlock t t.w t.h b).1
    { vals := untranspose t.h t.w .zero st.vals, bad := untranspose t.h t.w false st.bad, mask := st.mask.map (untranspose t.h t.w false),
      poison := st.poison }
  else v.block t t.h t.w b

/-- A tensor with the blocks a die has read. -/
structure Loaded where
  t : Tensor
  scan : Scan
  blks : List (Nat × Blk)
deriving DecidableEq, Repr

/-- A tensor's present blocks read by a die; a plain tensor is read element by element. -/
def View.load (v : View) (t : Tensor) : Loaded :=
  let sc := v.scan t
  { t := t, scan := sc, blks := if t.plain then [] else sc.blocks.map fun b => (b.l, v.usedBlock t b) }

/-- The block coordinates and the place in the block of element coordinates. -/
def Tensor.blockOf (t : Tensor) (x : List Nat) : Nat × Nat :=
  (ravel t.grid ((x.set 0 (x.getD 0 0 / t.w)).set 1 (x.getD 1 0 / t.h)), x.getD 1 0 % t.h * t.w + x.getD 0 0 % t.w)

/-- An element as an operation by coordinates finds it: its value, whether it lies in a group with scale 0xFF, whether its block is
present and its mask admits it, and whether it was read from a poisoned line. -/
structure Elem where
  val : Val
  bad : Bool
  present : Bool
  admitted : Bool
  poison : Bool
deriving DecidableEq, Repr

/-- An element of an absent block, or beyond the size. -/
def Elem.absent : Elem := { val := .zero, bad := false, present := false, admitted := false, poison := false }

/-- The element at coordinates; beyond the size and in absent blocks it is zero (R47, R62, R99, R453). -/
def View.elemAt (v : View) (ld : Loaded) (y : List Nat) : Elem :=
  let x := ld.t.readAt y
  if ld.t.within x then
    if ld.t.plain then
      let r := v.plainElem ld.t x
      { val := r.1, bad := v.plainBad ld.t x, present := true, admitted := true, poison := r.2 }
    else
      let p := ld.t.blockOf x
      match ld.blks.find? (fun b => b.1 = p.1) with
      | some b =>
        { val := b.2.vals.getD p.2 .zero, bad := b.2.bad.getD p.2 false, present := true,
          admitted := (match b.2.mask with | some m => m.getD p.2 false | none => true), poison := b.2.poison }
      | none => Elem.absent
  else Elem.absent

/-- The element coordinates of element `q` of block `l`. -/
def Tensor.coords (t : Tensor) (l q : Nat) : List Nat :=
  let i := unravel t.grid l
  (i.set 0 (i.getD 0 0 * t.w + q % t.w)).set 1 (i.getD 1 0 * t.h + q / t.w)

/-- The element coordinates of block `l` that lie within the size, with their places. -/
def Tensor.elemsOf (t : Tensor) (l : Nat) : List (Nat × List Nat) :=
  ((List.range (t.h * t.w)).map fun q => (q, t.coords l q)).filter fun p => t.within p.2

/-- Whether block `l` of one grid is overlapped by any of the blocks listed of another tensor (R99, R455). -/
def overlaps (t : Tensor) (l : Nat) (m : Tensor) (present : List Nat) : Bool :=
  (t.elemsOf l).any fun p => m.within (m.readAt p.2) && present.contains (m.blockOf (m.readAt p.2)).1

/-- The byte ranges of a block: record and mask; for a plain tensor the bytes of its elements and their scales. -/
def Tensor.blockRanges (t : Tensor) (b : BlockRef) : List (Nat × Nat) :=
  if t.plain then
    (t.elemsOf b.l).map (fun p => ((t.plainPlace p.2).1, (t.plainPlace p.2).2.1)) ++
      (if t.mx then (t.elemsOf b.l).map (fun p => (t.plainScale p.2, 1)) else [])
  else (b.addr, t.recSize) :: (match b.mask with | some a => [(a, t.maskSize)] | none => [])

/-! ## Writing -/

/-- A block to be written: its index in C's grid, the die that writes it, the values of its elements in index order
(none: the element keeps what memory holds, plain layout only), its mask and its poison marker. -/
structure OutBlock where
  l : Nat
  writer : Nat
  vals : List (Option Val)
  mask : Option (List Bool)
  poison : Bool
deriving DecidableEq, Repr

/-- Bit fields packed from the least significant bit upward (R33). -/
def packBits (w : Nat) : List Nat → Nat
  | [] => 0
  | x :: rest => x % 2 ^ w + 2 ^ w * packBits w rest

/-- A mask for values in a tensor's encoding: a sign plane holds no zero, so a TERN2 element that converts to 0 leaves the mask (R35,
R40). -/
def Tensor.trimMask (t : Tensor) (vals : List Val) (m : List Bool) : List Bool :=
  if t.enc = .tern2 then List.zipWith (fun b x => b && decide (encodeTern x ≠ 0)) m vals else m

/-- A record: element data, scales, zero padding (R42, R43, R48). A sign plane takes each value's sign after conversion (R35, R40); an
element that a mask admits and that converts to 0 stands as +1 there (log entry 147). -/
def Tensor.recordOf (t : Tensor) (vals : List Val) (mask : Option (List Bool)) : List Byte :=
  let n := t.h * t.w
  let on : Nat → Bool := fun q => match mask with
    | some m => m.getD q false
    | none => true
  let x := fun q => if on q then vals.getD q .zero else .zero
  if t.enc = .tern2 ∧ t.masked then
    fit t.recSize (leBytes t.dataBytes (packBits 1 ((List.range n).map fun q => if on q ∧ encodeTern (x q) = 3 then 1 else 0)))
  else if t.mx then
    let order := fun k => if t.axis then k % t.h * t.w + k / t.h else k
    let groups := (List.range (ceilDiv n 32)).map fun g =>
      t.enc.encodeGroup ((List.range (min 32 (n - 32 * g))).map fun i => x (order (32 * g + i)))
    let elem := fun q =>
      let k := if t.axis then q % t.w * t.h + q / t.w else q
      if on q then (groups.getD (k / 32) (0, [])).2.getD (k % 32) 0 else 0
    fit t.recSize (leBytes t.dataBytes (packBits t.elemBits ((List.range n).map elem)) ++
      groups.map fun g => BitVec.ofNat 8 g.1)
  else
    fit t.recSize (leBytes t.dataBytes (packBits t.elemBits
      ((List.range n).map fun q => if on q then t.enc.encode t.sat (x q) else 0)))

/-- A mask entry (R59). -/
def Tensor.maskEntry (t : Tensor) (m : List Bool) : List Byte :=
  leBytes t.maskSize (packBits 1 (m.map fun b => if b then 1 else 0))

/-- The nodes of one level over the present children, given by their indices in this level's bit numbering: for each
64 indices that hold one, the node's number, its bitmap and the prefix of its first child. -/
def nodesOver (present : List Nat) : List (Nat × Nat × Nat) :=
  (dedup (present.map fun i => i / 64)).map fun n =>
    (n, maskOf 64 (fun b => present.contains (64 * n + b)), (present.filter fun i => i < 64 * n).length)

/-- The node arrays of a blocked tensor with FULL clear whose present blocks are `present`, in increasing order, and
whose masked ones are `msk` (R56 to R59). Root nodes stand for every 262,144 blocks. -/
def Tensor.nodeBytes (t : Tensor) (present msk : List Nat) : List (Nat × List Byte) :=
  let lv1 := nodesOver present
  let lv2 := nodesOver (lv1.map fun x => x.1)
  let lv3 := nodesOver (lv2.map fun x => x.1)
  let roots := (List.range (ceilDiv t.nb 262144)).map fun r =>
    match lv3.find? (fun x => x.1 = r) with
    | some x => (t.metaBase + 16 * r, leBytes 8 x.2.1 ++ leBytes 4 x.2.2 ++ leBytes 4 0)
    | none => (t.metaBase + 16 * r, leBytes 8 0 ++ leBytes 4 (lv2.filter fun x => x.1 < 64 * r).length ++ leBytes 4 0)
  let n2 := (List.range lv2.length).map fun k =>
    let x := lv2.getD k (0, 0, 0)
    (t.metaBase + t.l2 + 16 * k, leBytes 8 x.2.1 ++ leBytes 4 x.2.2 ++ leBytes 4 0)
  let n1 := (List.range lv1.length).map fun k =>
    let x := lv1.getD k (0, 0, 0)
    let mm := maskOf 64 (fun b => msk.contains (64 * x.1 + b))
    (t.metaBase + t.l1 + 32 * k, leBytes 8 x.2.1 ++ leBytes 8 mm ++ leBytes 4 x.2.2 ++
      leBytes 4 (msk.filter fun i => i < 64 * x.1).length ++ leBytes 8 0)
  roots ++ n2 ++ n1

/-- A whole-byte write. -/
def wholeWrite (die addr : Nat) (data : List Byte) (poison : Bool) (blocks : Nat) : OutWrite :=
  { die := die, addr := addr, data := data, en := [], poison := poison, blocks := blocks }

/-- The writes of a blocked tensor: records and masks by their writers, node arrays by die `nodeDie` when FULL is
clear (R120, R407, R451). -/
def Tensor.blockedWrites (t : Tensor) (nodeDie : Nat) (outs : List OutBlock) : List OutWrite :=
  let present := outs.map fun o => o.l
  let msk := (outs.filter fun o => o.mask.isSome).map fun o => o.l
  let place := fun (o : OutBlock) => if t.full then o.l else (present.filter fun i => i < o.l).length
  let maskPlace := fun (o : OutBlock) => if t.full then o.l else (msk.filter fun i => i < o.l).length
  outs.flatMap (fun o =>
    wholeWrite o.writer (t.base + place o * t.recSize)
      (t.recordOf (o.vals.map fun x => x.getD .zero) o.mask) o.poison (if o.poison then 1 else 0) ::
    (match o.mask with
    | some m => [wholeWrite o.writer (t.metaBase + t.maskOff + maskPlace o * t.maskSize) (t.maskEntry m) o.poison 0]
    | none => [])) ++
  (if t.full then [] else (t.nodeBytes present msk).map fun n => wholeWrite nodeDie n.1 n.2 false 0)

/-- A write of the bits of one element. -/
def elemWrite (die : Nat) (place : Nat × Nat × Nat) (width bitsv : Nat) (poison : Bool) : OutWrite :=
  { die := die, addr := place.1, data := leBytes place.2.1 (bitsv * 2 ^ place.2.2),
    en := leBytes place.2.1 ((2 ^ width - 1) * 2 ^ place.2.2), poison := poison, blocks := 0 }

/-- The value an output assigns to element coordinates, where it assigns one. -/
def outValue (t : Tensor) (outs : List OutBlock) (x : List Nat) : Option Val :=
  match outs.find? (fun o => o.l = (t.blockOf x).1) with
  | some o => (o.vals.getD (t.blockOf x).2 none)
  | none => none

/-- The enabled bits of byte `i` of a write. -/
def OutWrite.mask (o : OutWrite) (i : Nat) : Byte := if o.data.length ≤ i then 0 else if o.en = [] then 0xFF else o.en.getD i 0

/-- Two pieces of one line that touch, as one write (see the log). -/
def OutWrite.join (a b : OutWrite) : OutWrite :=
  let k := b.addr - a.addr
  let n := max a.data.length (k + b.data.length)
  let second := fun (f : Nat → Byte) i => if k ≤ i then f (i - k) else 0
  let ma := a.mask
  let mb := second b.mask
  let en := (List.range n).map fun i => ma i ||| mb i
  { a with data := (List.range n).map fun i => (a.data.getD i 0 &&& ma i &&& ~~~(mb i)) ||| (second (fun j => b.data.getD j 0) i &&& mb i)
           en := if en.all (· == 0xFF) then [] else en
           blocks := a.blocks + b.blocks }

/-- The pieces that a die writes to a line one after the other, made as one write where they touch: how elements share a write is not
stated (log entry 29). -/
def gatherWrites : List OutWrite → List OutWrite
  | [] => []
  | a :: rest =>
    match gatherWrites rest with
    | [] => [a]
    | b :: l =>
      if a.die = b.die ∧ a.poison = b.poison ∧ a.addr ≤ b.addr ∧ b.addr ≤ a.addr + a.data.length ∧
          (b.addr + b.data.length - 1) / 64 = a.addr / 64 then a.join b :: l
      else a :: b :: l

/-- The coordinates of the scale group of a plain element (R42). -/
def Tensor.plainGroup (t : Tensor) (x : List Nat) : List (List Nat) :=
  let g := x.getD 0 0 / 32
  (List.range (min 32 (t.size.getD 0 0 - 32 * g))).map fun i => x.set 0 (32 * g + i)

/-- The first element of a group that the outputs assign, with the die that writes its block: that block writes the group's scale. -/
def groupLead (t : Tensor) (outs : List OutBlock) (group : List (List Nat)) : Option (List Nat × Nat) :=
  group.findSome? fun y => match outs.find? (fun o => o.l = (t.blockOf y).1) with
    | some o => (o.vals.getD (t.blockOf y).2 none).map fun _ => (y, o.writer)
    | none => none

/-- The writes of a plain tensor: the elements of each block within the size. A group of which any element is assigned is written
whole: its scale, and its other elements with the value `old` gives them, encoded anew for the new scale, by the die that writes the
first assigned element (R43, R47, R53; log entry 148). -/
def Tensor.plainWrites (t : Tensor) (old : Nat → List Nat → Val) (outs : List OutBlock) : List OutWrite :=
  outs.flatMap fun o =>
    let elems := t.elemsOf o.l
    let ws := elems.flatMap fun p =>
      match o.vals.getD p.1 none with
      | none => []
      | some val =>
        if t.mx then
          let ys := t.plainGroup p.2
          let lead := (groupLead t outs ys).getD (p.2, o.writer)
          let g := t.enc.encodeGroup (ys.map fun y => (outValue t outs y).getD (old lead.2 y))
          let put := fun y => elemWrite o.writer (t.plainPlace y) t.enc.width (g.2.getD (y.getD 0 0 % 32) 0) o.poison
          (if lead.1 = p.2 then
            wholeWrite o.writer (t.plainScale p.2) [BitVec.ofNat 8 g.1] o.poison 0 ::
              (ys.filter fun y => (outValue t outs y).isNone).map put else []) ++ [put p.2]
        else [elemWrite o.writer (t.plainPlace p.2) t.enc.width (t.enc.encode t.sat val) o.poison]
    match gatherWrites ws with
    | w :: rest => { w with blocks := if o.poison then 1 else 0 } :: rest
    | [] => []

/-- One write made by its die: bytes are merged with what memory holds where only some bits are enabled; clips count
(R60, R64, R218). -/
def State.applyWrite (s : State) (w : Window) (c : Counts) (o : OutWrite) : State × Counts :=
  if o.en = [] then s.taskWrite w o.die o.addr o.data o.poison c
  else
    let old := (s.taskBytes w o.die o.addr o.data.length).1
    let merged := List.zipWith (fun (x : Byte × Byte) (e : Byte) => (x.1 &&& ~~~e) ||| (x.2 &&& e)) (List.zip old o.data) o.en
    (piecesOf o.addr merged.length).foldl (fun acc p =>
      acc.1.taskWriteLine w o.die p.1 ((List.range p.2).map fun i => o.en.getD (p.1 - o.addr + i) 0 != 0)
        (slice merged (p.1 - o.addr) p.2) o.poison acc.2) (s, c)

end Sys2Proof.Machine
end

