-- ==== Sys2Proof/Machine/Clicker.lean ====
section
/-! DEFINITION. The clicker: match units (R85 to R90), the operands of products (R74 to R78, R91 to R93, R133, R455),
tiles, paths and dealing (R79 to R84, R452, R453), and the cycle terms of segments (R77, R113, R115, R116, R163). -/

namespace Sys2Proof.Machine

/-! ## The match unit -/

/-- The slot of key `x` in way `w` (R85). -/
def matchSlot (w x : Nat) : Nat :=
  let m := match w with
    | 0 => 0x9E3779B1
    | 1 => 0xB5A34C6B
    | 2 => 0xD1F02E95
    | _ => 0x7C159A43
  x * m % 2 ^ 32 / 2 ^ 22

/-- A match unit: the keys it holds with the way and slot each took. -/
abbrev MatchSet := List (Nat × Nat × Nat)

/-- An insert (R87): a key already present adds nothing; otherwise the lowest way whose slot is empty takes it; none
where all four are occupied. -/
def matchInsert (m : MatchSet) (x : Nat) : Option MatchSet :=
  if m.any (fun e => e.1 = x) then some m
  else match (List.range 4).find? (fun w => !(m.any fun e => e.2.1 = w ∧ e.2.2 = matchSlot w x)) with
    | some w => some (m ++ [(x, w, matchSlot w x)])
    | none => none

/-- The passes that inserting a key sequence takes: the keys of each (R89). -/
def matchPasses : List Nat → List (List Nat)
  | keys =>
    let r := keys.foldl (fun (acc : List (List Nat) × List Nat × MatchSet) x =>
      match matchInsert acc.2.2 x with
      | some m => (acc.1, acc.2.1 ++ [x], m)
      | none => (acc.1 ++ [acc.2.1], [x], (matchInsert [] x).getD [])) ([], [], [])
    if r.2.1 = [] then r.1 else r.1 ++ [r.2.1]

/-! ## Operands of products -/

/-- How a product reads an operand: its tensor as used, whether it is transposed, and whether its elements are reduced
to the 4-bit class as PREDICT does (R133). -/
structure ProdOpd where
  /-- The tensor with the sizes and block shape as used. -/
  t : Tensor
  /-- The stored tensor. -/
  stored : Tensor
  trans : Bool
  reduced : Bool
  scan : Scan
deriving DecidableEq, Repr

/-- An operand with TRANS applied: a plain one is used as the transpose of the whole tensor (R78), a blocked one with
each block transposed in place (R91). `full` reads a blocked operand as FULL, as SPMM reads B (R79). -/
def View.prodOpd (v : View) (t0 : Tensor) (trans reduced full : Bool) : ProdOpd :=
  let t := if full ∧ !t0.plain then { t0 with full := true } else t0
  let used := if trans ∧ t.plain then
      { t with size := swap01 t.size }
    else t
  { t := used, stored := t, trans := trans, reduced := reduced, scan := v.scan used }

/-- An operand's block as a product takes it: values in used order, the elements in groups with scale 0xFF, the elements taken,
whether it counts as masked, the reduction errors, poison, and the counter of R92 that reading it in a transposed role raises, if any. -/
structure ProdBlk where
  vals : List Val
  bad : List Bool
  taken : List Bool
  masked : Bool
  errs : List Val
  poison : Bool
  breaks : Option Nat
deriving DecidableEq, Repr

/-- Values reduced under R133, group by group in the given order of positions: the reduced values and the errors. -/
def reduceGroup (xs : List Val) : List (Val × Val) :=
  let g := Enc.e2m1.encodeGroup xs
  List.zipWith (fun x b =>
    let y := Enc.e2m1.decodeScaled g.1 b
    (y, (Val.add x y.neg).abs)) xs g.2

/-- Encodings that PREDICT uses as stored (R133). -/
def usedAsStored (t : Tensor) : Bool := t.enc = .int4 || t.enc = .e2m1 || t.enc = .tern2

/-- A plain element of a product operand: value, whether its group has scale 0xFF, reduction error and poison, at used coordinates. A
group that PREDICT reduces has that scale where it holds a NaN or an infinity (R43, R133). -/
def View.plainUsed (v : View) (p : ProdOpd) (x : List Nat) : Val × Bool × Val × Bool :=
  let y := if p.trans then swap01 x else x
  let r := v.plainElem p.stored y
  if p.reduced ∧ !usedAsStored p.stored then
    let g := y.getD 0 0 / 32
    let xs := (List.range (min 32 (p.stored.size.getD 0 0 - 32 * g))).map fun i => (v.plainElem p.stored (y.set 0 (32 * g + i))).1
    let q := (reduceGroup xs).getD (y.getD 0 0 % 32) (.zero, .zero)
    (q.1, q.1.isNan, q.2, r.2)
  else (r.1, v.plainBad p.stored y, .zero, r.2)

/-- A present block of a product operand as used (R74, R75, R78, R91, R92, R133). -/
def View.prodBlock (v : View) (p : ProdOpd) (b : BlockRef) : ProdBlk :=
  let t := p.t
  let n := t.h * t.w
  if t.plain then
    let es := (List.range n).map fun q =>
      let x := t.coords b.l q
      if t.within x then v.plainUsed p x else (.zero, false, .zero, false)
    { vals := es.map fun e => e.1, bad := es.map fun e => e.2.1, taken := List.replicate n true, masked := false,
      errs := es.map fun e => e.2.2.1, poison := es.any fun e => e.2.2.2, breaks := none }
  else
    let hs := if p.trans then t.w else t.h
    let ws := if p.trans then t.h else t.w
    let place := fun q => if p.trans then q % t.w * t.h + q / t.w else q
    let rd := if p.trans then v.transBlock t hs ws b else (v.block t hs ws b, none)
    let blk := rd.1
    let inside := fun q => t.within (t.coords b.l q)
    let stored := (List.range n).map fun k =>
      let q := if p.trans then k % ws * t.w + k / ws else k
      if inside q then blk.vals.getD k .zero else .zero
    let red : List (Val × Val) :=
      if p.reduced ∧ !usedAsStored t then
        let order := fun k => if t.axis then k % hs * ws + k / hs else k
        let inv := fun k => if t.axis then k % ws * hs + k / ws else k
        let gs := (List.range (ceilDiv n 32)).map fun g =>
          reduceGroup ((List.range (min 32 (n - 32 * g))).map fun i => stored.getD (order (32 * g + i)) .zero)
        (List.range n).map fun k => (gs.getD (inv k / 32) []).getD (inv k % 32) (.zero, .zero)
      else stored.map fun x => (x, .zero)
    let reduces := p.reduced && !usedAsStored t
    { vals := (List.range n).map fun q => (red.getD (place q) (.zero, .zero)).1,
      bad := (List.range n).map fun q =>
        if reduces then (red.getD (place q) (.zero, .zero)).1.isNan else inside q && blk.bad.getD (place q) false,
      taken := (match blk.mask with
        | some m => (List.range n).map fun q => m.getD (place q) false
        | none => List.replicate n true),
      masked := blk.mask.isSome,
      errs := (List.range n).map fun q => (red.getD (place q) (.zero, .zero)).2,
      poison := blk.poison, breaks := rd.2 }

/-- The index in an operand's batch dimensions that a batch of C reads: index 0 where the operand's size is 1, none
beyond a smaller size (R453). -/
def batchIndex (t : Tensor) (b : List Nat) : Option (List Nat) :=
  (List.range 4).foldr (fun d acc => match acc with
    | none => none
    | some rest =>
      let n := t.size.getD (d + 2) 1
      let i := b.getD d 0
      if n = 1 then some (0 :: rest) else if i < n then some (i :: rest) else none) (some [])

/-- The linear index of block (column i0, row i1) in the batch that C's batch `b` reads, within the grid. -/
def opdBlock (t : Tensor) (i0 i1 : Nat) (b : List Nat) : Option Nat :=
  match batchIndex t b with
  | none => none
  | some bi =>
    if i0 < t.grid.getD 0 0 ∧ i1 < t.grid.getD 1 0 then some (ravel t.grid ([i0, i1] ++ bi)) else none

/-! ## Tiles and dealing -/

/-- One tile of a product (R79): its batch and row, its columns, K_i, the present B blocks (k, j), the units in order,
and its path. -/
structure Tile where
  batch : List Nat
  row : Nat
  cols : List Nat
  keys : List Nat
  bs : List (Nat × Nat)
  units : List (Nat × Nat)
  dense : Bool
deriving DecidableEq, Repr

/-- A product as the clicker of every die sees it. -/
structure Product where
  a : ProdOpd
  b : ProdOpd
  /-- C in the output grid of R455. -/
  c : Tensor
  nbK : Nat
  kappa : Nat
  lanes : Nat
  intAcc : Bool
  cmpB : Bool
  /-- Output blocks admitted, by linear index of C's grid: none where M restricts nothing. -/
  admitted : Option (List Nat)
deriving DecidableEq, Repr

/-- Products the lanes complete per cycle in a rate class (R77). -/
def lanesOf (cls : Nat) : Nat :=
  match cls with
  | 0 => 128 | 1 => 64 | 2 => 32 | _ => 8

/-- The linear index of output block (row i, column j) of batch `b`. -/
def Product.block (p : Product) (b : List Nat) (i j : Nat) : Nat := ravel p.c.grid ([j, i] ++ b)

/-- M admits output block `l` (R79, R455). -/
def Product.admits (p : Product) (l : Nat) : Bool :=
  match p.admitted with
  | some ls => ls.contains l
  | none => true

/-- The batches of C in order (R453). -/
def Product.batches (p : Product) : List (List Nat) :=
  let ext := p.c.grid.drop 2
  (List.range (listProd ext)).map (unravel ext)

/-- The tile of one row and one run of columns (R79, R80, R82, R83). `theta` is the threshold, `sel` PATHSEL; a tile
with units only of the listed blocks serves the resole. -/
def Product.tile (p : Product) (theta sel : Nat) (batch : List Nat) (row : Nat) (cols : List Nat) : Tile :=
  let hasA := fun k => (match opdBlock p.a.t k row batch with
    | some l => (p.a.scan.find l).isSome
    | none => false)
  let hasB := fun k j => (match opdBlock p.b.t j k batch with
    | some l => (p.b.scan.find l).isSome
    | none => false)
  let ks := List.range p.nbK
  let keys := ks.filter hasA
  let bs := ks.flatMap fun k => (cols.filter fun j => hasB k j).map fun j => (k, j)
  let pairs := keys.flatMap fun k => (cols.filter fun j => hasB k j && p.admits (p.block batch row j)).map fun j => (k, j)
  let n := p.nbK * cols.length
  let dense := if sel = 1 then true else if sel = 2 then false else decide (theta * n ≤ 256 * pairs.length)
  { batch := batch, row := row, cols := cols, keys := keys, bs := bs,
    units := if dense then ks.flatMap fun k => cols.map fun j => (k, j) else pairs, dense := dense }

/-- The tiles of a product in order (R79, R453). -/
def Product.tiles (p : Product) (tw theta sel : Nat) : List Tile :=
  p.batches.flatMap fun b => (List.range (p.c.grid.getD 1 0)).flatMap fun i =>
    (chunks tw (p.c.grid.getD 0 0 + 1) (List.range (p.c.grid.getD 0 0))).map fun cols => p.tile theta sel b i cols

/-- Blocks dropped because their inner position lies at or beyond nbK, each counted once (R79, R81). -/
def Product.drops (p : Product) : Nat :=
  (p.a.scan.blocks.filter fun b => p.nbK ≤ (unravel p.a.t.grid b.l).getD 0 0).length +
    (p.b.scan.blocks.filter fun b => p.nbK ≤ (unravel p.b.t.grid b.l).getD 1 0).length

/-- The share that holds a global ordinal (R84 step 2). A unit heavier than 1 lies wholly in the share of its first
ordinal (R130: no slice is split; DEDUCED, log entry 22). -/
def shareOf (total shares ordinal : Nat) : Nat :=
  if total = 0 then 0 else min (shares - 1) (((ordinal + 1) * shares - 1) / total)

/-- Ordinal `ordinal` lies in share `s` of `shares`: (s × P) / S ≤ o < ((s + 1) × P) / S (R84 step 2). -/
def inShare (total shares s ordinal : Nat) : Bool := s * total / shares ≤ ordinal && ordinal < (s + 1) * total / shares

/-- A list of tiles' segments: tile by tile, the units that fall in each share (R84 steps 1 to 4). `dieOf` names the
die and engine of a share. -/
def dealTiles (shares : Nat) (dieOf : Nat → Nat × Nat) (tiles : List Tile) : List Segment :=
  let total := listSum (tiles.map fun t => t.units.length)
  let r := tiles.foldl (fun (acc : List Segment × Nat × Nat) t =>
    let n := t.units.length
    let lo := shareOf total shares acc.2.2
    let hi := shareOf total shares (acc.2.2 + n - 1)
    let segs := if n = 0 then [] else ((List.range (hi + 1 - lo)).map fun d => lo + d).filterMap fun s =>
      let us := ((List.range n).filter fun u => inShare total shares s (acc.2.2 + u)).map fun u => t.units.getD u (0, 0)
      if us = [] then none
      else some { die := (dieOf s).1, engine := (dieOf s).2, tile := acc.2.1, dense := t.dense,
                  units := us.map fun x => { a := x.1, b := x.2, c := 0, d := 0, weight := 1 } : Segment }
    (acc.1 ++ segs, acc.2.1 + 1, acc.2.2 + n)) ([], 0, 0)
  r.1

/-- Weighted work units of operations without tiles, dealt in order (R84, R452): one segment for each unit in a share
(R160). -/
def dealUnits (shares : Nat) (dieOf : Nat → Nat × Nat) (units : List WorkUnit) : List Segment :=
  let total := listSum (units.map fun u => u.weight)
  let r := units.foldl (fun (acc : List Segment × Nat × Nat) u =>
    let s := shareOf total shares acc.2.2
    (acc.1 ++ [{ die := (dieOf s).1, engine := (dieOf s).2, tile := acc.2.1, dense := true, units := [u] }],
      acc.2.1 + 1, acc.2.2 + u.weight)) ([], 0, 0)
  r.1

/-- The die and engine of a share among the active dies in rank order (R84 step 3). -/
def shareHome (active : List Nat) (s : Nat) : Nat × Nat := (active.getD (s / 40) 0, s % 40)

/-! ## Cycle terms -/

/-- The cycles and counts of a segment: lane cycles W, flushed rows R, the match-unit term λ, its passes, and the bank groups in which
its blocks' slots lie (R115, R161). -/
structure SegCost where
  w : Nat
  r : Nat
  nIns : Nat
  nLook : Nat
  passes : Nat
  groups : List Nat
deriving DecidableEq, Repr

/-- A segment that costs nothing. -/
def SegCost.zero : SegCost := { w := 0, r := 0, nIns := 0, nLook := 0, passes := 0, groups := [] }

/-- The A block and the B block of unit (k, j) of a tile. -/
def Product.pairBlocks (p : Product) (v : View) (t : Tile) (k j : Nat) : Option ProdBlk × Option ProdBlk :=
  let a := (opdBlock p.a.t k t.row t.batch).bind fun l => p.a.scan.find l
  let b := (opdBlock p.b.t j k t.batch).bind fun l => p.b.scan.find l
  (a.map fun x => v.prodBlock p.a x, b.map fun x => v.prodBlock p.b x)

/-- Positions of a block's elements taken at inner positions below κ: for A (rows × inner) and for B (inner × columns). -/
def takenA (p : Product) (a : ProdBlk) : List (Nat × Nat) :=
  ((List.range (p.a.t.h * p.a.t.w)).filter fun q => a.taken.getD q false && q % p.a.t.w < p.kappa).map fun q =>
    (q / p.a.t.w, q % p.a.t.w)

/-- Positions (inner, column) of B's elements taken. -/
def takenB (p : Product) (b : ProdBlk) : List (Nat × Nat) :=
  ((List.range (p.b.t.h * p.b.t.w)).filter fun q => b.taken.getD q false && q / p.b.t.w < p.kappa).map fun q =>
    (q / p.b.t.w, q % p.b.t.w)

/-- The bypassing-pair term (R77). -/
def Product.bypass (p : Product) : Nat := ceilDiv (p.a.t.h * p.kappa * p.b.t.w) p.lanes

/-- The rows of an output block. -/
def Product.rows (p : Product) : Nat := ceilDiv (p.a.t.h * p.b.t.w) 16

/-- One pair on its path: lane cycles and the rows it touches (R77, R113). -/
def Product.pairCost (p : Product) (dense : Bool) (ab : Option ProdBlk × Option ProdBlk) : Nat × List Nat :=
  match ab with
  | (some a, some b) =>
    if dense ∨ (!a.masked && !b.masked) then (p.bypass, List.range p.rows)
    else if p.cmpB then
      let z := takenB p b
      (max 2 (ceilDiv (z.length * p.a.t.h) p.lanes),
        dedup (z.flatMap fun kc => (List.range p.a.t.h).map fun r => (r * p.b.t.w + kc.2) / 16))
    else
      let z := takenA p a
      (max 2 (ceilDiv (z.length * p.b.t.w) p.lanes),
        dedup (z.flatMap fun rk => (List.range p.b.t.w).map fun c => (rk.1 * p.b.t.w + c) / 16))
  | _ => (p.bypass, List.range p.rows)

/-- The rows a segment flushes, by column (R112, R113). -/
def Product.segRows (p : Product) (v : View) (t : Tile) (sg : Segment) : List (Nat × List Nat) :=
  let cols := dedup (sg.units.map fun u => u.b)
  (cols.map fun j =>
    (j, dedup ((sg.units.filter fun u => u.b = j).flatMap fun u => (p.pairCost t.dense (p.pairBlocks v t u.a j)).2)))

/-- The partner blocks that a segment streams in passes of the given keys (R84 step 4, R88, R89): B's present blocks in the inner range
of each pass, hits and misses alike; at the first and the last inner position of a part tile, only those of its own units. -/
def Tile.streamed (t : Tile) (sg : Segment) (passes : List (List Nat)) : Nat :=
  let whole := decide (sg.units.length = t.units.length)
  let lo := ((sg.units.map fun u => u.a).head?).getD 0
  let hi := ((sg.units.map fun u => u.a).getLast?).getD 0
  let own := fun (b : Nat × Nat) => whole || (lo < b.1 && b.1 < hi) || sg.units.any fun u => u.a = b.1 ∧ u.b = b.2
  listSum (passes.map fun ps =>
    (t.bs.filter fun b => (ps.head?).getD 0 ≤ b.1 && b.1 ≤ (ps.getLast?).getD 0 && own b).length)

/-- The cost of a segment (R77, R88, R89, R113): it inserts the keys of K_i within its inner range and streams the partner blocks. -/
def Product.segCost (p : Product) (v : View) (t : Tile) (sg : Segment) : SegCost :=
  let w := listSum (sg.units.map fun u => (p.pairCost t.dense (p.pairBlocks v t u.a u.b)).1)
  let r := listSum ((p.segRows v t sg).map fun x => x.2.length)
  if t.dense then { SegCost.zero with w := w, r := r }
  else
    let lo := ((sg.units.map fun u => u.a).head?).getD 0
    let hi := ((sg.units.map fun u => u.a).getLast?).getD 0
    let keys := if sg.units.length = t.units.length then t.keys else t.keys.filter fun k => lo ≤ k && k ≤ hi
    let passes := matchPasses keys
    { w := w, r := r, nIns := keys.length, nLook := t.streamed sg passes, passes := passes.length, groups := [] }

/-- σ_s (R115). -/
def flushStall (ng r : Nat) : Nat := 16 + ceilDiv ((ng - 16) * r) 16

/-- T_e over an engine's segments, given as (W, F) with F = R + σ (R116). -/
def accTime (segs : List (Nat × Nat)) : Nat :=
  let r := segs.foldl (fun (acc : Nat × Nat) x => (acc.1 + max x.1 acc.2, x.2)) (0, 0)
  r.1 + r.2

/-- λ_s of a sparse segment (R163). -/
def SegCost.lambda (c : SegCost) (dense : Bool) : Nat :=
  if dense then 0 else ceilDiv c.nIns 4 + 7 * c.passes + (ceilDiv c.nLook 4 - c.w)

/-- c_s of the resole (R143). -/
def SegCost.resole (c : SegCost) : Nat := ceilDiv c.nIns 4 + ceilDiv c.nLook 4 + 7 * c.passes

/-- n_g of a segment on its die (R115, R161): the largest, over the bank groups its blocks' slots occupy, of the number of engines that
write a slot of that group in the phase. -/
def groupWriters (segs : List (Segment × SegCost)) (groups : List Nat) : Nat :=
  listMax (groups.map fun g => (dedup ((segs.filter fun x => x.2.groups.contains g).map fun x => x.1.engine)).length)

/-- T_e of an engine's segments among a die's (R115, R116). -/
def engineTime (segs mine : List (Segment × SegCost)) : Nat :=
  accTime (mine.map fun x => (x.2.w, x.2.r + flushStall (groupWriters segs x.2.groups) x.2.r))

/-- The longest engine of a die: T_e plus a term for each segment (R143, R163). -/
def dieLength (segs : List (Segment × SegCost)) (term : Segment × SegCost → Nat) : Nat :=
  listMax ((List.range 40).map fun e =>
    let mine := segs.filter fun x => x.1.engine = e
    if mine = [] then 0 else engineTime segs mine + listSum (mine.map term))

end Sys2Proof.Machine
end

