-- ==== Sys2Proof/Machine/Partials.lean ====
section
/-! DEFINITION. What engines compute: lane accumulation (R108, R109), the products of block pairs (R73 to R76), the
partial blocks of segments (R110, R112), the write of a complete block (R111), and the row updates of a flush (R112). -/

namespace Sys2Proof.Machine

/-! ## Lanes -/

/-- The exact integer a value denotes (0 for a value that is no integer). -/
def valInt : Val → Int
  | .fin neg m e => Val.toInt neg m e
  | _ => 0

/-- A lane's bits as a value (R108). -/
def laneVal (int : Bool) (b : U32) : Val := if int then .ofInt (toSigned 32 b.toNat) else f32 b.toNat

/-- An integer reduced to 32 bits, and 1 where it leaves the range (R109). -/
def wrapInt (i : Int) : U32 × Nat :=
  (BitVec.ofNat 32 (ofSigned 32 i), if i < -2147483648 ∨ 2147483647 < i then 1 else 0)

/-- A value added into a lane, exactly and with one rounding, or modulo 2^32 (R108, R109): the lane and the additions
that wrapped. The first value is no addition and counts none, whatever its size (log entry 149). -/
def laneTake (int : Bool) (run : Option U32) (x : Val) : Option U32 × Nat :=
  match run with
  | none => if int then (some (wrapInt (valInt x)).1, 0) else (some (toF32 x), 0)
  | some r =>
    if int then let q := wrapInt (toSigned 32 r.toNat + valInt x); (some q.1, q.2)
    else (some (toF32 (Val.add (f32 r.toNat) x)), 0)

/-- How a row combines one lane with an update's lane (R108, R109, R128): the lane and the additions that wrapped. -/
def laneCombine (mode : AccMode) (a b : Option U32) : Option U32 × Nat :=
  match a, b with
  | x, none => (x, 0)
  | none, some y => (some y, 0)
  | some x, some y =>
    match mode with
    | .addF32 => (some (f32Add x y), 0)
    | .addI32 => let q := wrapInt (toSigned 32 x.toNat + toSigned 32 y.toNat); (some q.1, q.2)
    | .maxF32 => (some (toF32 (Val.max (f32 x.toNat) (f32 y.toNat))), 0)
    | .minF32 => (some (toF32 (Val.min (f32 x.toNat) (f32 y.toNat))), 0)
    | .maxI32 => (some (if toSigned 32 x.toNat < toSigned 32 y.toNat then y else x), 0)
    | .minI32 => (some (if toSigned 32 y.toNat < toSigned 32 x.toNat then y else x), 0)
    | .lastWriter => (some y, 0)

/-- Lanes with their positions combined with another such list: the larger position wins each lane in last-writer mode
(R126); in every other mode positions play no part. The lanes, the positions and the additions that wrapped. -/
def lanesCombine (mode : AccMode) (a b : List (Option U32)) (pa pb : List Nat) : List (Option U32) × List Nat × Nat :=
  if mode = .lastWriter then
    let r := (List.range a.length).map fun i =>
      match a.getD i none, b.getD i none with
      | x, none => (x, pa.getD i 0)
      | none, y => (y, pb.getD i 0)
      | x, y => if pa.getD i 0 < pb.getD i 0 then (y, pb.getD i 0) else (x, pa.getD i 0)
    (r.map fun x => x.1, r.map fun x => x.2, 0)
  else
    let r := List.zipWith (laneCombine mode) a b
    (r.map fun x => x.1, [], listSum (r.map fun x => x.2))

/-- A partial output block: its index, its lanes, its poison marker, its lanes' positions (R126), and in PREDICT the sum of its pairs'
bounds (R135). -/
structure Partial where
  l : Nat
  lanes : List (Option U32)
  poison : Bool
  pos : List Nat
  bound : Option U32
deriving DecidableEq, Repr

/-- A partial of block `l` of `n` elements that has received nothing. -/
def Partial.empty (l n : Nat) : Partial := { l := l, lanes := List.replicate n none, poison := false, pos := [], bound := none }

/-- Two partials of one block combined, and the additions that wrapped. -/
def Partial.merge (mode : AccMode) (p q : Partial) : Partial × Nat :=
  let r := lanesCombine mode p.lanes q.lanes p.pos q.pos
  ({ p with lanes := r.1, poison := p.poison || q.poison, pos := r.2.1, bound := (laneCombine .addF32 p.bound q.bound).1 }, r.2.2)

/-! ## Products of pairs -/

/-- An element product (R73): exact; a NaN where either operand lies in a group with scale 0xFF, as `badA` and `badB` say; zero for a
TERN2 zero otherwise. -/
def elemProduct (ta tb : Tensor) (badA badB : Bool) (a b : Val) : Val :=
  if badA || badB then .nan
  else if (ta.enc = .tern2 ∧ a.isZero) ∨ (tb.enc = .tern2 ∧ b.isZero) then .zero
  else Val.mul a b

/-- The products that a pair contributes to output element (r, c), in increasing inner position (R74, R75, R110). -/
def Product.terms (p : Product) (dense : Bool) (a b : ProdBlk) (r c : Nat) : List Val :=
  let wa := p.a.t.w
  let wb := p.b.t.w
  (List.range p.kappa).filterMap fun k =>
    let qa := r * wa + k
    let qb := k * wb + c
    let x := a.vals.getD qa .zero
    let y := b.vals.getD qb .zero
    let m := elemProduct p.a.t p.b.t (a.bad.getD qa false) (b.bad.getD qb false) x y
    if dense ∨ (!a.masked && !b.masked) then some m
    else if p.cmpB then
      if b.taken.getD qb false then some (if a.taken.getD qa false then m else .zero) else none
    else if a.taken.getD qa false then some (if b.taken.getD qb false then m else .zero)
    else none

/-- The sum of a pair at every output element, one rounding for each addition (R110 step 1), and the wraps. -/
def Product.pairSum (p : Product) (dense : Bool) (a b : ProdBlk) : List (Option U32) × Nat :=
  let r := (List.range (p.a.t.h * p.b.t.w)).map fun q =>
    (p.terms dense a b (q / p.b.t.w) (q % p.b.t.w)).foldl
      (fun (acc : Option U32 × Nat) x => let y := laneTake p.intAcc acc.1 x; (y.1, acc.2 + y.2)) (none, 0)
  (r.map fun x => x.1, listSum (r.map fun x => x.2))

/-- A block of zeros, as an absent block enters on the dense path (R75). -/
def zeroBlk (t : Tensor) : ProdBlk :=
  { vals := List.replicate (t.h * t.w) .zero, bad := List.replicate (t.h * t.w) false, taken := List.replicate (t.h * t.w) true, masked := false,
    errs := List.replicate (t.h * t.w) .zero, poison := false, breaks := none }

/-- The accumulation mode of a product. -/
def Product.mode (p : Product) : AccMode := if p.intAcc then .addI32 else .addF32

/-- The bound e_p of a pair (R135): rounded once to FP32. -/
def Product.pairBound (p : Product) (a b : ProdBlk) : Val :=
  let big := fun (bl : ProdBlk) (xs : List Val) =>
    (List.zip bl.taken xs).foldl (fun m x => if x.1 then Val.max m x.2.abs else m) .zero
  let va := big a a.vals
  let vb := big b b.vals
  let da := big a a.errs
  let db := big b b.errs
  (Val.mul (.ofInt p.kappa) (Val.add (Val.add (Val.mul va db) (Val.mul vb da)) (Val.mul da db))).toF32

/-- The partial blocks of a segment, in increasing column (R110 step 2, R112), with the sums of their pairs' bounds in PREDICT (R135),
and the wraps. Columns that M does not admit give none. -/
def Product.segPartials (p : Product) (v : View) (t : Tile) (sg : Segment) : List Partial × Nat :=
  let cols := (dedup (sg.units.map fun u => u.b)).filter fun j => p.admits (p.block t.batch t.row j)
  let cols := sortBy (fun x y => decide (x ≤ y)) cols
  let r := cols.map fun j =>
    (sg.units.filter fun u => u.b = j).foldl (fun (acc : Partial × Nat) u =>
      let ab := p.pairBlocks v t u.a j
      let a := ab.1.getD (zeroBlk p.a.t)
      let b := ab.2.getD (zeroBlk p.b.t)
      let s := p.pairSum t.dense a b
      let m := acc.1.merge p.mode { l := acc.1.l, lanes := s.1, poison := a.poison || b.poison, pos := [],
                                    bound := if p.a.reduced then (laneTake false none (p.pairBound a b)).1 else none }
      (m.1, acc.2 + s.2 + m.2))
      (Partial.empty (p.block t.batch t.row j) (p.a.t.h * p.b.t.w), 0)
  (r.map fun x => x.1, listSum (r.map fun x => x.2))

/-! ## The write of a complete block -/

/-- The scales and modes of the write of R111, with the range of C's encoding on the integer path. -/
structure Finish where
  alpha : Val
  beta : Val
  accum : Bool
  intPath : Bool
  lo : Int
  hi : Int
deriving DecidableEq, Repr

/-- The write rule of an operation: the integer path needs an INT32 accumulator, an integer C, α of 1.0 and, under
ACCUM, β of 1.0 (R111). -/
def finishOf (o : OpDesc) (intAcc : Bool) (c : Tensor) : Finish :=
  let one := Val.ofInt 1
  let al := f32 o.alpha
  let be := f32 o.beta
  { alpha := al, beta := be, accum := o.accum,
    intPath := intAcc && c.enc.isInt && Val.eqv al one && (!o.accum || Val.eqv be one),
    lo := c.enc.intRange.1, hi := c.enc.intRange.2 }

/-- A value saturated to an integer range (R38). -/
def clampVal (lo hi : Int) (x : Val) : Val :=
  if Val.lt x (.ofInt lo) then .ofInt lo else if Val.lt (.ofInt hi) x then .ofInt hi else x

/-- The result of one element before conversion (R111): exact and saturated on the integer path, whether or not C is microscaled. -/
def Finish.value (f : Finish) (acc old : Val) : Val :=
  if f.intPath then clampVal f.lo f.hi (if f.accum then Val.add acc old else acc)
  else
    let r1 := (Val.mul f.alpha acc).toF32
    if f.accum then (Val.add r1 (Val.mul f.beta old).toF32).toF32 else r1

/-- The mask a block of C carries when the operation writes none of its own: in a FULL tensor with MASKED every block
has one, and a TERN2 block that holds zeros can be stored in no other way (R35, R55; DESIGN CHOICE, log entry 23). -/
def defaultMask (c : Tensor) (vals : List Val) : Option (List Bool) :=
  if c.plain ∨ !c.masked then none
  else if c.enc = .tern2 then
    let m := vals.map fun x => decide (encodeTern x ≠ 0)
    if c.full ∨ m.any (fun b => !b) then some m else none
  else if c.full then some (vals.map fun _ => true)
  else none

/-- An output block of values with the default mask; elements beyond the size are zero (R47). -/
def outBlock (c : Tensor) (writer l : Nat) (poison : Bool) (val : Nat → List Nat → Val) : OutBlock :=
  let vals := (List.range (c.h * c.w)).map fun q =>
    let x := c.coords l q
    if c.within x then val q x else .zero
  { l := l, writer := writer, vals := vals.map some, mask := defaultMask c vals, poison := poison }

/-! ## Flushes -/

/-- The physical accumulator row key of row `r` of slot offset `off` in the task's window; none where the slot lies
beyond the window's bound (R105, R195). -/
def accRowKey (w : Window) (die off r : Nat) : Option Nat :=
  if w.accBound ≤ off ∨ 4096 ≤ w.accBase + off then none else some ((die * 4096 + (w.accBase + off)) * 64 + r)

/-- The slot offset of a block on a die, in the main phase or as a resole entry (R141, R161). -/
def slotOf (slots : List SlotAsg) (res : Bool) (die l : Nat) : Nat :=
  match slots.find? (fun a => a.die = die ∧ a.blk = l ∧ a.res = res) with
  | some a => a.slot
  | none => 4096

/-- The positions of row `r`'s lanes. -/
def slicePos (pos : List Nat) (r : Nat) : List Nat := (pos.drop (16 * r)).take 16

/-- The row updates that flush a segment's partials: the touched rows of each block, starting at row e mod 16, or
e mod 4 for a block of 64 elements (R112 steps 3 and 4). A partial's bound travels with its first row (R135). -/
def flushRows (w : Window) (slots : List SlotAsg) (res : Bool) (die eng : Nat) (mode : AccMode) (ps : List Partial) : List AccReq :=
  ps.flatMap fun p =>
    let n := ceilDiv p.lanes.length 16
    let start := if n = 4 then eng % 4 else eng % 16
    let rows := ((List.range n).map fun i => (start + i) % n).filterMap fun r =>
      let lanes := (List.range 16).map fun i => p.lanes.getD (16 * r + i) none
      if lanes.all (fun x => x.isNone) then none
      else some { requester := eng, row := accRowKey w die (slotOf slots res die p.l) r, vals := lanes, mode := mode,
                  poison := p.poison, pos := slicePos p.pos r, bound := none : AccReq }
    match rows with
    | [] => []
    | r :: rest => { r with bound := p.bound } :: rest

/-- A block's partial as a die's accumulator holds it: a clipped slot reads as zeros, and so does an invalid one
(R105, R106). -/
def State.accBlock (s : State) (w : Window) (slots : List SlotAsg) (res : Bool) (die l n : Nat) : Partial :=
  let off := slotOf slots res die l
  let rows := (List.range (ceilDiv n 16)).map fun r =>
    match accRowKey w die off r with
    | some k => if s.arr.valid.get (k / 64) false then s.arr.acc.get k AccRow.zero else AccRow.zero
    | none => AccRow.zero
  { l := l, lanes := (rows.flatMap fun r => r.vals).take n, poison := rows.any fun r => majority r.flag,
    pos := (rows.flatMap fun r => (List.range 16).map fun i => r.pos.getD i 0).take n,
    bound := match accRowKey w die off 0 with
      | some k => s.arr.bounds.get (k / 64) none
      | none => none }

end Sys2Proof.Machine
end

