-- ==== Sys2Proof/Machine/ByElement.lean ====
section
/-! DEFINITION. The operations that form C from elements at its own coordinates: ELTWISE (R99, R100), FORMAT-CONVERT
(R94, R101), TRANSPOSE-COPY (R63 to R65), GATHER (R122 to R125) and SOFTMAX (R129, R130). -/

namespace Sys2Proof.Machine

/-- An operation as a die sees it: the state its operands are read in, its descriptor, its task's windows, the active dies in rank
order, the die through whose translation its clicker plans (R84, R451), the planning objects as read when planning started, the
metadata each die has fetched (R61), and its tensors as that die reads their descriptors. -/
structure OpEnv where
  s : State
  o : OpDesc
  w : Window
  active : List Nat
  eye : Nat
  knobs : Knobs
  snaps : SMap (SMap Byte)
  a : Tensor
  b : Tensor
  c : Tensor
  m : Tensor
  x : Tensor

/-- What die `d` sees. -/
def OpEnv.view (e : OpEnv) (d : Nat) : View := { s := e.s, w := e.w, die := d, snap := SMap.get e.snaps d [] }

/-- What the planning die sees. -/
def OpEnv.own (e : OpEnv) : View := e.view e.eye

/-- The die ranked 0. -/
def OpEnv.die0 (e : OpEnv) : Nat := e.active.headD 0

/-- The number of active dies. -/
def OpEnv.count (e : OpEnv) : Nat := e.active.length

/-- The die that R451 names for block `l` of C. -/
def OpEnv.byPosition (e : OpEnv) (l : Nat) : Nat := e.active.getD (l % e.count) 0

/-- The shares of the array (R84). -/
def OpEnv.shares (e : OpEnv) : Nat := 40 * e.count

/-- The die of a share. -/
def OpEnv.shareDie (e : OpEnv) (s : Nat) : Nat × Nat := shareHome e.active s

/-- The die whose share holds unit `i` of a list of weighted units; none beyond the list. -/
def OpEnv.unitDie (e : OpEnv) (units : List WorkUnit) (i : Nat) : Option Nat :=
  if i < units.length then
    some (e.shareDie (shareOf (listSum (units.map fun u => u.weight)) e.shares
      (listSum ((units.take i).map fun u => u.weight)))).1
  else none

/-- A unit of weight 1 named by a number. -/
def unitOf (a : Nat) : WorkUnit := { a := a, b := 0, c := 0, d := 0, weight := 1 }

/-- Old C at coordinates (R111): an absent block or a masked-off element reads as zero. -/
def oldElem (v : View) (c : Loaded) (x : List Nat) : Val × Bool :=
  let e := v.elemAt c x
  (e.val, e.poison)

/-- The present blocks of C that a blocked C with FULL clear held before; none for other layouts. -/
def OpEnv.oldPresent (e : OpEnv) : List Nat :=
  if e.c.plain ∨ e.c.full then [] else (e.own.scan e.c).blocks.map fun b => b.l

/-! ## ELTWISE -/

/-- FP32 subtraction. -/
def f32Sub (x y : Val) : Val := (Val.add x y.neg).toF32

/-- table(x) of R100 over its entries. -/
def tableOf (entries : List Val) (lo hi x : Val) : Val :=
  let n := entries.length
  let at0 := entries.getD 0 .zero
  if n = 0 then .zero
  else if x.isNan then .nan
  else if n = 1 ∨ !lo.isFinite ∨ !hi.isFinite ∨ !(Val.lt lo hi) then at0
  else
    let d := f32Sub hi lo
    if !d.isFinite then at0
    else
      let xc := if Val.lt x lo then lo else if Val.lt hi x then hi else x
      let u := (Val.mul (Val.div (f32Sub xc lo) d).toF32 (Val.ofInt (n - 1 : Nat)).toF32).toF32
      match u with
      | .fin _ m ex =>
        let i := min (n - 1) (if 0 ≤ ex then m * 2 ^ ex.toNat else m / 2 ^ (-ex).toNat)
        if i = n - 1 then entries.getD (n - 1) .zero
        else
          let f := f32Sub u (.ofInt i)
          let ti := entries.getD i .zero
          (Val.add ti (Val.mul f (f32Sub (entries.getD (i + 1) .zero) ti)).toF32).toF32
      | _ => at0

/-- FUNC, others read as 4 (R99). -/
def OpEnv.func (e : OpEnv) : Nat := if field e.o.params 0 1 ≤ 5 then field e.o.params 0 1 else 4

/-- The blocks that a blocked C with FULL clear holds after ELTWISE (R99). -/
def OpEnv.eltPresent (e : OpEnv) : List Nat :=
  let v := e.own
  let present := fun (t : Tensor) => let p := (v.scan t).blocks.map (fun b => b.l); fun l => overlaps e.c l t p
  let inA := present e.a
  let inB := present e.b
  let inM := present e.m
  let old := e.oldPresent
  (List.range e.c.nb).filter fun l =>
    if e.m.supplied then inM l
    else (match e.func with
      | 0 => inA l || inB l
      | 1 => inA l && inB l
      | 2 => inA l || inB l
      | 3 => inA l || inB l
      | _ => inA l) || (e.o.accum && old.contains l)

/-- The work units of ELTWISE (R452): blocks of C. -/
def OpEnv.eltUnits (e : OpEnv) : List WorkUnit :=
  (if e.c.plain ∨ e.c.full then List.range e.c.nb else e.eltPresent).map unitOf

/-- The table entries, each rounded to FP32, and whether any was read from a poisoned line (R100). -/
def tableEntries (v : View) (x : Tensor) : List Val × Bool :=
  let ld := v.load x
  let es := (List.range (x.size.getD 0 0)).map fun i => v.elemAt ld [i, 0, 0, 0, 0, 0]
  (es.map fun e => e.val.toF32, es.any fun e => e.poison)

/-- One block of ELTWISE (R99, R111). -/
def OpEnv.eltBlock (e : OpEnv) (die l : Nat) : OutBlock :=
  let v := e.view die
  let la := v.load e.a
  let lb := v.load e.b
  let lm := v.load e.m
  let lc := v.load e.c
  let tb := tableEntries v e.x
  let fin := finishOf e.o false e.c
  let lo := f32 (field e.o.params 4 4)
  let hi := f32 (field e.o.params 8 4)
  let within := e.c.elemsOf l
  let cells := within.map fun p =>
    let adm := !e.m.supplied || (v.elemAt lm p.2).admitted
    let ea := v.elemAt la p.2
    let eb := v.elemAt lb p.2
    let xa := ea.val.toF32
    let xb := eb.val.toF32
    let r := match e.func with
      | 0 => (Val.add xa xb).toF32
      | 1 => (Val.mul xa xb).toF32
      | 2 => Val.max xa xb
      | 3 => Val.min xa xb
      | 5 => tableOf tb.1 lo hi xa
      | _ => xa
    let old := oldElem v lc p.2
    let usesB := e.func ≤ 3
    (p.1, (if adm then fin.value r old.1 else .zero), adm,
      adm && (ea.poison || (usesB && eb.poison) || (e.func == 5 && tb.2) || (e.o.accum && old.2)))
  let vals := (List.range (e.c.h * e.c.w)).map fun q =>
    match cells.find? (fun c => c.1 = q) with
    | some c => c.2.1
    | none => .zero
  let mask := if e.m.supplied ∧ e.c.masked ∧ !e.c.plain then
      some (e.c.trimMask vals ((List.range (e.c.h * e.c.w)).map fun q => match cells.find? (fun c => c.1 = q) with
        | some c => c.2.2.1
        | none => false))
    else defaultMask e.c vals
  { l := l, writer := die, vals := vals.map some, mask := mask, poison := cells.any fun c => c.2.2.2 }

/-- The blocks that ELTWISE writes. -/
def OpEnv.eltOut (e : OpEnv) : List OutBlock :=
  let us := e.eltUnits
  (List.range us.length).filterMap fun i => (e.unitDie us i).map fun d => e.eltBlock d ((us.getD i (unitOf 0)).a)

/-! ## FORMAT-CONVERT -/

/-- Blocks of an operand's grid that are dealt: every block of a plain or FULL tensor, the present ones otherwise (R452). -/
def OpEnv.blockUnits (e : OpEnv) (t : Tensor) : List WorkUnit :=
  (e.own.scan t).blocks.map fun b => unitOf b.l

/-- The die that writes block `l` of C from A: the die of the first unit of A that overlaps it, else by position (R451). -/
def OpEnv.convWriter (e : OpEnv) (units : List WorkUnit) (l : Nat) : Nat :=
  let hit := (e.c.elemsOf l).findSome? fun p =>
    if e.a.within p.2 then
      let k := placeOf (e.a.blockOf p.2).1 (units.map fun u => u.a)
      e.unitDie units k
    else none
  hit.getD (e.byPosition l)

/-- Conversion to blocked layout with pruning (R101): the kept blocks. Elements beyond the size are zeros of their block (R47). -/
def OpEnv.toBlockedOut (e : OpEnv) : List OutBlock :=
  let units := e.blockUnits e.a
  let thr := f32 (field e.o.params 4 4)
  let maskMin := field e.o.params 1 1
  (List.range e.c.nb).filterMap fun l =>
    let d := e.convWriter units l
    let v := e.view d
    let la := v.load e.a
    let els := (e.c.elemsOf l).map fun p =>
      let x := v.elemAt la p.2
      (p.1, (if Val.lt x.val.abs thr then Val.fin x.val.isNeg 0 0 else x.val), x.poison)
    let get := fun q => match els.find? (fun c => c.1 = q) with
      | some c => c.2.1
      | none => .zero
    let vals := (List.range (e.c.h * e.c.w)).map get
    let poison := els.any fun c => c.2.2
    let zeros := (vals.filter Val.isZero).length
    if (els.all fun c => c.2.1.isZero) ∧ !poison ∧ !e.c.full then none
    else
      let wants := e.c.masked ∧ maskMin ≠ 0 ∧ maskMin ≤ zeros
      some { l := l, writer := d, vals := vals.map some,
             mask := if wants then some (e.c.trimMask vals (vals.map fun x => !x.isZero)) else defaultMask e.c vals, poison := poison }

/-- Conversion to plain layout (R101): absent blocks as zeros. -/
def OpEnv.toPlainOut (e : OpEnv) : List OutBlock :=
  let units := e.blockUnits e.a
  (List.range e.c.nb).map fun l =>
    let d := e.convWriter units l
    let v := e.view d
    let la := v.load e.a
    outBlock e.c d l ((e.c.elemsOf l).any fun p => (v.elemAt la p.2).poison) fun _ x => (v.elemAt la x).val

/-- The blocks of A and the blocks of C they become under a block transpose, and how many fall outside C's grid (R94). -/
def OpEnv.transPairs (e : OpEnv) : List (BlockRef × Nat) × Nat :=
  let bs := (e.own.scan e.a).blocks
  let r := bs.map fun b =>
    let i := unravel e.a.grid b.l
    let j := (i.set 0 (i.getD 1 0)).set 1 (i.getD 0 0)
    (b, if (List.range 6).all (fun d => j.getD d 0 < e.c.grid.getD d 0) then some (ravel e.c.grid j) else none)
  (sortBy (fun x y => decide (x.2 ≤ y.2)) (r.filterMap fun x => x.2.map fun l => (x.1, l)), (r.filter fun x => x.2.isNone).length)

/-- A copy of `n` bytes from one task address to another by a die, line by line with each line's marker (R406). -/
def copyWrites (v : View) (src dst n : Nat) (force : Bool) : List OutWrite :=
  (piecesOf src n).map fun p =>
    let r := v.read p.1 p.2
    wholeWrite v.die (dst + (p.1 - src)) r.1 (r.2 || force) 0

/-- The writes of a block transpose: records and masks copied whole with their markers, node arrays by the die ranked
0 (R94, R406). -/
def OpEnv.transWrites (e : OpEnv) (metaPoison : Bool) : List OutWrite :=
  let units := e.blockUnits e.a
  let pairs := e.transPairs.1
  let present := pairs.map fun p => p.2
  let msk := (pairs.filter fun p => p.1.mask.isSome && e.c.masked).map fun p => p.2
  let place := fun (ls : List Nat) l => if e.c.full then l else (ls.filter fun i => i < l).length
  pairs.flatMap (fun p =>
    let d := (e.unitDie units (placeOf p.1.l (units.map fun u => u.a))).getD e.die0
    let v := e.view d
    copyWrites v p.1.addr (e.c.base + place present p.2 * e.c.recSize) e.a.recSize metaPoison ++
      (match p.1.mask with
      | some ma => if e.c.masked then
          copyWrites v ma (e.c.metaBase + e.c.maskOff + place msk p.2 * e.c.maskSize) e.a.maskSize metaPoison else []
      | none => [])) ++
  (if e.c.full then [] else (e.c.nodeBytes present msk).map fun n => wholeWrite e.die0 n.1 n.2 false 0)

/-! ## TRANSPOSE-COPY -/

/-- perm[d] (R71): an entry of 6 or more reads as d. -/
def OpEnv.perm (e : OpEnv) : List Nat :=
  (List.range 6).map fun d => let p := field e.o.params 0 3 / 2 ^ (4 * d) % 16; if p < 6 then p else d

/-- One iteration of the loop of R64 on the state as earlier iterations left it: a load and a store of one element's
bits, with the marker of the line read, each access counted under R218. -/
def OpEnv.transStep (e : OpEnv) (acc : State × Counts) (j : Nat) : State × Counts :=
  let idx := unravel e.c.size j
  let sidx := (List.range 6).foldl (fun (x : List Nat) d => x.set (e.perm.getD d d) (idx.getD d 0)) (List.replicate 6 0)
  let d := e.die0
  let sp := e.a.plainPlace sidx
  let dt := { e.c with enc := e.a.enc }
  let dp := dt.plainPlace idx
  let rd := acc.1.taskBytes e.w d sp.1 sp.2.1
  let cnt := acc.1.countTaskReads e.w d acc.2 [(sp.1, sp.2.1)]
  let bitsv := bitsAt rd.1 sp.2.2 e.a.enc.width
  cnt.1.applyWrite e.w cnt.2 (elemWrite d dp e.a.enc.width (if e.a.supplied then bitsv else 0) rd.2)

/-- TRANSPOSE-COPY's memory effect, in increasing destination order (R64). -/
def OpEnv.transCopy (e : OpEnv) (s : State) (c : Counts) : State × Counts :=
  (List.range (listProd e.c.size)).foldl e.transStep (s, c)

/-- T of R65. -/
def OpEnv.transTime (e : OpEnv) : Nat :=
  let n := listProd e.c.size
  let g := if e.perm.getD 0 0 = 0 then e.c.size.getD 0 0 else 1
  640 + ceilDiv (ceilDiv n (max g 1) * ceilDiv (g * e.a.enc.width) 256) 4

/-! ## GATHER -/

/-- The indices that a position list takes: the stored index of each position below X's element count (R122). -/
def indexAt (v : View) (lx : Loaded) (j : Nat) : Option (Int × Bool) :=
  if j < listProd lx.t.size then
    let e := v.elemAt lx (unravel lx.t.size j)
    some (valInt e.val, e.poison)
  else none

/-- An index resolved (R123): wrap mode adds the extent to a negative one; none where it is then out of range. -/
def resolveIndex (wrap : Bool) (extent : Nat) (i : Int) : Option Nat :=
  let k := if wrap ∧ i < 0 then i + extent else i
  if k < 0 ∨ (extent : Int) ≤ k then none else some k.toNat

/-- What the positions 0 to n − 1 of GATHER or SCATTER resolve to, with what they count: dropped, changed by wrap mode. -/
structure IndexList where
  idx : List (Option (Nat × Bool))
  dropped : Nat
  wrapped : Nat
deriving DecidableEq, Repr

/-- The number of positions of GATHER: C.size along AXIS (R122); of SCATTER: A.size (R126). -/
def OpEnv.positions (e : OpEnv) : Nat := (if e.o.kind = .scatter then e.a else e.c).size.getD e.o.axis 0

/-- The extent that indices are held against. -/
def OpEnv.extent (e : OpEnv) : Nat := (if e.o.kind = .scatter then e.c else e.a).size.getD e.o.axis 0

/-- Windows of 64 positions (R124). -/
def OpEnv.windows (e : OpEnv) : List WorkUnit := (List.range (ceilDiv e.positions 64)).map unitOf

/-- The die that runs window `w`. -/
def OpEnv.windowDie (e : OpEnv) (w : Nat) : Nat := (e.unitDie e.windows w).getD e.die0

/-- The positions 0 to n − 1 of an index tensor resolved against an extent (R122, R123), each read by the die of its window through its
own translation (R124, R451). A position without an index is dropped without being presented to the match unit, and is not counted
(DEDUCED, log entry 26). -/
def OpEnv.indices (e : OpEnv) (n extent : Nat) : IndexList :=
  let raw := (List.range (ceilDiv n 64)).flatMap fun w =>
    let v := e.view (e.windowDie w)
    let lx := v.load e.x
    (List.range (min 64 (n - 64 * w))).map fun i => indexAt v lx (64 * w + i)
  { idx := raw.map fun r => match r with
      | some p => (resolveIndex e.o.idxWrap extent p.1).map fun k => (k, p.2)
      | none => none,
    dropped := (raw.filter fun r => match r with
      | some p => (resolveIndex e.o.idxWrap extent p.1).isNone
      | none => false).length,
    wrapped := (raw.filter fun r => match r with
      | some p => e.o.idxWrap && decide (p.1 < 0)
      | none => false).length }

/-- The keys a window's match unit takes: reads that collapse does not serve, and positions collapsed (R124). -/
def windowReads (keys : List Nat) : Nat × Nat :=
  let r := keys.foldl (fun (acc : Nat × Nat × MatchSet) k =>
    if acc.2.2.any (fun x => x.1 = k) then (acc.1, acc.2.1 + 1, acc.2.2)
    else match matchInsert acc.2.2 k with
      | some m => (acc.1 + 1, acc.2.1, m)
      | none => (acc.1 + 1, acc.2.1, acc.2.2)) (0, 0, [])
  (r.1, r.2.1)

/-- The keys of window `w`. -/
def IndexList.window (il : IndexList) (w : Nat) : List Nat :=
  ((il.idx.drop (64 * w)).take 64).filterMap fun x => x.map fun p => p.1

/-- The blocks that GATHER writes: all of a plain or FULL C, and those holding an element taken from a present block of
A otherwise (R125). -/
def OpEnv.gatherOut (e : OpEnv) : List OutBlock :=
  let units := e.windows
  let il := e.indices e.positions e.extent
  let fin := finishOf e.o (e.a.enc.isInt && !e.a.mx) e.c
  (List.range e.c.nb).filterMap fun l =>
    let els := e.c.elemsOf l
    let j0 := match els.head? with
      | some p => p.2.getD e.o.axis 0
      | none => 0
    let d := (e.unitDie units (j0 / 64)).getD (e.byPosition l)
    let v := e.view d
    let la := v.load e.a
    let lc := v.load e.c
    let cells := els.map fun p =>
      match il.idx.getD (p.2.getD e.o.axis 0) none with
      | some k => (p.1, v.elemAt la (p.2.set e.o.axis k.1), k.2)
      | none => (p.1, Elem.absent, false)
    if !e.c.plain ∧ !e.c.full ∧ (cells.all fun c => !c.2.1.present) then none
    else
      let val := fun q x => match cells.find? (fun c => c.1 = q) with
        | some c => fin.value c.2.1.val (oldElem v lc x).1
        | none => .zero
      let poison := cells.any (fun c => c.2.1.poison || c.2.2) || (e.o.accum && els.any fun p => (oldElem v lc p.2).2)
      some (outBlock e.c d l poison val)

/-- What GATHER's planning counts over its windows: positions collapsed (R124). -/
def OpEnv.collapsed (e : OpEnv) : Nat :=
  let il := e.indices e.positions e.extent
  listSum ((List.range (ceilDiv e.positions 64)).map fun w => (windowReads (il.window w)).2)

/-- The size in bytes of one slice of A as read (R165). -/
def OpEnv.sliceBytes (e : OpEnv) : Nat :=
  ceilDiv (listProd (e.a.size.set e.o.axis 1) * e.a.enc.width) 8

/-! ## SOFTMAX -/

/-- A bound of e^(−t) in units of 2^−300 from below or above, for t = m × 2^e: the argument is halved ten times, the
series summed to 60 terms with a margin above its rounding, and the reciprocal squared back. From t = 128 on, e^(−t)
lies below 2^−184. -/
def expBounds (m : Nat) (e : Int) : Nat × Nat :=
  if 7 ≤ (m.log2 : Int) + e then (0, 2 ^ 116)
  else
  let one := 2 ^ 300
  let z := if 0 ≤ e + 290 then m * 2 ^ (e + 290).toNat else m / 2 ^ (-(e + 290)).toNat
  let term := (List.range 60).foldl (fun (acc : Nat × Nat) i => (acc.1 + acc.2, acc.2 * z / (one * (i + 1)))) (0, one)
  let up := term.1 + 2 ^ 12
  let lo := term.1 - 2 ^ 12
  let inv := fun d => one * one / d
  let sq := fun k x => (List.range 10).foldl (fun y _ => y * y / one + k) x
  (sq 0 (inv up), sq 1 (inv lo + 1))

/-- The largest FP32 pattern not above `n × 2^−300`. -/
def floorF32 (n : Nat) : Nat :=
  if n = 0 then 0
  else
    let q : Int := max (-149) ((n.log2 : Int) - 300 - 23)
    (q + 149).toNat * 2 ^ 23 + (if 0 ≤ -300 - q then n * 2 ^ (-300 - q).toNat else n / 2 ^ (q + 300).toNat)

/-- exp of an FP32 value that is not positive: the FP32 neighbour of e^x below or above, as the free choice says, and
exactly 1 at zero (R129; log entry 24). -/
def expF32 (x : Val) : Val :=
  match x with
  | .nan => .nan
  | .inf neg => if neg then .zero else .inf false
  | .fin _ m e =>
    if m = 0 then .ofInt 1
    else
      let b := floorF32 (expBounds m e).1
      f32 (b + (if Config.expRoundsUp (toF32 x) then 1 else 0))

/-- The index combinations of a tensor's size with AXIS left out: the slices, by the coordinates with 0 along AXIS, in
order of each slice's first element (R129, R452). -/
def OpEnv.slices (e : OpEnv) : List (List Nat) :=
  let ext := e.a.size.set e.o.axis 1
  (List.range (listProd ext)).map (unravel ext)

/-- The admitted elements of a slice, in increasing index: index, value, poison (R128, R129). -/
def OpEnv.admittedOf (e : OpEnv) (v : View) (la lm : Loaded) (x : List Nat) : List (Nat × Val × Bool) :=
  (List.range (e.a.size.getD e.o.axis 0)).filterMap fun i =>
    let y := x.set e.o.axis i
    if !e.m.supplied || (v.elemAt lm y).admitted then
      let r := v.elemAt la y
      some (i, r.val.toF32, r.poison)
    else none

/-- The slices of SOFTMAX as units, weighted by their admitted counts (R130). -/
def OpEnv.softUnits (e : OpEnv) : List WorkUnit :=
  let v := e.own
  let la := v.load e.a
  let lm := v.load e.m
  let sl := e.slices
  (List.range sl.length).map fun k =>
    { a := k, b := 0, c := 0, d := 0, weight := (e.admittedOf v la lm (sl.getD k [])).length }

/-- The results of one slice: index and value at each admitted position, and whether it is written as zeros because it
is empty or its maximum is −infinity (R129). -/
def softSlice (es : List (Nat × Val × Bool)) : List (Nat × Val) × Bool :=
  if es = [] then ([], true)
  else if es.any (fun x => x.2.1.isNan) then (es.map fun x => (x.1, .nan), false)
  else
    let m := es.foldl (fun a x => Val.max a x.2.1) (.inf true)
    if m = .inf true then (es.map fun x => (x.1, .zero), true)
    else
      let ex := es.map fun x => (x.1, (expF32 (f32Sub x.2.1 m)).toF32)
      let sum := ex.foldl (fun a x => (Val.add a x.2).toF32) .zero
      (ex.map fun x => (x.1, (Val.div x.2 sum).toF32), false)

/-- The slices of SOFTMAX that are written as zeros (R129). -/
def OpEnv.softEmpty (e : OpEnv) : Nat :=
  let v := e.own
  let la := v.load e.a
  let lm := v.load e.m
  (e.slices.filter fun x => (softSlice (e.admittedOf v la lm x)).2).length

/-- The blocks that SOFTMAX writes (R129): a blocked C with FULL clear takes M's present blocks, or A's. A block is
written by the die of the first slice it holds. -/
def OpEnv.softOut (e : OpEnv) : List OutBlock :=
  let units := e.softUnits
  let v0 := e.own
  let ref := if e.m.supplied then e.m else e.a
  let present := (v0.scan ref).blocks.map fun b => b.l
  let fin := finishOf e.o false e.c
  let ext := e.a.size.set e.o.axis 1
  (List.range e.c.nb).filterMap fun l =>
    let els := e.c.elemsOf l
    if !e.c.plain ∧ !e.c.full ∧ !overlaps e.c l ref present then none
    else
      let first := match els.head? with
        | some p => ravel ext (p.2.set e.o.axis 0)
        | none => 0
      let d := (e.unitDie units first).getD (e.byPosition l)
      let v := e.view d
      let la := v.load e.a
      let lm := v.load e.m
      let lc := v.load e.c
      let bases := dedup (els.map fun p => p.2.set e.o.axis 0)
      let res := bases.map fun x => let es := e.admittedOf v la lm x; (x, (softSlice es).1, es.any fun y => y.2.2)
      let val := fun (_ : Nat) (x : List Nat) =>
        let y := match res.find? (fun r => r.1 = x.set e.o.axis 0) with
          | some r => (match r.2.1.find? (fun p => p.1 = x.getD e.o.axis 0) with
            | some p => p.2
            | none => .zero)
          | none => .zero
        fin.value y (oldElem v lc x).1
      some (outBlock e.c d l ((res.any fun r => r.2.2) || (e.o.accum && els.any fun p => (oldElem v lc p.2).2)) val)

end Sys2Proof.Machine
end

