-- ==== Sys2Proof/Machine/Converge.lean ====
section
/-! DEFINITION. The operations whose partial results converge in accumulators besides the products: SCATTER (R126,
R127), REDUCE (R128) and CONV (R96 to R98), each as the partial blocks of its work units. -/

namespace Sys2Proof.Machine

/-! ## SCATTER -/

/-- The accumulator of GATHER, SCATTER and REDUCE holds INT32 for an integer A that is not microscaled (R72; DEDUCED,
log entry 27). -/
def OpEnv.intA (e : OpEnv) : Bool := e.a.enc.isInt && !e.a.mx

/-- The accumulation mode of SCATTER (R126). -/
def OpEnv.scatMode (e : OpEnv) : AccMode := if e.o.dupLast then .lastWriter else if e.intA then .addI32 else .addF32

/-- The partial blocks of one window of SCATTER (R126): repeats within the window are added, or the last kept, in the
engine, in increasing position. -/
def OpEnv.scatPartials (e : OpEnv) (il : IndexList) (die win : Nat) : List Partial × Nat :=
  let v := e.view die
  let la := v.load e.a
  let ps := ((List.range 64).map fun i => 64 * win + i).filterMap fun j =>
    match il.idx.getD j none with
    | some k => some (j, k.1, k.2)
    | none => none
  let r := (List.range e.c.nb).filterMap fun l =>
    let els := e.c.elemsOf l
    if els.any (fun p => ps.any fun x => x.2.1 = p.2.getD e.o.axis 0) then
      let cell : Nat → (Option U32 × Nat) × Nat × Bool := fun q =>
        match els.find? (fun p => p.1 = q) with
        | some p =>
          (ps.filter fun x => x.2.1 = p.2.getD e.o.axis 0).foldl
            (fun (acc : (Option U32 × Nat) × Nat × Bool) x =>
              let y := v.elemAt la (p.2.set e.o.axis x.1)
              let t := laneTake e.intA (if e.o.dupLast then none else acc.1.1) y.val
              ((t.1, acc.1.2 + t.2), x.1, acc.2.2 || y.poison || x.2.2)) ((none, 0), 0, false)
        | none => ((none, 0), 0, false)
      let cs := (List.range (e.c.h * e.c.w)).map cell
      some ({ l := l, lanes := cs.map fun x => x.1.1, poison := cs.any fun x => x.2.2, pos := cs.map fun x => x.2.1, bound := none },
        listSum (cs.map fun x => x.1.2))
    else none
  (r.map fun x => x.1, listSum (r.map fun x => x.2))

/-- The slices of C that some position targets. -/
def IndexList.targets (il : IndexList) : List Nat := dedup (il.idx.filterMap fun x => x.map fun p => p.1)

/-- Positions that lose in last-writer mode: those whose target a larger position also takes (R126). -/
def IndexList.losers (il : IndexList) : Nat := (il.idx.filter fun x => x.isSome).length - il.targets.length

/-! ## REDUCE -/

/-- ROP, others read as 0 (R71). -/
def OpEnv.rop (e : OpEnv) : Nat := if field e.o.params 1 1 ≤ 3 then field e.o.params 1 1 else 0

/-- A dimension is reduced. -/
def OpEnv.reduces (e : OpEnv) (d : Nat) : Bool := bit (field e.o.params 0 1) d

/-- C with its size along reduced dimensions read as 1 (R128). -/
def OpEnv.reduceC (e : OpEnv) : Tensor :=
  let sz := (List.range 6).map fun d => if e.reduces d ∧ e.c.supplied then 1 else e.c.size.getD d 1
  { e.c with size := sz, pitch := pitches sz e.c.strides }

/-- The accumulation mode of REDUCE (R128). -/
def OpEnv.reduceMode (e : OpEnv) : AccMode :=
  match e.rop, e.intA with
  | 1, true => .maxI32
  | 1, false => .maxF32
  | 2, true => .minI32
  | 2, false => .minF32
  | _, true => .addI32
  | _, false => .addF32

/-- The coordinates in C of an element of A (R128). -/
def OpEnv.reduceTo (e : OpEnv) (x : List Nat) : List Nat := (List.range 6).map fun d => if e.reduces d then 0 else x.getD d 0

/-- An element taken into a lane (R128): a sum, a sum of squares, or a comparison. -/
def OpEnv.reduceTake (e : OpEnv) (run : Option U32) (x : Val) : Option U32 × Nat :=
  match e.rop with
  | 0 => laneTake e.intA run x
  | 3 => laneTake e.intA run (Val.mul x x)
  | _ => laneCombine e.reduceMode run (laneTake e.intA none x).1

/-- The partial blocks of one block of A (R128). -/
def OpEnv.reducePartials (e : OpEnv) (die l : Nat) : List Partial × Nat :=
  let v := e.view die
  let la := v.load e.a
  let lm := v.load e.m
  let c := e.reduceC
  let els := (e.a.elemsOf l).filterMap fun p =>
    if !e.m.supplied || (v.elemAt lm p.2).admitted then
      let y := v.elemAt la p.2
      let x := e.reduceTo p.2
      if c.within x then some (c.blockOf x, y.val, y.poison) else none
    else none
  let blocks := sortBy (fun x y => decide (x ≤ y)) (dedup (els.map fun x => x.1.1))
  let r := blocks.map fun b =>
    let mine := els.filter fun x => x.1.1 = b
    mine.foldl (fun (acc : Partial × Nat) x =>
      let t := e.reduceTake (acc.1.lanes.getD x.1.2 none) x.2.1
      ({ acc.1 with lanes := acc.1.lanes.set x.1.2 t.1, poison := acc.1.poison || x.2.2 }, acc.2 + t.2))
      (Partial.empty b (c.h * c.w), 0)
  (r.map fun x => x.1, listSum (r.map fun x => x.2))

/-- The value of an element of C that no admitted element reaches (R128). -/
def OpEnv.reduceEmpty (e : OpEnv) : Val :=
  match e.rop, e.intA with
  | 1, true => .ofInt (-2147483648)
  | 1, false => .inf true
  | 2, true => .ofInt 2147483647
  | 2, false => .inf false
  | _, _ => .zero

/-- Whether an admitted element in an absent block of A falls on an element of C: it enters as zero (R128). -/
def OpEnv.reduceZero (e : OpEnv) (x : List Nat) : Bool :=
  let v := e.own
  let sc := v.scan e.a
  if e.a.plain ∨ e.a.full then false
  else
    let lm := v.load e.m
    (List.range e.a.nb).any fun l =>
      !(sc.blocks.any fun b => b.l = l) &&
        (e.a.elemsOf l).any fun p => (e.reduceTo p.2 == x) && (!e.m.supplied || (v.elemAt lm p.2).admitted)

/-! ## CONV -/

/-- The extents of CONV (R71). -/
def OpEnv.convExt (e : OpEnv) : List Nat :=
  [min (field e.o.params 0 2) 1024, min (field e.o.params 2 2) 1024, min (field e.o.params 4 2) 4096]

/-- The kernel extents: k used as k | 1, at most 7 (R71). -/
def OpEnv.convKernel (e : OpEnv) : List Nat := (List.range 3).map fun d => min (field e.o.params (6 + d) 1 ||| 1) 7

/-- The operation is empty because an extent is 0 (R71). -/
def OpEnv.convEmpty (e : OpEnv) : Bool := e.convExt.any fun x => x == 0

/-- The number of sites. -/
def OpEnv.sites (e : OpEnv) : Nat := if e.convEmpty then 0 else e.x.size.getD 1 0

/-- The key of coordinates (R96). -/
def siteKey (x y t : Nat) : Nat := t * 2 ^ 20 + y * 2 ^ 10 + x

/-- The coordinates of each site, none for one that falls outside the extents (R90, R97). -/
def OpEnv.siteList (e : OpEnv) (die : Nat) : List (Option (Nat × Nat × Nat)) :=
  let v := e.view die
  let lx := v.load e.x
  (List.range e.sites).map fun s =>
    let c := (List.range 3).map fun d => valInt (v.elemAt lx [d, s, 0, 0, 0, 0]).val
    if (List.range 3).all (fun d => decide (0 ≤ c.getD d 0) && decide (c.getD d 0 < (e.convExt.getD d 0 : Int))) then
      some ((c.getD 0 0).toNat, (c.getD 1 0).toNat, (c.getD 2 0).toNat)
    else none

/-- Units of CONV: sites in list order (R452). -/
def OpEnv.convUnits (e : OpEnv) : List WorkUnit := (List.range e.sites).map unitOf

/-- The sites of share `s`: site i belongs to share (i × S) / N (R97). -/
def OpEnv.convShare (e : OpEnv) (s : Nat) : List Nat := (List.range e.sites).filter fun i => i * e.shares / e.sites = s

/-- The offsets δ in order, dx fastest (R96). -/
def OpEnv.convOffsets (e : OpEnv) : List (Int × Int × Int) :=
  let k := e.convKernel
  let kx := k.getD 0 1
  let ky := k.getD 1 1
  let kt := k.getD 2 1
  (List.range (kx * ky * kt)).map fun i =>
    ((i % kx : Nat) - (kx / 2 : Nat), (i / kx % ky : Nat) - (ky / 2 : Nat), (i / kx / ky : Nat) - (kt / 2 : Nat))

/-- What a share's search finds (R97 step 1): the sites inserted as (key, site), the lookups, the hits (q, p, δ), the
duplicates ignored, and the keys presented for insertion. -/
structure ConvSearch where
  inserted : List (Nat × Nat)
  lookups : Nat
  hits : List (Nat × Nat × Nat)
  dups : List Nat
  passes : Nat
deriving DecidableEq, Repr

/-- The search of one share. -/
def OpEnv.convSearch (e : OpEnv) (sites : List (Option (Nat × Nat × Nat))) (share : Nat) : ConvSearch :=
  let mine := e.convShare share
  let key := fun (c : Nat × Nat × Nat) => siteKey c.1 c.2.1 c.2.2
  let keys := mine.filterMap fun p => (sites.getD p none).map key
  let k := e.convKernel
  let span := siteKey (k.getD 0 1 / 2) (k.getD 1 1 / 2) (k.getD 2 1 / 2)
  let hi := listMax keys + span
  let lo := (keys.foldl min (listMax keys)) - span
  let within := fun x => decide (lo ≤ x) && decide (x ≤ hi)
  let all := (List.range sites.length).filterMap fun q => (sites.getD q none).map fun c => (key c, q)
  let from0 := if keys = [] then [] else all.dropWhile fun x => !within x.1
  let run := from0.takeWhile fun x => x.1 ≤ hi
  let ins := (run.filter fun x => within x.1).foldl (fun (acc : List (Nat × Nat) × List Nat) x =>
    if acc.1.any (fun y => y.1 = x.1) then (acc.1, acc.2 ++ [x.2]) else (acc.1 ++ [x], acc.2)) ([], [])
  let offs := e.convOffsets
  let looks := mine.flatMap fun p =>
    match sites.getD p none with
    | none => []
    | some c => (List.range offs.length).filterMap fun i =>
        let o := offs.getD i (0, 0, 0)
        let n : List Int := [c.1 + o.1, c.2.1 + o.2.1, c.2.2 + o.2.2]
        if (List.range 3).all (fun d => decide (0 ≤ n.getD d 0) && decide (n.getD d 0 < (e.convExt.getD d 0 : Int))) then
          some (p, i, siteKey (n.getD 0 0).toNat (n.getD 1 0).toNat (n.getD 2 0).toNat)
        else none
  { inserted := ins.1, lookups := looks.length,
    hits := looks.filterMap fun x => (ins.1.find? fun y => y.1 = x.2.2).map fun y => (y.2, x.1, x.2.1),
    dups := ins.2, passes := (matchPasses (ins.1.map fun x => x.1)).length }

/-- The product of CONV accumulates in INT32 when features and weights are integers that are not microscaled (R72). -/
def OpEnv.convInt (e : OpEnv) : Bool := e.a.enc.isInt && !e.a.mx && e.b.enc.isInt && !e.b.mx

/-- The weight blocks of offset δ in storage order, as (column block, row block, reference). -/
def OpEnv.convWeights (e : OpEnv) (v : View) (delta : Nat) : List (Nat × Nat × BlockRef) :=
  (v.scan e.b).blocks.filterMap fun b =>
    let i := unravel e.b.grid b.l
    if i.getD 2 0 = delta then some (i.getD 0 0, i.getD 1 0, b) else none

/-- A weight block as the lanes take it: a plain tensor's from its elements, a stored one's from its record; elements
beyond the size are zero (R47, R97). -/
def OpEnv.weightBlock (e : OpEnv) (v : View) (b : BlockRef) : Blk :=
  let t := e.b
  let xs := (List.range (t.h * t.w)).map (t.coords b.l)
  if t.plain then
    let es := xs.map fun x => if t.within x then v.plainElem t x else (.zero, false)
    { vals := es.map fun y => y.1, bad := xs.map fun x => t.within x && v.plainBad t x, mask := none, poison := es.any fun y => y.2 }
  else
    let st := v.usedBlock t b
    { st with vals := List.zipWith (fun x y => if t.within x then y else .zero) xs st.vals,
              bad := List.zipWith (fun x y => t.within x && y) xs st.bad }

/-- One hit against one weight block for one output channel (R97 step 2, R110): the products over the block's inner
positions summed in a lane, a masked-off weight giving none. -/
def OpEnv.convLane (e : OpEnv) (blk : Blk) (feats : List Elem) (c : Nat) : Option U32 × Nat :=
  (List.range e.b.h).foldl (fun (s : Option U32 × Nat) k =>
    let q := k * e.b.w + c
    let on := match blk.mask with
      | some m => m.getD q false
      | none => true
    if on then
      let f := feats.getD k Elem.absent
      let t := laneTake e.convInt s.1 (elemProduct e.a e.b f.bad (blk.bad.getD q false) f.val (blk.vals.getD q .zero))
      (t.1, s.2 + t.2)
    else s) (none, 0)

/-- A lane's result added to the partial block that holds element `x` of C. -/
def OpEnv.convAdd (e : OpEnv) (acc : List Partial × Nat) (x : List Nat) (sum : Option U32 × Nat) (bad : Bool) : List Partial × Nat :=
  let at' := e.c.blockOf x
  let old := (acc.1.find? fun p => p.l = at'.1).getD (Partial.empty at'.1 (e.c.h * e.c.w))
  let cmb := laneCombine (if e.convInt then .addI32 else .addF32) (old.lanes.getD at'.2 none) sum.1
  let new : Partial := { old with lanes := old.lanes.set at'.2 cmb.1, poison := old.poison || bad }
  (if acc.1.any (fun p => p.l = at'.1) then acc.1.map fun p => if p.l = at'.1 then new else p
   else acc.1 ++ [new], acc.2 + sum.2 + cmb.2)

/-- The partial blocks of an engine's hits (R97 step 2, R110): for each δ in order, for each weight block, each hit adds
the sum over the block's inner positions to the output site's channels. -/
def OpEnv.convPartials (e : OpEnv) (die : Nat) (hits : List (Nat × Nat × Nat)) : List Partial × Nat :=
  let v := e.view die
  let la := v.load e.a
  let r := (List.range e.convOffsets.length).foldl (fun (acc : List Partial × Nat) d =>
    let mine := hits.filter fun h => h.2.2 = d
    if mine = [] then acc
    else (e.convWeights v d).foldl (fun (acc : List Partial × Nat) wb =>
      let blk := e.weightBlock v wb.2.2
      mine.foldl (fun (acc : List Partial × Nat) h =>
        let feats := (List.range e.b.h).map fun k => v.elemAt la [wb.2.1 * e.b.h + k, h.1, 0, 0, 0, 0]
        let bad := blk.poison || feats.any fun f => f.poison
        (List.range e.b.w).foldl (fun (acc : List Partial × Nat) c =>
          let x := [wb.1 * e.b.w + c, h.2.1, 0, 0, 0, 0]
          if !e.c.within x then acc else e.convAdd acc x (e.convLane blk feats c) bad) acc) acc) acc) ([], 0)
  (sortBy (fun x y => decide (x.l ≤ y.l)) r.1, r.2)

/-- The lane cycles of an engine's hits (R77, R97 step 2): for each δ, groups of 16 against each present weight block, a bypassing
16 × 16 pair whatever the weight block's shape, or a skiver pair. -/
def OpEnv.convCycles (e : OpEnv) (die : Nat) (hits : List (Nat × Nat × Nat)) : Nat :=
  let v := e.view die
  let lanes := lanesOf (max e.a.enc.rateClass e.b.enc.rateClass)
  listSum ((List.range e.convOffsets.length).map fun d =>
    let groups := ceilDiv (hits.filter fun h => h.2.2 = d).length 16
    if groups = 0 then 0
    else listSum ((e.convWeights v d).map fun wb =>
      let blk := e.weightBlock v wb.2.2
      groups * (match blk.mask with
        | some m => max 2 (ceilDiv ((m.filter id).length * 16) lanes)
        | none => ceilDiv (16 * 16 * 16) lanes)))

end Sys2Proof.Machine
end

