-- ==== Sys2Proof/Machine/Topo.lean ====
section
/-! DEFINITION. The compute grid (R17, R19), shortest-path trees and the barrier root (R118, R166), routes and fence
routes (R257 to R259), attachment dies (R258), the descriptor broadcast (R260), the ring of R176 and the consequences
of a fence (R418). -/

namespace Sys2Proof.Machine

/-! ## The grid -/

/-- The row of a compute die (R17). -/
def dieRow (d : Nat) : Nat := d / 5

/-- The column of a compute die (R17). -/
def dieCol (d : Nat) : Nat := d % 5

/-- The compute die beyond port N, E, S or W (0 to 3) of a compute die (R17, R19). -/
def neighbour (d port : Nat) : Option Nat :=
  match port with
  | 0 => if 5 ≤ d then some (d - 5) else none
  | 1 => if d % 5 < 4 then some (d + 1) else none
  | 2 => if d < 15 then some (d + 5) else none
  | 3 => if 0 < d % 5 then some (d - 1) else none
  | _ => none

/-- The compute dies linked to a die, with the ports that lead to them. -/
def neighbours (d : Nat) : List (Nat × Nat) :=
  (List.range 4).filterMap fun p => (neighbour d p).map fun n => (p, n)

/-- Distances spread by one link: `far` stands for no path. -/
def spread (active : List Nat) (dist : List Nat) : List Nat :=
  (List.range 20).map fun d =>
    if active.contains d then
      (neighbours d).foldl (fun m p => if active.contains p.2 then min m (dist.getD p.2 99 + 1) else m) (dist.getD d 99)
    else 99

/-- The links on a shortest path from every compute die to `home` over the active dies; 99 or more where there is none
(R118). -/
def distances (active : List Nat) (home : Nat) : List Nat :=
  (List.range 20).foldl (fun dist _ => spread active dist) ((List.range 20).map fun d => if d = home then 0 else 99)

/-- The parent of die `d` in the tree with the given distances (R118): a nearer neighbour, in its own row first, then
the lower die number. -/
def parentIn (active dist : List Nat) (d : Nat) : Option Nat :=
  let near := ((neighbours d).map fun p => p.2).filter fun n =>
    active.contains n && dist.getD n 99 + 1 == dist.getD d 99
  let row := near.filter fun n => dieRow n = dieRow d
  let pick := if row = [] then near else row
  match pick with
  | [] => none
  | n :: rest => some (rest.foldl Nat.min n)

/-- H of a tree: the largest distance over the active dies (R118, R166). -/
def treeDepth (active dist : List Nat) : Nat := listMax (active.map fun d => dist.getD d 99)

/-- The barrier root and H of an active set (R166). -/
def barrierRoot (active : List Nat) : Nat × Nat :=
  match active.map (fun d => (d, treeDepth active (distances active d))) with
  | [] => (0, 0)
  | x :: rest => rest.foldl (fun best y => if y.2 < best.2 then y else best) x

/-! ## Routes -/

/-- The dies that a dimension-order path visits after its source: along the row, then along the column (R257). -/
def dimOrder (a b : Nat) : List Nat :=
  let r := dieRow a
  let alongRow := if dieCol a ≤ dieCol b then (List.range (dieCol b - dieCol a)).map fun i => 5 * r + dieCol a + i + 1
    else (List.range (dieCol a - dieCol b)).map fun i => 5 * r + dieCol a - i - 1
  let alongCol := if r ≤ dieRow b then (List.range (dieRow b - r)).map fun i => 5 * (r + i + 1) + dieCol b
    else (List.range (r - dieRow b)).map fun i => 5 * (r - i - 1) + dieCol b
  alongRow ++ alongCol

/-- A move from `d` to `n` is up: toward the lower level, or the lower die number between equal levels (R259). -/
def isUp (level : List Nat) (d n : Nat) : Bool :=
  let x := level.getD d 99
  let y := level.getD n 99
  y < x || (x == y && n < d)

/-- Distances to a destination over legal moves, by die and by whether a down move has been made: one relaxation. -/
def legalSpread (active level : List Nat) (dist : List (Nat × Nat)) : List (Nat × Nat) :=
  (List.range 20).map fun d =>
    if active.contains d then
      (neighbours d).foldl (fun m p =>
        if active.contains p.2 then
          let x := dist.getD p.2 (99, 99)
          if isUp level d p.2 then (min m.1 (x.1 + 1), m.2) else (min m.1 (x.2 + 1), min m.2 (x.2 + 1))
        else m) (dist.getD d (99, 99))
    else (99, 99)

/-- The length of the shortest legal route from each die to `b`, before and after a down move (R259). -/
def legalDist (active : List Nat) (b : Nat) : List (Nat × Nat) :=
  let level := distances active (barrierRoot active).1
  (List.range 20).foldl (fun dist _ => legalSpread active level dist)
    ((List.range 20).map fun d => if d = b then (0, 0) else (99, 99))

/-- The port a switch takes on a fence route to `b`, and whether the move is down (R259). -/
def legalStep (active : List Nat) (b d : Nat) (down : Bool) : Option (Nat × Nat × Bool) :=
  let level := distances active (barrierRoot active).1
  let dist := legalDist active b
  let here := if down then (dist.getD d (99, 99)).2 else (dist.getD d (99, 99)).1
  (neighbours d).findSome? fun p =>
    if active.contains p.2 then
      if isUp level d p.2 then
        if !down && (dist.getD p.2 (99, 99)).1 + 1 == here then some (p.1, p.2, false) else none
      else if (dist.getD p.2 (99, 99)).2 + 1 == here then some (p.1, p.2, true) else none
    else none

/-- The dies a fence route visits after its source, with fuel for its length. -/
def legalPath (active : List Nat) (b : Nat) : Nat → Nat → Bool → List Nat
  | 0, _, _ => []
  | k + 1, d, down =>
    if d = b then [] else
    match legalStep active b d down with
    | some x => x.2.1 :: legalPath active b k x.2.1 x.2.2
    | none => []

/-- The route between two active compute dies: the dies it visits after its source, and whether it is a fence route on
virtual channel B (R257, R259). -/
def route (active : List Nat) (a b : Nat) : List Nat × Bool :=
  let p := dimOrder a b
  if p.all fun d => active.contains d then (p, false) else (legalPath active b 40 a false, true)

/-- The hops between two compute dies. -/
def hops (active : List Nat) (a b : Nat) : Nat := (route active a b).1.length

/-! ## Attachment dies -/

/-- The attachment dies of FD0 (20), FD1 (21), TD0 (22), TD1 (23) and HD (24) (R258). -/
def attachments (edge : Nat) : List Nat :=
  match edge with
  | 20 => [0, 5, 10, 15]
  | 21 => [4, 9, 14, 19]
  | 22 => [0, 1]
  | 23 => [3, 4]
  | _ => [16, 17, 18]

/-- The attachment die that compute die `d` uses for an edge die with nothing fenced (R258). -/
def attachOf (edge d : Nat) : Nat :=
  match edge with
  | 20 => 5 * dieRow d
  | 21 => 5 * dieRow d + 4
  | 22 => if dieCol d = 0 then 0 else 1
  | 23 => if dieCol d = 4 then 4 else 3
  | _ => if dieCol d ≤ 1 then 16 else if dieCol d = 2 then 17 else 18

/-- An attachment die with its replacement: the next active one along the table's list, wrapping round (R258). -/
def attachActive (active : List Nat) (edge att : Nat) : Option Nat :=
  let l := attachments edge
  let k := placeOf att l
  (l.drop k ++ l.take k).find? fun d => active.contains d

/-- The attachment die that compute die `d` uses for an edge die. -/
def attach (active : List Nat) (edge d : Nat) : Option Nat := attachActive active edge (attachOf edge d)

/-- The hops of the path that a descriptor's copy takes from the hub die to a compute die (R260). -/
def descriptorHops (active : List Nat) (d : Nat) : Nat :=
  let entry := attachOf 24 d
  let col := dieCol entry
  let up := (List.range (4 - dieRow d)).map fun i => 5 * (3 - i) + col
  let side := if dieCol d = col then [] else [d]
  if active.contains entry then
    if (up ++ side).all fun x => active.contains x then (up ++ side).length
    else 1 + (legalPath active d 40 entry false).length
  else match attachActive active 24 entry with
    | some r => 1 + hops active r d
    | none => 0

/-- The welt links that a compute die's copy of a descriptor crosses and no other die's copy does, and whether it travels as a separate
transfer on channel B: of the broadcast tree the link into the die; of a separate transfer its whole route, beside the link of the
replacement attachment die, which the first active die of the group stands for (R259, R260). -/
def descriptorLinks (active : List Nat) (d : Nat) : Nat × Bool :=
  let entry := attachOf 24 d
  let col := dieCol entry
  let up := (List.range (4 - dieRow d)).map fun i => 5 * (3 - i) + col
  let side := if dieCol d = col then [] else [d]
  if active.contains entry then
    if (up ++ side).all fun x => active.contains x then (1, false) else ((legalPath active d 40 entry false).length, true)
  else match attachActive active 24 entry with
    | some r =>
      let first := (active.filter fun x => attachOf 24 x = entry).head? == some d
      let x := route active r d
      (x.1.length + (if first then 1 else 0), x.2)
    | none => (0, false)

/-! ## The ring -/

/-- The ring of R176 over all compute dies. -/
def ringOrder : List Nat := [0, 1, 2, 3, 4, 9, 8, 7, 6, 11, 12, 13, 14, 19, 18, 17, 16, 15, 10, 5]

/-- The active dies in ring order. -/
def ringDies (active : List Nat) : List Nat := ringOrder.filter fun d => active.contains d

/-- The ring position of a die (R176). -/
def ringPos (active : List Nat) (d : Nat) : Nat := placeOf d (ringDies active)

/-- The successor of a die on the ring, and its predecessor. -/
def ringNext (active : List Nat) (d : Nat) : Nat :=
  let r := ringDies active
  r.getD ((placeOf d r + 1) % r.length) d

/-- The predecessor of a die on the ring. -/
def ringPrev (active : List Nat) (d : Nat) : Nat :=
  let r := ringDies active
  r.getD ((placeOf d r + r.length - 1) % r.length) d

/-- g: the largest number of hops between ring neighbours (R176). -/
def ringHops (active : List Nat) : Nat := listMax ((ringDies active).map fun d => hops active d (ringNext active d))

/-- The link directions that the lap uses, as (die, port). -/
def ringLinks (active : List Nat) : List (Nat × Nat) :=
  (ringDies active).flatMap fun d =>
    let p := d :: (route active d (ringNext active d)).1
    (List.range (p.length - 1)).filterMap fun i =>
      ((neighbours (p.getD i 0)).find? fun n => n.2 = p.getD (i + 1) 0).map fun n => (p.getD i 0, n.1)

/-! ## After a fence -/

/-- The active dies reachable from `d` (R418). -/
def component (active : List Nat) (d : Nat) : List Nat :=
  let dist := distances active d
  active.filter fun x => dist.getD x 99 < 99

/-- The compute dies that stay active after a fence: first the other die of a fenced stack goes, then every die outside
the largest joined set that holds an active attachment die of HD (R418). -/
def keptActive (active : List Nat) (lostStacks : Nat) : List Nat :=
  let a1 := active.filter fun d => !bit lostStacks (dieStack d)
  let comps := (a1.map (component a1)).filter fun c => (attachments 24).any fun d => c.contains d
  match comps with
  | [] => []
  | c :: rest => rest.foldl (fun best x => if best.length < x.length then x else best) c

/-- The compute dies and edge dies fenced after R418, as a mask with the die numbers of 3300:08. -/
def fenceClosure (fence lostStacks : Nat) : Nat :=
  let active := keptActive ((List.range 20).filter fun d => !bit fence d) lostStacks
  let edge := fun k => bit fence k || !((attachments k).any fun d => active.contains d)
  maskOf 24 fun d => if d < 20 then !active.contains d else edge d

end Sys2Proof.Machine
end

