-- ==== Sys2Proof/Machine/Awl.lean ====
section
/-! DEFINITION. Operations as the dies see them, products with their output grid (R79, R138, R455), the prediction
tensor and its classification (R134 to R137, R139), and the resole queue with its admission (R141 to R144). -/

namespace Sys2Proof.Machine

/-! ## Environments -/

/-- The AWLMODE in force: 0 off, 1 bounded, 2 strict; and whether 3200:01 takes M away (R138, R150). -/
def awlModeOf (force : Nat) (o : OpDesc) : Nat × Bool :=
  if (o.kind = .spmm ∨ o.kind = .spgemm) ∧ o.tm % 2 ^ 52 ≠ 0 ∧ o.awlMode ≠ 0 then
    if force = 1 then (0, true) else if force = 2 then (2, false) else (o.awlMode, false)
  else (0, false)

/-- A tensor read as TERN2 (R137, R139). -/
def Tensor.asTern (t : Tensor) : Tensor := { t with enc := .tern2, mx := false, sat := false }

/-- The planning objects as they stand (R82, R150, R185). -/
def State.knobs (s : State) : Knobs :=
  { thr := (List.range 4).map fun i => s.get (0x310001 + i), awlForce := s.get 0x320001, budget := s.get 0x320002,
    slack := s.get 0x330001, sched := s.get 0x330002 }

/-- The environment of an operation as die `eye` plans it: its tensors as that die reads their descriptors, with the layouts, grids and
roles that the operation fixes (R63, R67, R79, R94, R101, R137, R139, R453, R455). -/
def mkEnv (s : State) (desc : List Byte) (active : List Nat) (eye : Nat) (knobs : Knobs) (snaps : SMap (SMap Byte)) : OpEnv :=
  let o := OpDesc.decode desc
  let v : View := { s := s, w := s.window o.task, die := eye, snap := [] }
  let awl := awlModeOf knobs.awlForce o
  let a := (v.tensor o.ta).1
  let b := (v.tensor o.tb).1
  let c := (v.tensor o.tc).1
  let m := if awl.2 then Tensor.absent else (v.tensor o.tm).1
  let x := (v.tensor o.tx).1
  let base : OpEnv := { s := s, o := o, w := s.window o.task, active := active, eye := eye, knobs := knobs, snaps := snaps,
                        a := a, b := b, c := c, m := m, x := x }
  let turned := { base with a := if o.transA then a.transposed else a, b := if o.transB then b.transposed else b }
  let spread := fun (t : Tensor) => { t with bcast := true }
  match o.kind with
  | .toBlocked => { turned with c := v.tensorAs o.tc false }
  | .toPlain => { turned with c := v.tensorAs o.tc true }
  | .blockTrans => { base with a := v.tensorAs o.ta false, c := v.tensorAs o.tc false }
  | .transCopy => { base with a := v.tensorAs o.ta true, c := v.tensorAs o.tc true }
  | .predict => { base with c := (c.reshape a.h b.w).asTern, m := spread m, x := spread (x.reshape a.h b.w) }
  | .spmm => { base with c := c.reshape a.h b.w, x := spread (x.reshape a.h b.w), m := spread (if awl.1 = 0 then m else m.asTern) }
  | .spgemm => { base with c := c.reshape a.h b.w, x := spread (x.reshape a.h b.w), m := spread (if awl.1 = 0 then m else m.asTern) }
  | .sddmm => { base with c := c.reshape a.h b.w, x := spread (x.reshape a.h b.w), m := spread m }
  | _ => turned

/-- The AWLMODE in force (R138, R150). -/
def OpEnv.awl (e : OpEnv) : Nat := (awlModeOf e.knobs.awlForce e.o).1

/-- A product as the clickers see it; SDDMM without M runs as SPMM, whose B is read as FULL (R79, R102). -/
def OpEnv.product (e : OpEnv) (admitted : Option (List Nat)) : Product :=
  let v := e.own
  let predict := e.o.kind == .predict
  let bFull := e.o.kind == .spmm || (e.o.kind == .sddmm && !e.m.supplied)
  let a := v.prodOpd e.a e.o.transA predict false
  let b := v.prodOpd e.b e.o.transB predict bFull
  { a := a, b := b, c := e.c, nbK := min (a.t.grid.getD 0 0) (b.t.grid.getD 1 0), kappa := min a.t.w b.t.h,
    lanes := if predict then 128 else lanesOf (max e.a.enc.rateClass e.b.enc.rateClass),
    intAcc := !predict && e.a.enc.isInt && !e.a.mx && e.b.enc.isInt && !e.b.mx, cmpB := e.o.cmpB, admitted := admitted }

/-- The threshold object of the operation's rate class (R80, R81, R134). -/
def OpEnv.theta (e : OpEnv) : Nat :=
  e.knobs.thr.getD (if e.o.kind == .predict then 0 else max e.a.enc.rateClass e.b.enc.rateClass) 0

/-- The output blocks that M admits: those any present block of M overlaps (R79, R455). -/
def OpEnv.admittedByMask (e : OpEnv) : List Nat :=
  let present := (e.own.scan e.m).blocks.map fun b => b.l
  (List.range e.c.nb).filter fun l => overlaps e.c l e.m present

/-! ## Reading a prediction -/

/-- The numbers of +1 and of −1 among M's elements at the coordinates of output block `l` (R139). -/
def OpEnv.predicted (e : OpEnv) (lm : Loaded) (l : Nat) : Nat × Nat :=
  let v := e.own
  (e.c.elemsOf l).foldl (fun (acc : Nat × Nat) p =>
    let x := valInt (v.elemAt lm p.2).val
    (acc.1 + (if x = 1 then 1 else 0), acc.2 + (if x = -1 then 1 else 0))) (0, 0)

/-- The blocks of C under a prediction: computed with their miss elements, queued with theirs, and unfilled (R139). -/
structure BlockClasses where
  computed : List (Nat × Nat)
  queued : List (Nat × Nat)
  unfilled : List Nat
deriving DecidableEq, Repr

/-- The classes of all blocks of C's grid. -/
def OpEnv.classes (e : OpEnv) : BlockClasses :=
  let lm := e.own.load e.m
  let r := (List.range e.c.nb).map fun l => (l, e.predicted lm l)
  { computed := (r.filter fun x => x.2.1 ≠ 0).map fun x => (x.1, x.2.2),
    queued := (r.filter fun x => x.2.1 = 0 ∧ x.2.2 ≠ 0).map fun x => (x.1, x.2.2),
    unfilled := (r.filter fun x => x.2.1 = 0 ∧ x.2.2 = 0).map fun x => x.1 }

/-! ## The resole queue -/

/-- The queued blocks in queue order (R141): decreasing misses, then increasing index. -/
def resoleOrder (queued : List (Nat × Nat)) : List (Nat × Nat) :=
  sortBy (fun x y => y.2 < x.2 || (x.2 == y.2 && x.1 ≤ y.1)) queued

/-- The entries of the die of rank `r`: queue positions q with q % D = r, in order (R141). -/
def resoleEntries (count r : Nat) (queue : List (Nat × Nat)) : List (Nat × Nat) :=
  ((List.range queue.length).filter fun q => q % count = r).map fun q => queue.getD q (0, 0)

/-- The tile of a resole entry: one output block, its pairs counted without a mask (R142). -/
def Product.entryTile (p : Product) (theta sel l : Nat) : Tile :=
  let i := unravel p.c.grid l
  ({ p with admitted := none }).tile theta sel (i.drop 2) (i.getD 1 0) [i.getD 0 0]

/-- The segments of a die's entries (R142): the ordinals of the die's own entries over its 40 engines. -/
def Product.resoleSegments (p : Product) (theta sel die : Nat) (entries : List Nat) : List Segment :=
  dealTiles 40 (fun s => (die, s)) (entries.map (p.entryTile theta sel))

/-- t_res of a die for a list of entries; the j-th lies in bank group j & 3 (R141, R143). -/
def Product.resoleTime (p : Product) (v : View) (theta sel : Nat) (entries : List Nat) : Nat :=
  let tiles := entries.map (p.entryTile theta sel)
  let segs := dealTiles 40 (fun s => (v.die, s)) tiles
  dieLength (segs.map fun sg => (sg, { p.segCost v (tiles.getD sg.tile (p.entryTile theta sel 0)) sg with groups := [sg.tile % 4] }))
    fun x => x.2.resole

/-- The number of entries that bounded mode admits, tried one at a time (R144), with fuel for the entries. -/
def Product.admitCount (p : Product) (v : View) (theta sel rb : Nat) (entries : List Nat) : Nat → Nat → Nat
  | 0, k => k
  | f + 1, k =>
    if entries.length ≤ k then k
    else if p.resoleTime v theta sel (entries.take (k + 1)) ≤ rb then p.admitCount v theta sel rb entries f (k + 1)
    else k

/-- The resole entries of the operation with their admission (R144). -/
def OpEnv.resoleQueue (e : OpEnv) (p : Product) (theta rb mode : Nat) (queued : List (Nat × Nat)) : List ResEntry :=
  let q := resoleOrder queued
  (List.range e.count).flatMap fun r =>
    let d := e.active.getD r 0
    let es := resoleEntries e.count r q
    let n := if mode = 2 then es.length
      else p.admitCount (e.view d) theta e.o.pathSel rb (es.map fun x => x.1) es.length 0
    (List.range es.length).map fun i =>
      { die := d, blk := (es.getD i (0, 0)).1, misses := (es.getD i (0, 0)).2, admitted := decide (i < n) }

/-! ## Classification -/

/-- SKIPTHR and AWLTHR (R66, R71). -/
def OpEnv.skipThr (e : OpEnv) : Val := f32 (field e.o.params 0 4)

/-- x ≤ y in FP32: false when either is a NaN. -/
def valLe (x y : Val) : Bool := !x.isNan && !y.isNan && !Val.lt y x

/-- The class of one element (R136): 1 kept, −1 miss, 0 skip; and whether step 1 forced it. -/
def classify (skipThr awlThr est bound : Val) (poison : Bool) : Int × Bool :=
  if !est.isFinite || !bound.isFinite || poison then (1, true)
  else if !Val.lt est skipThr then (1, false)
  else if !valLe (Val.add est bound).toF32 awlThr then (-1, false)
  else (0, false)

/-- What classifying one block gives: the class of each element (none beyond the size), and the counts of elements
predicted, kept, missed and forced (R136, R150). -/
structure ClassBlock where
  cls : List (Option Int)
  predicted : Nat
  kept : Nat
  missed : Nat
  forced : Nat
deriving DecidableEq, Repr

/-- The classification of output block `l` from its accumulated values and the sum of its bounds (R134 to R136). -/
def OpEnv.classBlock (e : OpEnv) (lm : Loaded) (l : Nat) (acc : Partial) : ClassBlock :=
  let v := e.own
  let alpha := f32 e.o.alpha
  let bound := (Val.mul alpha.abs (f32 ((acc.bound.getD 0).toNat))).toF32
  let cells := (List.range (e.c.h * e.c.w)).map fun q =>
    let x := e.c.coords l q
    if !e.c.within x then (none, false, false)
    else if e.m.supplied && !(v.elemAt lm x).admitted then (some (0 : Int), false, false)
    else
      let est := (Val.mul alpha (f32 (((acc.lanes.getD q none).getD 0).toNat))).toF32.abs
      let r := classify e.skipThr (f32 e.o.awlThr) est bound acc.poison
      (some r.1, true, r.2)
  { cls := cells.map fun c => c.1, predicted := (cells.filter fun c => c.2.1).length,
    kept := (cells.filter fun c => c.2.1 && c.1 == some 1).length,
    missed := (cells.filter fun c => c.2.1 && c.1 == some (-1)).length,
    forced := (cells.filter fun c => c.2.2).length }

/-- The prediction block written for a classification (R137): none where the block is absent. -/
def OpEnv.predictionOut (e : OpEnv) (writer l : Nat) (b : ClassBlock) : Option OutBlock :=
  let vals := b.cls.map fun c => Val.ofInt (c.getD 0)
  if !e.c.plain ∧ !e.c.full ∧ (b.cls.all fun c => c.getD 0 == 0) then none
  else
    let masked := e.c.masked && !e.c.plain && (e.c.full || b.cls.any fun c => c == some 0)
    some { l := l, writer := writer, vals := vals.map some,
           mask := if masked then some (b.cls.map fun c => c.getD 0 != 0) else none, poison := false }

end Sys2Proof.Machine
end

