-- ==== Sys2Proof/Machine/Collect.lean ====
section
/-! DEFINITION. What lasting binds about accumulation: the output blocks that segments write, accumulator slots (R161),
contributions and home dies (R117), and the collection schedule with its order of additions (R119). -/

namespace Sys2Proof.Machine

/-! ## What a segment writes -/

/-- Rows of a partial that received a value. -/
def Partial.rows (p : Partial) : List Nat :=
  (List.range (ceilDiv p.lanes.length 16)).filter fun r =>
    (List.range 16).any fun i => (p.lanes.getD (16 * r + i) none).isSome

/-- The hits of a CONV compute segment (q, p, δ), kept in its units (R97). -/
def hitsOf (sg : Segment) : List (Nat × Nat × Nat) := sg.units.map fun u => (u.a, u.b, u.c)

/-- The partial blocks of a segment of any accumulating operation, and the additions that wrapped. -/
def OpEnv.segmentPartials (e : OpEnv) (p : Product) (tiles : List Tile) (sg : Segment) : List Partial × Nat :=
  match e.o.kind with
  | .scatter =>
    let r := sg.units.map fun u => e.scatPartials (e.indices e.positions e.extent) sg.die u.a
    (r.flatMap fun x => x.1, listSum (r.map fun x => x.2))
  | .reduce =>
    let r := sg.units.map fun u => e.reducePartials sg.die u.a
    (r.flatMap fun x => x.1, listSum (r.map fun x => x.2))
  | .conv => e.convPartials sg.die (hitsOf sg)
  | _ => match tiles[sg.tile]? with
    | some t => p.segPartials (e.view sg.die) t sg
    | none => ([], 0)

/-- The blocks of C that a segment's engine writes with the rows flushed of each, and the segment's cost (R112, R113).
In a dense tile the columns that M does not admit keep their rows. -/
def OpEnv.segmentInfo (e : OpEnv) (p : Product) (tiles : List Tile) (sg : Segment) : List (Nat × Nat) × SegCost :=
  match e.o.kind with
  | .scatter =>
    let bs := (e.segmentPartials p tiles sg).1.map fun x => (x.l, x.rows.length)
    (bs, { SegCost.zero with r := listSum (bs.map fun x => x.2) })
  | .reduce =>
    let bs := (e.segmentPartials p tiles sg).1.map fun x => (x.l, x.rows.length)
    (bs, { SegCost.zero with r := listSum (bs.map fun x => x.2) })
  | .conv =>
    let bs := (e.segmentPartials p tiles sg).1.map fun x => (x.l, x.rows.length)
    (bs, { SegCost.zero with w := e.convCycles sg.die (hitsOf sg), r := listSum (bs.map fun x => x.2) })
  | _ => match tiles[sg.tile]? with
    | some t =>
      let v := e.view sg.die
      let rows := sortBy (fun x y => decide (x.1 ≤ y.1)) (p.segRows v t sg)
      (rows.map fun x => (p.block t.batch t.row x.1, x.2.length), p.segCost v t sg)
    | none => ([], SegCost.zero)

/-- The blocks a segment contributes to (R117): for products the admitted output blocks of its units. -/
def OpEnv.segmentBlocks (e : OpEnv) (p : Product) (tiles : List Tile) (sg : Segment) : List Nat :=
  if e.o.kind.isProduct then
    match tiles[sg.tile]? with
    | some t => (dedup (sg.units.map fun u => p.block t.batch t.row u.b)).filter p.admits
    | none => []
  else (e.segmentPartials p tiles sg).1.map fun x => x.l

/-! ## Slots -/

/-- The next block of a die and bank group takes slot SLOTBASE + 4c + g (R161): one item (die, ordinal, block), of the main phase or of
the resole, whose entries have slots of their own (R141). -/
def assignOne (base : Nat) (acc : List SlotAsg × SMap Nat) (x : Bool × Nat × Nat × Nat) : List SlotAsg × SMap Nat :=
  if acc.1.any (fun a => a.die = x.2.1 ∧ a.blk = x.2.2.2 ∧ a.res = x.1) then acc
  else
    let g := x.2.2.1 % 4
    let c := SMap.get acc.2 (x.2.1 * 4 + g) 0
    (acc.1 ++ [{ die := x.2.1, blk := x.2.2.2, slot := base + 4 * c + g, res := x.1 }], SMap.set acc.2 (x.2.1 * 4 + g) (c + 1) 0)

/-- The slot assignment of R161: the main phase's blocks in tile order, then the resole entries in entry order. -/
def assignSlots (base : Nat) (main res : List (Nat × Nat × Nat)) : List SlotAsg :=
  ((main.map (false, ·) ++ res.map (true, ·)).foldl (assignOne base) ([], [])).1

/-- The bank groups of blocks on a die (R104, R161). -/
def slotGroups (slots : List SlotAsg) (res : Bool) (die : Nat) (blocks : List Nat) : List Nat :=
  dedup (blocks.map fun l => slotOf slots res die l % 4)

/-! ## Contributions and collection -/

/-- The blocks with contributions and the dies that hold them, lowest rank first (R117), from (die, block) pairs. -/
def contributions (active : List Nat) (pairs : List (Nat × Nat)) : List (Nat × List Nat) :=
  (dedup (pairs.map fun x => x.2)).map fun l => (l, active.filter fun d => pairs.contains (d, l))

/-- The progress of the schedule of R119: when adders and link directions are free, and the results. -/
structure CollState where
  addFree : SMap Nat
  linkFree : SMap Nat
  done : Nat
  links : List (Nat × Nat × Nat)
  merges : List (Nat × List (Nat × Nat))
deriving DecidableEq, Repr

/-- The children of a die that send it a partial, by arrival and then by number. -/
def collChildren (active dist : List Nat) (arr : SMap Nat) (d : Nat) : List (Nat × Nat) :=
  sortBy (fun x y => x.1 < y.1 || (x.1 == y.1 && x.2 ≤ y.2))
    ((active.filter fun c => parentIn active dist c = some d ∧ arr.any fun a => a.1 = c).map fun c => (SMap.get arr c 0, c))

/-- One die's turn in the schedule of a block: `arr` holds the arrivals so far, `ms` the additions (R119). -/
def collDie (active dist own : List Nat) (home : Nat) (x : CollState × SMap Nat × List (Nat × Nat)) (d : Nat) :
    CollState × SMap Nat × List (Nat × Nat) :=
  let kids := collChildren active dist x.2.1 d
  if own.contains d = false ∧ kids = [] then x
  else
    let r := kids.foldl (fun (acc : Option Nat × SMap Nat × List (Nat × Nat)) k =>
      match acc.1 with
      | none => (some k.1, acc.2.1, acc.2.2 ++ [(d, k.2)])
      | some ready =>
        let s := max ready (max k.1 (SMap.get acc.2.1 d 0))
        (some (s + 4), SMap.set acc.2.1 d (s + 4) 0, acc.2.2 ++ [(d, k.2)]))
      ((if own.contains d then some 0 else none), x.1.addFree, x.2.2)
    let ready := r.1.getD 0
    let st := { x.1 with addFree := r.2.1 }
    if d = home then ({ st with done := max st.done ready }, x.2.1, r.2.2)
    else
      let up := (parentIn active dist d).getD d
      let s := max ready (SMap.get st.linkFree (d * 32 + up) 0)
      ({ st with linkFree := SMap.set st.linkFree (d * 32 + up) (s + 4) 0, links := st.links ++ [(d, up, s)] },
        SMap.set x.2.1 d (s + 16) 0, r.2.2)

/-- One block's turn: its dies from the farthest to its home. -/
def collBlock (active : List Nat) (st : CollState) (q : Nat × List Nat) : CollState :=
  let home := q.2.headD 0
  let dist := distances active home
  let order := sortBy (fun x y => dist.getD y 99 ≤ dist.getD x 99) active
  let r := order.foldl (collDie active dist q.2 home) (st, [], [])
  { r.1 with merges := r.1.merges ++ [(q.1, r.2.2)] }

/-- The collection of an operation: the collected blocks in collection order through the schedule of R119. -/
def collection (active : List Nat) (contribs : List (Nat × List Nat)) : CollState :=
  let qs := contribs.filter fun c => 1 < c.2.length
  let ordered := sortBy (fun (x y : Nat × List Nat) =>
    x.2.headD 0 < y.2.headD 0 || (x.2.headD 0 == y.2.headD 0 && x.1 ≤ y.1)) qs
  ordered.foldl (collBlock active) { addFree := [], linkFree := [], done := 0, links := [], merges := [] }

/-- Partials joined in the order of the schedule, by the collectors' own adders, which present no row updates to the banks (log entry 150): `get` gives each die's own, `merges` the additions; the block as its
home holds it, and the additions that wrapped (R110 step 4, R119). -/
def collectValue (mode : AccMode) (get : Nat → Partial) (own : List Nat) (merges : List (Nat × Nat)) : Partial × Nat :=
  let start : List (Nat × Partial) := own.map fun d => (d, get d)
  let r := merges.foldl (fun (acc : List (Nat × Partial) × Nat) m =>
    match acc.1.find? (fun x => x.1 = m.2) with
    | none => acc
    | some c =>
      match acc.1.find? (fun x => x.1 = m.1) with
      | none => ((m.1, c.2) :: acc.1, acc.2)
      | some x =>
        let y := x.2.merge mode c.2
        (acc.1.map fun z => if z.1 = m.1 then (m.1, y.1) else z, acc.2 + y.2)) (start, 0)
  match r.1.find? (fun x => x.1 = own.headD 0) with
  | some x => (x.2, r.2)
  | none => (get (own.headD 0), r.2)

end Sys2Proof.Machine
end

