-- ==== Sys2Proof/Machine/Results.lean ====
section
/-! DEFINITION. The blocks that an operation writes once its accumulators are complete: products (R102, R111, R146,
R451), PREDICT (R136, R137), SCATTER (R126), REDUCE (R128) and CONV (R97); the bytes of the writes (R120) and the bytes
a die moves (R164). -/

namespace Sys2Proof.Machine

/-- What the writing of an accumulating operation needs of its plan. -/
structure Layout where
  contribs : List (Nat × List Nat)
  merges : List (Nat × List (Nat × Nat))
  resole : List ResEntry
  /-- The resole entries whose engines make partials. -/
  resoled : List (Nat × Nat)
  unfilled : List Nat
  awlMode : Nat
deriving DecidableEq, Repr

/-- The accumulation mode of an operation. -/
def OpEnv.mode (e : OpEnv) (p : Product) : AccMode :=
  match e.o.kind with
  | .scatter => e.scatMode
  | .reduce => e.reduceMode
  | .conv => if e.convInt then .addI32 else .addF32
  | _ => p.mode

/-- Whether the accumulators hold INT32. -/
def OpEnv.intAcc (e : OpEnv) (p : Product) : Bool :=
  match e.o.kind with
  | .scatter => e.intA
  | .reduce => e.intA
  | .conv => e.convInt
  | _ => p.intAcc

/-- An empty partial of block `l`. -/
def OpEnv.emptyPartial (e : OpEnv) (l : Nat) : Partial :=
  Partial.empty l (e.c.h * e.c.w)

/-- The complete block `l` of the main phase: its collected or single partial, and the additions that wrapped. -/
def OpEnv.complete (e : OpEnv) (p : Product) (y : Layout) (part : Nat → Nat → Partial) (l : Nat) : Partial × Nat :=
  match y.contribs.find? (fun c => c.1 = l) with
  | none => (e.emptyPartial l, 0)
  | some c =>
    let ms := match y.merges.find? (fun m => m.1 = l) with
      | some m => m.2
      | none => []
    collectValue (e.mode p) (fun d => part d l) c.2 ms

/-- Whether block `l` has a contribution of the main phase. -/
def Layout.contributed (y : Layout) (l : Nat) : Bool := y.contribs.any fun c => c.1 = l

/-- The die that writes or classifies block `l` (R117, R120, R142, R451). -/
def OpEnv.writer (e : OpEnv) (y : Layout) (l : Nat) : Nat :=
  match y.contribs.find? (fun c => c.1 = l) with
  | some c => c.2.headD 0
  | none =>
    match y.resole.find? (fun r => r.blk = l) with
    | some r => if !r.admitted || y.resoled.contains (r.die, l) then r.die else e.byPosition l
    | none => e.byPosition l

/-! ## Products -/

/-- How a product comes by a block: its value from an accumulator, carried or zero under R146, or zero (R102). -/
inductive Source' where
  | acc | lost | zero
deriving DecidableEq, Repr

/-- The origin of block `l` of a product. -/
def Layout.origin (y : Layout) (l : Nat) : Source' :=
  if y.contributed l then .acc
  else match y.resole.find? (fun r => r.blk = l) with
    | some r => if !r.admitted then .lost else if y.resoled.contains (r.die, l) then .acc else .zero
    | none => if y.unfilled.contains l then .lost else .zero

/-- The blocks that a product writes (R102, R111, R120, R146, R147, R407). -/
def OpEnv.productOut (e : OpEnv) (p : Product) (y : Layout) (part : Nat → Nat → Partial) (bad : Bool) : List OutBlock :=
  let old := e.oldPresent
  let adm := if e.m.supplied && y.awlMode == 0 then e.admittedByMask else []
  let xs := (e.own.scan e.x).blocks.map fun b => b.l
  let fin := finishOf e.o p.intAcc e.c
  let sampling := e.o.kind == .sddmm && e.m.supplied
  (List.range e.c.nb).filterMap fun l =>
    let src := y.origin l
    let carry := src == .lost && e.o.lostVal
    let xi := e.x.readAt (unravel e.c.grid l)
    let inX := (List.range 6).all (fun d => xi.getD d 0 < e.x.grid.getD d 0) && xs.contains (ravel e.x.grid xi)
    let present := e.c.plain || e.c.full ||
      (if sampling then adm.contains l
       else if carry then inX
       else src == .acc || (e.o.accum && old.contains l))
    if !present then none
    else
      let d := e.writer y l
      let v := e.view d
      let lc := v.load e.c
      let lm := v.load e.m
      let lx := v.load e.x
      let blk := if src == .acc then
          (if y.contributed l then (e.complete p y part l).1 else part d l)
        else e.emptyPartial l
      let useM := e.m.supplied && y.awlMode == 0
      let elems := e.c.elemsOf l
      let allowed := fun x => !useM || (v.elemAt lm x).admitted
      let val := fun q x =>
        if carry then (v.elemAt lx x).val
        else if useM && adm.contains l && !allowed x then .zero
        else fin.value (match blk.lanes.getD q none with
          | some b => laneVal p.intAcc b
          | none => .zero) (oldElem v lc x).1
      let poison := bad || (if carry then elems.any fun x => (v.elemAt lx x.2).poison
        else blk.poison || (e.o.accum && elems.any fun x => (oldElem v lc x.2).2))
      let o := outBlock e.c d l poison val
      if sampling && e.c.masked && !e.c.plain then
        let m := (List.range (e.c.h * e.c.w)).map fun q =>
          let x := e.c.coords l q
          e.c.within x && allowed x
        some { o with mask := some m }
      else some o

/-! ## PREDICT -/

/-- What PREDICT settles: the prediction blocks and the counts of its classification (R136, R137, R150). -/
structure Predicted where
  outs : List OutBlock
  elems : Nat
  kept : Nat
  missed : Nat
  forced : Nat
deriving DecidableEq, Repr

/-- The classification of every block of C (R136, R451). -/
def OpEnv.predictOut (e : OpEnv) (p : Product) (y : Layout) (part : Nat → Nat → Partial) : Predicted :=
  let lm := e.own.load e.m
  let r := (List.range e.c.nb).map fun l =>
    (l, e.classBlock lm l (e.complete p y part l).1)
  { outs := r.filterMap fun x => e.predictionOut (e.writer y x.1) x.1 x.2,
    elems := listSum (r.map fun x => x.2.predicted), kept := listSum (r.map fun x => x.2.kept),
    missed := listSum (r.map fun x => x.2.missed), forced := listSum (r.map fun x => x.2.forced) }

/-! ## SCATTER, REDUCE, CONV -/

/-- The blocks that SCATTER writes: those with a targeted slice, and, in a blocked C with FULL clear, every block that
was present before, which the rewritten arrays may move (R126). -/
def OpEnv.scatterOut (e : OpEnv) (p : Product) (y : Layout) (part : Nat → Nat → Partial) (bad : Bool) : List OutBlock :=
  let il := e.indices e.positions e.extent
  let ts := il.targets
  let old := e.oldPresent
  let fin := finishOf e.o e.intA e.c
  (List.range e.c.nb).filterMap fun l =>
    let elems := e.c.elemsOf l
    let hit := elems.any fun x => ts.contains (x.2.getD e.o.axis 0)
    if !hit ∧ !(old.contains l) then none
    else
      let d := e.writer y l
      let v := e.view d
      let lc := v.load e.c
      let blk := (e.complete p y part l).1
      let vals := (List.range (e.c.h * e.c.w)).map fun q =>
        let x := e.c.coords l q
        if !e.c.within x then some .zero
        else if ts.contains (x.getD e.o.axis 0) then
          some (fin.value (match blk.lanes.getD q none with
            | some b => laneVal e.intA b
            | none => .zero) (oldElem v lc x).1)
        else if e.c.plain then none else some (oldElem v lc x).1
      let oldMask := match lc.blks.find? (fun b => b.1 = l) with
        | some b => b.2.mask
        | none => none
      let readOld := !e.c.plain || e.o.accum
      some { l := l, writer := d, vals := vals,
             mask := if hit then defaultMask e.c (vals.map fun x => x.getD .zero) else oldMask,
             poison := bad || blk.poison || (readOld && elems.any fun x => (oldElem v lc x.2).2) }

/-- One element of REDUCE: the accumulated lane joined with the zeros of absent blocks, or the value of an empty
reduction (R128). -/
def OpEnv.reduceValue (e : OpEnv) (x : List Nat) (lane : Option U32) : Val :=
  match lane, e.reduceZero x with
  | some b, false => laneVal e.intA b
  | some b, true => laneVal e.intA (((laneCombine e.reduceMode (some b) (some 0)).1).getD b)
  | none, true => .zero
  | none, false => e.reduceEmpty

/-- The blocks that REDUCE writes (R128). A blocked C with FULL clear takes the blocks with contributions, those kept
under ACCUM, and, where an empty reduction is not zero, every block. -/
def OpEnv.reduceOut (e : OpEnv) (p : Product) (y : Layout) (part : Nat → Nat → Partial) (bad : Bool) : List OutBlock :=
  let e := { e with c := e.reduceC }
  let old := e.oldPresent
  let fin := finishOf e.o e.intA e.c
  (List.range e.c.nb).filterMap fun l =>
    if !(e.c.plain || e.c.full || y.contributed l || (e.o.accum && old.contains l) || !e.reduceEmpty.isZero) then none
    else
      let d := e.writer y l
      let v := e.view d
      let lc := v.load e.c
      let blk := (e.complete p y part l).1
      let elems := e.c.elemsOf l
      some (outBlock e.c d l (bad || blk.poison || (e.o.accum && elems.any fun x => (oldElem v lc x.2).2)) fun q x =>
        fin.value (e.reduceValue x (blk.lanes.getD q none)) (oldElem v lc x).1)

/-- The blocks that CONV writes (R96, R97, R102). -/
def OpEnv.convOut (e : OpEnv) (p : Product) (y : Layout) (part : Nat → Nat → Partial) (bad : Bool) : List OutBlock :=
  let old := e.oldPresent
  let fin := finishOf e.o e.convInt e.c
  (List.range e.c.nb).filterMap fun l =>
    if !(e.c.plain || e.c.full || y.contributed l || (e.o.accum && old.contains l)) then none
    else
      let d := e.writer y l
      let v := e.view d
      let lc := v.load e.c
      let blk := (e.complete p y part l).1
      let elems := e.c.elemsOf l
      some (outBlock e.c d l (bad || blk.poison || (e.o.accum && elems.any fun x => (oldElem v lc x.2).2)) fun q x =>
        fin.value (match blk.lanes.getD q none with
          | some b => laneVal e.convInt b
          | none => .zero) (oldElem v lc x).1)

/-! ## All operations -/

/-- The C that an operation writes. -/
def OpEnv.target (e : OpEnv) : Tensor := if e.o.kind == .reduce then e.reduceC else e.c

/-- The output blocks of an operation, from the partials its dies hold; `bad` when its metadata read poisoned (R408). -/
def OpEnv.outs (e : OpEnv) (p : Product) (y : Layout) (part : Nat → Nat → Partial) (bad : Bool) : List OutBlock :=
  let mark := fun (l : List OutBlock) => if bad then l.map fun o => { o with poison := true } else l
  match e.o.kind with
  | .spmm => e.productOut p y part bad
  | .spgemm => e.productOut p y part bad
  | .sddmm => e.productOut p y part bad
  | .predict => mark (e.predictOut p y part).outs
  | .conv => e.convOut p y part bad
  | .gather => mark e.gatherOut
  | .scatter => e.scatterOut p y part bad
  | .eltwise => mark e.eltOut
  | .reduce => e.reduceOut p y part bad
  | .softmax => mark e.softOut
  | .toBlocked => mark e.toBlockedOut
  | .toPlain => mark e.toPlainOut
  | .blockTrans => []
  | .transCopy => []
  | .unknown => []

/-- The writes of output blocks into C's layout (R52, R58 to R60, R120). -/
def OpEnv.writesOf (e : OpEnv) (outs : List OutBlock) : List OutWrite :=
  let t := e.target
  if t.plain then
    t.plainWrites (fun d x => ((e.view d).elemAt ((e.view d).load t) x).val) outs
  else t.blockedWrites e.die0 outs

/-! ## Bytes moved -/

/-- The bytes of the plain elements at given coordinates, and of the scales of their groups. -/
def Tensor.plainBytes (t : Tensor) (xs : List (List Nat)) : Nat :=
  ceilDiv (xs.length * t.enc.width) 8 + (if t.mx then (dedup (xs.map t.plainScale)).length else 0)

/-- The bytes of one output block: record and mask, or its assigned elements with their scales (R164). -/
def outBytes (t : Tensor) (o : OutBlock) : Nat :=
  if t.plain then t.plainBytes (((t.elemsOf o.l).filter fun p => (o.vals.getD p.1 none).isSome).map fun p => p.2)
  else t.recSize + (if o.mask.isSome then t.maskSize else 0)

/-- The bytes of old C read for a block under ACCUM (R164). -/
def OpEnv.oldBytes (e : OpEnv) (lc : Loaded) (o : OutBlock) : Nat :=
  let t := e.target
  if !e.o.accum then 0
  else if t.plain then t.plainBytes (((t.elemsOf o.l).filter fun p => (o.vals.getD p.1 none).isSome).map fun p => p.2)
  else match lc.blks.find? (fun b => b.1 = o.l) with
    | some b => t.recSize + (if b.2.mask.isSome then t.maskSize else 0)
    | none => 0

/-- The bytes of carried values read for a block (R146, R164). -/
def OpEnv.carriedBytes (e : OpEnv) (sx : Scan) (y : Layout) (l : Nat) : Nat :=
  if e.o.lostVal && y.origin l == .lost && e.o.kind.isProduct then
    if e.x.plain then e.x.plainBytes (((e.c.elemsOf l).map fun p => e.x.readAt p.2).filter e.x.within)
    else match sx.find (ravel e.x.grid (e.x.readAt (unravel e.c.grid l))) with
      | some b => e.x.recSize + (if b.mask.isSome then e.x.maskSize else 0)
      | none => 0
  else 0

/-- The bytes of C's node arrays as written by the die ranked 0 (R120). -/
def OpEnv.nodeBytes (e : OpEnv) (outs : List OutBlock) : Nat :=
  let t := e.target
  if t.plain ∨ t.full then 0
  else listSum ((t.nodeBytes (outs.map fun o => o.l) []).map fun n => n.2.length)

/-- y of R164 on a die. -/
def OpEnv.bytesMoved (e : OpEnv) (y : Layout) (outs : List OutBlock) (die : Nat) : Nat :=
  let lc := e.own.load e.target
  let sx := e.own.scan e.x
  listSum ((outs.filter fun o => o.writer = die).map fun o =>
    outBytes e.target o + e.oldBytes lc o + e.carriedBytes sx y o.l) +
    (if die = e.die0 then e.nodeBytes outs else 0)

end Sys2Proof.Machine
end

