-- ==== Sys2Proof/Machine/Plan.lean ====
section
/-! DEFINITION. Binding: the segments each engine runs (R84, R452), the metadata a die reads (R84, R139, R159), the
phase lengths (R160 to R165) and the plan that lasting makes of them. -/

namespace Sys2Proof.Machine

/-! ## Dealing -/

/-- The work units of an operation without tiles (R452). -/
def OpEnv.unitsOf (e : OpEnv) : List WorkUnit :=
  match e.o.kind with
  | .conv => e.convUnits
  | .gather => e.windows
  | .scatter => e.windows
  | .eltwise => e.eltUnits
  | .reduce => e.blockUnits e.a
  | .softmax => e.softUnits
  | .toBlocked => e.blockUnits e.a
  | .toPlain => e.blockUnits e.a
  | .blockTrans => e.blockUnits e.a
  | _ => []

/-- The search of every share of CONV, by share (R97). -/
def OpEnv.searches (e : OpEnv) : List (Nat × ConvSearch) :=
  let sites := e.siteList e.eye
  (List.range e.shares).filterMap fun s => if e.convShare s = [] then none else some (s, e.convSearch sites s)

/-- The segments of the first phase (R84, R97, R452). -/
def OpEnv.mainSegments (e : OpEnv) (tiles : List Tile) : List Segment :=
  if e.o.kind.isProduct then dealTiles e.shares e.shareDie tiles
  else if e.o.kind = .conv then
    (List.range e.shares).filterMap fun s =>
      let mine := e.convShare s
      if mine = [] then none
      else some { die := (e.shareDie s).1, engine := (e.shareDie s).2, tile := mine.headD 0, dense := true, units := mine.map unitOf }
  else dealUnits e.shares e.shareDie e.unitsOf

/-- The segments of CONV's compute phase: one for each engine with hits, its units the triples (q, p, δ) (R97). -/
def OpEnv.computeSegments (e : OpEnv) (found : List (Nat × ConvSearch)) : List Segment :=
  found.filterMap fun x =>
    if x.2.hits = [] then none
    else some { die := (e.shareDie x.1).1, engine := (e.shareDie x.1).2, tile := (x.2.hits.headD (0, 0, 0)).2.1, dense := true,
                units := x.2.hits.map fun h => { a := h.1, b := h.2.1, c := h.2.2, d := 0, weight := 1 } }

/-- The ordinal that places block `l` of a segment in a bank group (R161): its tile's, or its first unit's. -/
def OpEnv.ordinal (e : OpEnv) (sg : Segment) (l : Nat) : Nat :=
  if e.o.kind = .conv then
    let row := (unravel e.c.grid l).getD 1 0
    match (hitsOf sg).find? (fun h => h.2.1 / e.c.h = row) with
    | some h => h.2.1
    | none => sg.tile
  else sg.tile

/-! ## Metadata -/

/-- The operands whose node arrays and masks the clicker reads (R84): A, B and M where the operation uses them. -/
def OpEnv.metaTensors (e : OpEnv) (p : Product) : List (Opd × Tensor) :=
  match e.o.kind with
  | .spmm => [(.a, p.a.t), (.b, p.b.t), (.m, e.m)]
  | .spgemm => [(.a, p.a.t), (.b, p.b.t), (.m, e.m)]
  | .sddmm => [(.a, p.a.t), (.b, p.b.t), (.m, e.m)]
  | .predict => [(.a, p.a.t), (.b, p.b.t), (.m, e.m)]
  | .conv => [(.a, e.a), (.b, e.b)]
  | .gather => [(.a, e.a)]
  | .scatter => [(.a, e.a)]
  | .eltwise => [(.a, e.a)] ++ (if e.func ≤ 3 then [(.b, e.b)] else []) ++ [(.m, e.m)]
  | .reduce => [(.a, e.a), (.m, e.m)]
  | .softmax => [(.a, e.a), (.m, e.m)]
  | .toBlocked => [(.a, e.a)]
  | .toPlain => [(.a, e.a)]
  | .blockTrans => [(.a, e.a)]
  | .transCopy => []
  | .unknown => []

/-- The masked blocks of a tensor among those with the given indices. -/
def maskedOf (sc : Scan) (ls : List Nat) : List Nat :=
  (sc.blocks.filter fun b => b.mask.isSome && ls.contains b.l).map fun b => b.l

/-- The masked blocks of each operand that a die's clicker reads: those of its own units (R84 step 5), and for SOFTMAX
every mask of M, whose counts weigh the slices (DEDUCED, log entry 28). `res` gives the tiles and segments of the resole phase,
whose units are dealt in the same way (R142). -/
def OpEnv.masksRead (e : OpEnv) (p : Product) (tiles : List Tile) (segs : List Segment) (res : List Tile × List Segment)
    (die : Nat) : List (Opd × List Nat) :=
  let mine := segs.filter fun sg => sg.die = die
  let v := e.own
  if e.o.kind.isProduct then
    let pairsOf := fun (ts : List Tile) (l : List Segment) => (l.filter fun sg => sg.die = die).flatMap fun sg =>
      match ts[sg.tile]? with
      | some t => sg.units.map fun u => (opdBlock p.a.t u.a t.row t.batch, opdBlock p.b.t u.b u.a t.batch)
      | none => []
    let pairs := pairsOf tiles segs ++ pairsOf res.1 res.2
    [(.a, maskedOf p.a.scan (pairs.filterMap fun x => x.1)), (.b, maskedOf p.b.scan (pairs.filterMap fun x => x.2))]
  else
    let ls := mine.flatMap fun sg => sg.units.map fun u => u.a
    match e.o.kind with
    | .eltwise =>
      let touch := fun (t : Tensor) => (v.scan t).blocks.filter fun b => b.mask.isSome && ls.any fun l => overlaps e.c l t [b.l]
      [(.a, (touch e.a).map fun b => b.l), (.b, if e.func ≤ 3 then (touch e.b).map fun b => b.l else []),
       (.m, (touch e.m).map fun b => b.l)]
    | .softmax => [(.m, ((v.scan e.m).blocks.filter fun b => b.mask.isSome).map fun b => b.l)]
    | .conv => [(.b, ((v.scan e.b).blocks.filter fun b => b.mask.isSome).map fun b => b.l)]
    | .gather => []
    | .scatter => []
    | _ => [(.a, maskedOf (v.scan e.a) ls)]

/-- The masks and sign planes of a prediction tensor that every clicker reads over the whole operation: their number
and bytes (R139, R160). A plain M, and a FULL one without MASKED, gives none. -/
def OpEnv.signReads (e : OpEnv) (awlMode : Nat) : Nat × Nat :=
  if awlMode = 0 ∨ e.m.plain ∨ (e.m.full && !e.m.masked) then (0, 0)
  else
    let bs := (e.own.scan e.m).blocks
    let ms := (bs.filter fun b => b.mask.isSome).length
    ((if e.m.masked then bs.length else 0) + ms, bs.length * e.m.recSize + ms * e.m.maskSize)

/-- The metadata bytes that a die reads for a tensor (R159). -/
def OpEnv.metaBytes (e : OpEnv) (masks : List (Opd × List Nat)) (awlMode : Nat) (x : Opd × Tensor) : Nat :=
  let nodes := listSum ((e.own.scan x.2).ranges.map fun r => r.2)
  let own := match masks.find? (fun m => m.1 = x.1) with
    | some m => m.2.length * x.2.maskSize
    | none => 0
  nodes + own + (if x.1 = .m then (e.signReads awlMode).2 else 0)

/-- t_fetch of R159: nothing to read takes no time. -/
def fetchTime (m : Nat) : Nat := if m = 0 then 0 else 96 + ceilDiv m 256

/-! ## Phase lengths -/

/-- t_wr and t_cls of R164, and the convert phase of R165. -/
def writeTime (nw y : Nat) : Nat := 16 + ceilDiv nw 2 + ceilDiv y 240

/-- t_cls of R164. -/
def classTime (nh y : Nat) : Nat := 16 + ceilDiv nh 8 + ceilDiv y 240

/-- T of R94. -/
def OpEnv.transposeTime (e : OpEnv) : Nat :=
  let bs := (e.own.scan e.a).blocks
  800 + ceilDiv e.a.nb 256 + ceilDiv (bs.length * (e.a.recSize + (if e.a.masked then e.a.maskSize else 0))) (240 * e.count)

/-- The largest over a die's engines of a sum over the engine's segments. -/
def engineMax (segs : List Segment) (f : Segment → Nat) : Nat :=
  listMax ((List.range 40).map fun e => listSum ((segs.filter fun sg => sg.engine = e).map f))

/-- The length of a die's first phase but for t_wr, from its segments with their costs (R163, R165). -/
def OpEnv.firstLength (e : OpEnv) (die : Nat) (costed : List (Segment × SegCost)) (found : List (Nat × ConvSearch)) : Nat :=
  let segs := costed.map fun x => x.1
  let v := e.view die
  match e.o.kind with
  | .conv => listMax ((found.filter fun x => (e.shareDie x.1).1 = die).map fun x =>
      ceilDiv x.2.inserted.length 4 + ceilDiv x.2.lookups 4 + 7)
  | .gather =>
    let il := e.indices e.positions e.extent
    engineMax segs fun sg => listSum (sg.units.map fun u => 23 + ceilDiv ((windowReads (il.window u.a)).1 * e.sliceBytes) 64)
  | .scatter =>
    let il := e.indices e.positions e.extent
    dieLength costed fun x => listSum (x.1.units.map fun u => 23 + ceilDiv ((il.window u.a).length * e.sliceBytes) 64)
  | .eltwise =>
    let phi := if e.func = 5 then 32 else 64
    engineMax segs fun sg => listSum (sg.units.map fun u => ceilDiv ((e.c.elemsOf u.a).length) phi)
  | .reduce => listMax ((List.range 40).map fun k =>
      let mine := costed.filter fun x => x.1.engine = k
      if mine = [] then 0
      else ceilDiv (listSum (mine.map fun x => listSum (x.1.units.map fun u => (e.a.elemsOf u.a).length))) 64 +
        engineTime costed mine)
  | .softmax =>
    let la := v.load e.a
    let lm := v.load e.m
    let sl := e.slices
    engineMax segs fun sg => listSum (sg.units.map fun u =>
      24 + 3 * ceilDiv (e.admittedOf v la lm (sl.getD u.a [])).length 32)
  | _ => dieLength costed fun x => x.2.lambda x.1.dense

/-- A segment's cost where the operation accumulates; the others need none. -/
def OpEnv.costOf (e : OpEnv) (p : Product) (tiles : List Tile) (sg : Segment) : List (Nat × Nat) × SegCost :=
  match e.o.kind with
  | .gather => ([], SegCost.zero)
  | .eltwise => ([], SegCost.zero)
  | .softmax => ([], SegCost.zero)
  | .toBlocked => ([], SegCost.zero)
  | .toPlain => ([], SegCost.zero)
  | .blockTrans => ([], SegCost.zero)
  | _ => e.segmentInfo p tiles sg

/-- A die's own partial of a block over its segments, engine after engine (R110). -/
def OpEnv.purePartial (e : OpEnv) (p : Product) (tiles : List Tile) (segs : List Segment) (die l : Nat) : Partial :=
  (segs.filter fun sg => sg.die = die).foldl (fun acc sg =>
    ((e.segmentPartials p tiles sg).1.filter fun x => x.l = l).foldl (fun acc x => (acc.merge (e.mode p) x).1) acc)
    (e.emptyPartial l)

/-- What planning counts besides the plan (R81, R124). -/
structure PlanCounts where
  dense : Nat
  sparse : Nat
  pairs : Nat
  drops : Nat
  spills : Nat
  s48 : Nat
  tmask : Nat
  siteDup : Nat
  base : Bool
deriving DecidableEq, Repr

/-- The blocks of a product read dense in a transposed role over the work units of the main and resole phases, by counter, each once
(R81, R92). -/
def OpEnv.breaks (e : OpEnv) (p : Product) (work : List (Tile × Segment)) : List Nat :=
  let pairs := work.flatMap fun x =>
    x.2.units.map fun u => (opdBlock p.a.t u.a x.1.row x.1.batch, opdBlock p.b.t u.b u.a x.1.batch)
  let of := fun (o : ProdOpd) (ls : List Nat) =>
    if !o.trans then []
    else ((o.scan.blocks.filter fun b => ls.contains b.l).map fun b => (e.own.prodBlock o b).breaks).filterMap id
  of p.a (pairs.filterMap fun x => x.1) ++ of p.b (pairs.filterMap fun x => x.2)

/-- The same for the other operations that read an operand transposed: the blocks whose masks their clickers read (R67, R81, R92). -/
def OpEnv.otherBreaks (e : OpEnv) (masks : List (Opd × List Nat)) : List Nat :=
  let of := fun (o : Opd) (t : Tensor) =>
    if !t.trans ∨ t.plain then []
    else
      let ls := (masks.filter fun m => m.1 = o).flatMap fun m => m.2
      ((e.own.scan t).blocks.filter fun b => b.mask.isSome && ls.contains b.l).filterMap fun b => (e.own.transBlock t t.w t.h b).2
  of .a e.a ++ of .b e.b

/-- The resole queue of an operation with the budget in force (R141, R144). -/
def OpEnv.queueOf (e : OpEnv) (p : Product) (rb : Nat) : List ResEntry :=
  e.resoleQueue p e.theta (if e.knobs.budget = 0 then rb else e.knobs.budget) e.awl (if e.awl = 0 then [] else e.classes.queued)

/-- The product whose main phase runs the blocks that M admits, or that a prediction computes (R79, R140). -/
def OpEnv.mainProduct (e : OpEnv) : Product :=
  e.product (if e.awl ≠ 0 then some (e.classes.computed.map fun x => x.1)
    else if e.o.kind.isProduct && e.m.supplied then some e.admittedByMask else none)

/-- Segments with their costs, the bank groups of their blocks' slots entered (R115, R161). -/
def groupCosts (slots : List SlotAsg) (res : Bool) (info : List (Segment × List (Nat × Nat) × SegCost)) : List (Segment × SegCost) :=
  info.map fun i =>
    (i.1, { i.2.2 with groups := slotGroups slots res i.1.die ((i.2.1.filter fun b => b.2 ≠ 0).map fun b => b.1) })

/-- What a die binds from its own reading of the last: barrier slack and scheduling mode (R157, R169). -/
def OpEnv.slackOf (e : OpEnv) (l : Last) : Nat := if e.knobs.slack = 0 then l.sym.sl else e.knobs.slack

/-- Interactive mode (R169). -/
def OpEnv.interactiveOf (e : OpEnv) (l : Last) : Bool :=
  match e.knobs.sched with
  | 1 => true
  | 2 => false
  | _ =>
    let sched := bits l.hdr.lflags 1 0
    if sched = 1 then true else if sched = 2 then false else !e.o.thru

/-- Level-1 nodes that the clicker reads of an operand: a plain operand of a product is read as a FULL tensor (R54, R78, R160). -/
def OpEnv.nodesOf (e : OpEnv) (t : Tensor) : Nat :=
  if t.plain && e.o.kind.isProduct then ceilDiv t.nb 64 else (e.own.scan t).n1

/-- The admitted blocks of a die, in queue order. -/
def admittedOf (q : List ResEntry) (d : Nat) : List Nat := (q.filter fun r => r.die = d ∧ r.admitted).map fun r => r.blk

/-- The plan that die `eye` makes of an operation, and what planning counts (R98, R117 to R119, R139 to R144, R155 to
R166, R169). -/
def makePlan (s : State) (desc : List Byte) (active : List Nat) (eye : Nat) (knobs : Knobs) (snaps : SMap (SMap Byte)) :
    Plan × PlanCounts :=
  let e := mkEnv s desc active eye knobs snaps
  let o := e.o
  let act := maskOf 20 fun d => active.contains d
  let last := e.own.last o.last act
  let product := e.o.kind.isProduct
  let cl := if e.awl = 0 then { computed := [], queued := [], unfilled := [] } else e.classes
  let p := e.mainProduct
  let tiles := if product then p.tiles last.sym.tw e.theta o.pathSel else []
  let segs := e.mainSegments tiles
  let found := if o.kind = .conv then e.searches else []
  let q := e.queueOf p last.sym.rb
  let segs2 := if o.kind = .conv then e.computeSegments found
    else active.flatMap fun d => p.resoleSegments e.theta o.pathSel d (admittedOf q d)
  let accSegs := if o.kind = .conv then segs2 else segs
  let info := accSegs.map fun sg => (sg, e.costOf p tiles sg)
  let resTiles := fun d => (admittedOf q d).map (p.entryTile e.theta o.pathSel)
  let free := { p with admitted := none }
  let resInfo := if o.kind = .conv then [] else segs2.map fun sg => (sg, e.costOf free (resTiles sg.die) sg)
  let items := fun (x : List (Segment × List (Nat × Nat) × SegCost)) => x.flatMap fun i =>
    (i.2.1.filter fun b => b.2 ≠ 0).map fun b => (i.1.die, e.ordinal i.1 b.1, b.1)
  let slots := assignSlots last.sym.slotBase (items info) (items resInfo)
  let costed := groupCosts slots false info
  let costedRes := groupCosts slots true resInfo
  let contribs := contributions active (accSegs.flatMap fun sg => (e.segmentBlocks p tiles sg).map fun l => (sg.die, l))
  let coll := collection active contribs
  let resoled := resInfo.flatMap fun i => i.2.1.map fun b => (i.1.die, b.1)
  let y : Layout := { contribs := contribs, merges := coll.merges, resole := q, resoled := resoled, unfilled := cl.unfilled,
                      awlMode := e.awl }
  let part := fun d l => if contribs.any (fun c => c.1 = l) then e.purePartial p tiles accSegs d l
    else e.purePartial free (resTiles d) segs2 d l
  let outs := e.outs p y part false
  let root := barrierRoot active
  let n1 := listSum ((e.metaTensors p).map fun t => e.nodesOf t.2)
  let nt := if product then tiles.length else e.unitsOf.length
  let masksOf := fun d => e.masksRead p tiles segs (resTiles d, if product then segs2 else []) d
  let dieOf := fun d =>
    let mine := costed.filter fun i => i.1.die = d
    let mineRes := costedRes.filter fun i => i.1.die = d
    let ls := (e.view d).last o.last act
    let nm := listSum ((masksOf d).map fun m => m.2.length) + (e.signReads e.awl).1
    let ns := (segs.filter fun sg => sg.die = d).length + mineRes.length
    let tRebind := if o.kind = .conv then 24 + ceilDiv mine.length 8 else 0
    let nw := (outs.filter fun x => x.writer = d).length
    let yb := e.bytesMoved y outs d
    let first := if o.kind = .conv then e.firstLength d [] found else e.firstLength d mine found
    let tRes := dieLength mineRes fun x => x.2.resole
    let nh := ((List.range e.c.nb).filter fun l => e.writer y l = d).length
    let lens := match o.kind with
      | .predict => [first, coll.done + classTime nh yb]
      | .conv => [first + tRebind, (dieLength mine fun _ => 0) + writeTime nw yb]
      | .gather => [first + writeTime nw yb]
      | .eltwise => [first + writeTime nw yb]
      | .softmax => [first + writeTime nw yb]
      | .toBlocked => [200 + ceilDiv nw 2 + ceilDiv yb 240]
      | .toPlain => [200 + ceilDiv nw 2 + ceilDiv yb 240]
      | .blockTrans => [e.transposeTime]
      | .transCopy => [e.transTime]
      | .unknown => []
      | _ => if q = [] then [first, coll.done + writeTime nw yb] else [first, tRes, coll.done + writeTime nw yb]
    let floored := (List.range lens.length).map fun i => max (lens.getD i 0) (ls.sym.floors.getD i 0)
    let tLast := 24 + ceilDiv (ceilDiv ls.hdr.len 64 * 64) 256 + ceilDiv n1 8 + ceilDiv nt 32 + ceilDiv nm 32 + ceilDiv ns 8
    ({ die := d, tLast := tLast, tRebind := tRebind, lens := floored, tRes := tRes, tw := ls.sym.tw, slack := e.slackOf ls,
       interactive := e.interactiveOf ls } : DiePlan)
  let work := segs.filterMap (fun sg => tiles[sg.tile]?.map fun t => (t, sg)) ++
    segs2.filterMap (fun sg => (resTiles sg.die)[sg.tile]?.map fun t => (t, sg))
  let brk := if product then e.breaks p work else e.otherBreaks (active.flatMap masksOf)
  let dropBits := listSum ((e.metaTensors p).map fun t => (e.own.scan t.2).dropped)
  let conv := found.map fun x => x.2
  let run := tiles ++ (if o.kind = .conv then [] else active.flatMap resTiles)
  ({ dies := active.map dieOf, segments := segs, segments2 := segs2, slots := slots, contribs := contribs,
     merges := coll.merges, collLinks := coll.links, resole := q, unfilled := cl.unfilled,
     missMain := listSum (cl.computed.map fun x => x.2), root := root.1, depth := root.2, laps := last.laps, awlMode := e.awl,
     theta := e.theta },
   { dense := (run.filter fun t => t.dense).length, sparse := (run.filter fun t => !t.dense).length,
     pairs := listSum ((run.filter fun t => !t.dense).map fun t => t.units.length),
     drops := dropBits + (if product then p.drops else 0) + (if o.kind = .blockTrans then e.transPairs.2 else 0) +
       (if o.kind = .conv then (e.siteList e.eye).countP (fun x => x.isNone) else 0),
     spills := (if product then listSum ((info ++ resInfo).map fun i => i.2.2.passes - 1) else listSum (conv.map fun x => x.passes - 1)),
     s48 := brk.countP (fun b => b == 0x712006), tmask := brk.countP (fun b => b == 0x712007),
     siteDup := (dedup (conv.flatMap fun x => x.dups)).length, base := !last.variant })

/-- A plan with what one die binds itself in place of what it holds for that die: each die binds the bytes of the last and the metadata
as it reads them (R61, R155). The collection follows from the contributions so joined. -/
def Plan.rebind (pl new : Plan) (active : List Nat) (die : Nat) : Plan :=
  let other := fun {α : Type} (of : α → Nat) (a b : List α) => (a.filter fun x => of x ≠ die) ++ b.filter fun x => of x = die
  let contribs := contributions active
    ((pl.contribs.flatMap fun c => (c.2.filter fun d => d ≠ die).map fun d => (d, c.1)) ++
      new.contribs.flatMap fun c => (c.2.filter fun d => d = die).map fun d => (d, c.1))
  let coll := collection active contribs
  { pl with dies := pl.dies.map fun x => if x.die = die then (new.dies.find? fun y => y.die = die).getD x else x,
            segments := other Segment.die pl.segments new.segments, segments2 := other Segment.die pl.segments2 new.segments2,
            slots := other SlotAsg.die pl.slots new.slots, resole := other ResEntry.die pl.resole new.resole,
            contribs := contribs, merges := coll.merges, collLinks := coll.links }

end Sys2Proof.Machine
end

