-- ==== Sys2Proof/Machine/Array.lean ====
section
/-! DEFINITION. The named operations of the array: reaching the operation a die works on, holds (R172 to R174), reads
and control data (R218, R408), row updates (R106 to R109, R112), the effects of a phase's beginning (R159, R162), the
writes of C (R111, R120), barriers (R121, R167) and the close of an operation (R171). -/

namespace Sys2Proof.Machine

/-! ## Operations -/

/-- A die's progress in an operation. -/
def OpCtx.die (op : OpCtx) (d : Nat) : DieOp := op.dies.get d DieOp.waiting

/-- The operation with a die's progress replaced. -/
def OpCtx.putDie (op : OpCtx) (d : Nat) (x : DieOp) : OpCtx := { op with dies := op.dies.set d x DieOp.waiting }

/-- The die ranked 0 of an operation. -/
def OpCtx.die0 (op : OpCtx) : Nat := op.active.headD 0

/-- The descriptor's fields. -/
def OpCtx.od (op : OpCtx) : OpDesc := OpDesc.decode op.desc

/-- An operation that has run no step yet. -/
def OpCtx.blank : OpCtx :=
  { addr := 0, desc := [], descPoison := false, tTaken := 0, issuedAt := 0, active := [], dies := [], knobs := none, snaps := [], plan := none,
    noPhase := none, foundAt := 0, headerChecked := false, abandoned := false, barrier := Barrier.empty, gmax := [],
    writes := none, wrote := [], slotsUsed := [], poisoned := false, metaPoison := false, metaSeen := false, firstPoison := none,
    forecast := false, mirSeq := 0, counts := Counts.zero }

/-- The state with the operations replaced. -/
def State.putOps (s : State) (l : List OpCtx) : State := { s with arr := { s.arr with ops := l } }

/-- Operation `i` of those taken and not completed. -/
def State.op (s : State) (i : Nat) : OpCtx := s.arr.ops.getD i OpCtx.blank

/-- The state with operation `i` changed. -/
def State.onOp (s : State) (i : Nat) (f : OpCtx → OpCtx) : State :=
  match s.arr.ops[i]? with
  | some op => s.putOps (s.arr.ops.set i (f op))
  | none => s

/-- The first operation for which a property holds. -/
def State.findOp (s : State) (p : OpCtx → Bool) : Option Nat :=
  (List.range s.arr.ops.length).find? fun i => p (s.op i)

/-- The operation in which a die stands in a given stage. -/
def State.opAt (s : State) (d : Nat) (st : Stage) : Option Nat :=
  s.findOp fun op => op.active.contains d && decide ((op.die d).stage = st)

/-- The operation whose lasting or phases a die is in: the one its holds lengthen. -/
def State.opBusy (s : State) (d : Nat) : Option Nat :=
  s.findOp fun op => op.active.contains d &&
    (decide ((op.die d).stage = .lasting) || decide ((op.die d).stage = .running) || decide ((op.die d).stage = .arrived))

/-- The operation that a die's holds concern: the one it lasts or runs, or else the one whose metadata it fetches (R173, R174). -/
def State.opHeld (s : State) (d : Nat) : Option Nat :=
  match s.opBusy d with
  | some i => some i
  | none => s.opAt d .fetching

/-- The number of phases of an operation (R165). -/
def OpCtx.phases (op : OpCtx) : Nat :=
  match op.plan with
  | some p => ((p.dies.head?.map fun d => d.lens.length).getD 0)
  | none => 0

/-- A die that has bound nothing. -/
def DiePlan.none (d : Nat) : DiePlan :=
  { die := d, tLast := 0, tRebind := 0, lens := [], tRes := 0, tw := 16, slack := 0, interactive := false }

/-- A die's bound lengths. -/
def Plan.die (p : Plan) (d : Nat) : DiePlan :=
  (p.dies.find? fun x => x.die = d).getD (DiePlan.none d)

/-- The counts of operation `i` changed. -/
def State.opCount (s : State) (i : Nat) (f : Counts → Counts) : State := s.onOp i fun op => { op with counts := f op.counts }

/-- The length of a tick in array cycles at a clock step: 168 cycles at step 0 (R373, R375). -/
def tickCycles (step : Nat) : Nat := 12 * (14 - step)

/-! ## Holds -/

/-- Whether a die waits for late metadata, which a supply hold counts (R159, R173). -/
def DieOp.lateMeta (x : DieOp) (cycle : Nat) : Bool := decide (x.stage = .fetching) && x.due.any fun u => decide (u.2 ≤ cycle)

/-- A die's holds. -/
def State.hold (s : State) (d : Nat) : DieHold := s.arr.holds.get d DieHold.none

/-- The state with a die's holds replaced. -/
def State.putHold (s : State) (d : Nat) (h : DieHold) : State :=
  { s with arr := { s.arr with holds := s.arr.holds.set d h DieHold.none } }

/-- An ECC hold stops the die in this cycle. -/
def DieHold.ecc (h : DieHold) (cycle : Nat) : Bool := h.eccFrom ≤ cycle && cycle < h.eccUntil

/-- A power hold stops the die in this cycle: the first so many of every 64 (R386). -/
def DieHold.powered (h : DieHold) (cycle : Nat) : Bool :=
  match h.power with
  | some p => p.1 ≤ cycle && (cycle - p.1) % 64 < p.2
  | none => false

/-- The die is held in this cycle. -/
def DieHold.any (h : DieHold) (cycle : Nat) : Bool := h.ecc cycle || h.supply || h.powered cycle

/-- The die is held in the present cycle. -/
def State.held (s : State) (d : Nat) : Bool := (s.hold d).any s.cycle

/-- An ECC hold request raised on a die now: it begins in the next cycle and lasts 8, and extends one in force (R172). -/
def State.eccHold (s : State) (d : Nat) : State :=
  let h := s.hold d
  let start := if h.ecc s.cycle ∨ h.ecc (s.cycle + 1) then h.eccFrom else s.cycle + 1
  (s.putHold d { h with eccFrom := start, eccUntil := s.cycle + 9 }).bump 0x715004 1

/-- A supply hold raised on a die; one in force stays one (R173). -/
def State.supplyHold (s : State) (d : Nat) : State :=
  if (s.hold d).supply then s else (s.putHold d { s.hold d with supply := true }).bump 0x715006 1

/-! ## Reads and control data -/

/-- The reads that a die makes for operation `i`, one access a line: their counts, and the first poisoned line
(R407). -/
def State.opReads (s : State) (i d : Nat) (ranges : List (Nat × Nat)) : State :=
  let w := s.window (s.op i).od.task
  (s.taskReads w d ranges).foldl (fun s r =>
    (s.countTaskRead r).onOp i fun op =>
      { op with counts := op.counts.addTaskRead r,
                firstPoison := if r.poison ∧ op.firstPoison = none then r.phys.map fun p => p / 64 * 64 else op.firstPoison }) s

/-- A case of poisoned control data: counted and recorded (R408). -/
def State.controlPoison (s : State) (unit sub addr tag : Nat) : State :=
  (s.bump 0x71B005 1).event 1 3 unit sub (leBytes 8 addr ++ leBytes 4 tag)

/-- The tensor descriptor pointers that an operation uses (R69). -/
def OpDesc.pointers (o : OpDesc) : List Nat :=
  let l := match o.kind with
    | .spmm => [o.ta, o.tb, o.tc, o.tm, o.tx]
    | .spgemm => [o.ta, o.tb, o.tc, o.tm, o.tx]
    | .sddmm => [o.ta, o.tb, o.tc, o.tm, o.tx]
    | .conv => [o.ta, o.tb, o.tc, o.tx]
    | .gather => [o.ta, o.tc, o.tx]
    | .scatter => [o.ta, o.tc, o.tx]
    | .eltwise => [o.ta, o.tb, o.tc, o.tm, o.tx]
    | .reduce => [o.ta, o.tc, o.tm]
    | .softmax => [o.ta, o.tc, o.tm]
    | .toBlocked => [o.ta, o.tc]
    | .toPlain => [o.ta, o.tc]
    | .blockTrans => [o.ta, o.tc]
    | .predict => [o.ta, o.tb, o.tc, o.tm]
    | .transCopy => [o.ta, o.tc]
    | .unknown => []
  (l.map fun p => p % 2 ^ 52).filter fun p => p ≠ 0

/-! ## Row updates -/

/-- The bank of a physical row key: row `key % 64` of slot `key / 64 % 4096` (R104). -/
def accBank (key : Nat) : Nat :=
  let slot := key / 64 % 4096
  16 * (slot % 4) + ((key % 16) ^^^ (slot / 4 % 16))

/-- One word of a row or line read in error (R192): the word delivered, whether a correction is counted, and whether it
is found uncorrectable. -/
def wordRead (w : U64) (f : WordFault) : U64 × Bool × Bool :=
  match f with
  | .single => (w, true, false)
  | .double => (w, false, true)
  | .multiDetected => (w, false, true)
  | .multiMiscorrected v => (v, true, false)
  | .multiUnseen v => (v, false, false)

/-- The errors of a read applied to its eight 64-bit words: the words, the corrections, and whether any is
uncorrectable. -/
def wordsRead (words : List U64) (errs : List WordErr) : List U64 × Nat × Bool :=
  errs.foldl (fun acc e =>
    if e.word < 8 then
      let r := wordRead (acc.1.getD e.word 0) e.fault
      (acc.1.set e.word r.1, acc.2.1 + (if r.2.1 then 1 else 0), acc.2.2 || r.2.2)
    else acc) (words, 0, false)

/-- The counts of a protected read: corrections at 7160:09, an uncorrectable one at 7160:0A (R192). -/
def State.countWords (s : State) (corrected : Nat) (bad : Bool) : State :=
  let s1 := if corrected = 0 then s else s.bump 0x716009 corrected
  if bad then s1.bump 0x71600A 1 else s1

/-- A row's sixteen lanes as eight words, and back. -/
def rowWords (vals : List (Option U32)) : List U64 :=
  (List.range 8).map fun i => BitVec.ofNat 64 (((vals.getD (2 * i) none).getD 0).toNat + 2 ^ 32 * ((vals.getD (2 * i + 1) none).getD 0).toNat)

/-- Lanes after their words were read: a lane that held no value keeps none unless its word changed. -/
def wordLanes (vals : List (Option U32)) (words : List U64) : List (Option U32) :=
  (List.range 16).map fun q =>
    let w := (words.getD (q / 2) 0).toNat
    let x : U32 := BitVec.ofNat 32 (if q % 2 = 0 then w else w / 2 ^ 32)
    match vals.getD q none with
    | some _ => some x
    | none => if x = 0 then none else some x

/-- The update of a row held by a slot whose valid bit is set, and the additions that wrapped (R106, R108, R109, R195);
`errs` are the errors found in the row as read. -/
def accCombine (old : AccRow) (req : AccReq) (errs : List WordErr) : AccRow × Nat × Nat × Bool :=
  let rd := wordsRead (rowWords old.vals) errs
  let vals := wordLanes old.vals rd.1
  let r := lanesCombine req.mode vals req.vals old.pos req.pos
  ({ vals := r.1, flag := flagOf (majority old.flag || req.poison || rd.2.2), pos := r.2.1 }, r.2.2, rd.2.1, rd.2.2)

/-- The bound that an update carries added to its slot's (R135). -/
def ArrayState.addBound (a : ArrayState) (slot : Nat) (b : Option U32) : ArrayState :=
  if b = none then a else { a with bounds := a.bounds.set slot (laneCombine .addF32 (a.bounds.get slot none) b).1 none }

/-- A row update accepted by its bank (R105, R106, R107, R131, R195). The first update of an invalid slot writes its
row and leaves every other row of the slot as zeros. -/
def State.accApply (s : State) (i d : Nat) (req : AccReq) (errs : List WordErr) : State :=
  match req.row with
  | none => (s.bump 0x717002 1).opCount i fun c => { c with clipped := c.clipped + 1 }
  | some k =>
    let s0 := { s.bump 0x713001 1 with arr := { (s.bump 0x713001 1).arr.addBound (k / 64) req.bound with
      accBusy := s.arr.accBusy.set (d * 64 + accBank k) (s.cycle + 1) 0 } }
    if s.arr.valid.get (k / 64) false then
      let r := accCombine (s.arr.acc.get k AccRow.zero) req errs
      let s1 := { s0 with arr := { s0.arr with acc := s0.arr.acc.set k r.1 AccRow.zero } }
      let s2 := if r.2.1 = 0 then s1 else (s1.bump 0x713009 r.2.1).opCount i fun c => { c with intWrap := c.intWrap + r.2.1 }
      s2.countWords r.2.2.1 r.2.2.2
    else
      let cleared := s0.arr.acc.filter fun x => x.1 / 64 ≠ k / 64
      let row : AccRow := { vals := req.vals, flag := flagOf req.poison, pos := req.pos }
      { s0 with arr := { s0.arr with acc := SMap.set cleared k row AccRow.zero, valid := s0.arr.valid.set (k / 64) true false } }

/-- The pre-reducer of requester `r` of a die. -/
def State.flushOf (s : State) (d r : Nat) : Flush := s.arr.flush.get (d * 41 + r) Flush.empty

/-- The state with a requester's pre-reducer replaced. -/
def State.putFlush (s : State) (d r : Nat) (f : Flush) : State :=
  { s with arr := { s.arr with flush := s.arr.flush.set (d * 41 + r) f Flush.empty } }

/-- The buffers swap, at cycle `ran` of the phase or before, as often as the lanes have ended a segment and the full buffer is empty
(R112 step 2): the next segment then fills the other buffer. -/
def Flush.swapFrom (ran : Nat) : List (Nat × List AccReq) → Flush → Flush
  | [], f => f
  | x :: more, f =>
    let t := max f.fillEnd f.freeAt
    if f.full ≠ [] ∨ ran < t then f
    else Flush.swapFrom ran more { f with full := x.2, waiting := more, freeAt := t, fillEnd := t + ((more.head?.map Prod.fst).getD 0) }

/-- A pre-reducer as it stands at cycle `ran` of the phase. -/
def Flush.at (f : Flush) (ran : Nat) : Flush := Flush.swapFrom ran f.waiting f

/-- A pre-reducer with the row at its head presented in `cycle`: taken from the buffer, or kept where the bank refused it (R112, R114). -/
def Flush.sent (f : Flush) (ran cycle : Nat) (taken : Bool) : Flush :=
  if taken then { f with full := f.full.drop 1, freeAt := ran + 1, sentAt := cycle + 1 } else { f with sentAt := cycle + 1 }

/-- Segments added behind those a pre-reducer has, each with the cycles it takes the lanes. -/
def Flush.add (f : Flush) (l : List (Nat × List AccReq)) : Flush :=
  if f.waiting = [] ∧ f.full = [] then { Flush.empty with waiting := l, fillEnd := (l.head?.map Prod.fst).getD 0, sentAt := f.sentAt }
  else { f with waiting := f.waiting ++ l }

/-- Every row update that a pre-reducer holds. -/
def Flush.rows (f : Flush) : List AccReq := f.full ++ f.waiting.flatMap fun x => x.2

/-- A bank's conflict queue. -/
def State.confOf (s : State) (d b : Nat) : List AccReq := s.arr.confQ.get (d * 64 + b) []

/-- The state with a bank's conflict queue replaced. -/
def State.putConf (s : State) (d b : Nat) (l : List AccReq) : State :=
  { s with arr := { s.arr with confQ := s.arr.confQ.set (d * 64 + b) l [] } }

/-- Everything a die's queues and pre-reducers hold, accepted at once: the queues oldest first, then the flushes engine by engine (R110,
R114 to R116). -/
def State.drainAcc (s : State) (i d : Nat) : State :=
  let s1 := (List.range 64).foldl (fun s b =>
    ((s.confOf d b).foldl (fun s r => s.accApply i d r []) s).putConf d b []) s
  (List.range 41).foldl (fun s e => ((s.flushOf d e).rows.foldl (fun s r => s.accApply i d r []) s).putFlush d e Flush.empty) s1

/-- A die's queues and pre-reducers emptied without effect (R417). -/
def State.dropAcc (s : State) (d : Nat) : State :=
  let s1 := (List.range 64).foldl (fun s b => s.putConf d b []) s
  (List.range 41).foldl (fun s e => s.putFlush d e Flush.empty) s1

/-- Nothing waits in a die's pre-reducers and conflict queues: its updates have all been accepted (R115, R116). -/
def State.accSettled (s : State) (d : Nat) : Bool :=
  (List.range 41).all (fun e => decide ((s.flushOf d e).rows = [])) && (List.range 64).all fun b => decide (s.confOf d b = [])

/-- The valid bits of a die cleared (R106, R159). -/
def State.clearValid (s : State) (d : Nat) : State :=
  { s with arr := { s.arr with valid := s.arr.valid.filter fun x => x.1 / 4096 ≠ d,
                                 bounds := s.arr.bounds.filter fun x => x.1 / 4096 ≠ d, acc := s.arr.acc.filter fun x => x.1 / 64 / 4096 ≠ d } }

/-! ## Environments of an operation under way -/

/-- The planning objects of an operation as read when its planning started; as they stand while it has not (R82, R150, R185). -/
def State.knobsOf (s : State) (op : OpCtx) : Knobs := op.knobs.getD s.knobs

/-- Operation `i` as die `d` plans it. -/
def State.envAt (s : State) (i d : Nat) : OpEnv :=
  let op := s.op i
  mkEnv s op.desc op.active d (s.knobsOf op) op.snaps

/-- Operation `i` as its dies see memory now. -/
def State.envOf (s : State) (i : Nat) : OpEnv := s.envAt i (s.op i).die0

/-- A die's tiles of an operation under way, by the tile width it bound (R79, R155). -/
def OpEnv.tilesOf (e : OpEnv) (pl : Plan) (p : Product) (d : Nat) : List Tile :=
  if e.o.kind.isProduct then p.tiles (pl.die d).tw pl.theta e.o.pathSel else []

/-- The resole tiles of a die (R142). -/
def Plan.resoleTiles (pl : Plan) (e : OpEnv) (p : Product) (d : Nat) : List Tile :=
  ((pl.resole.filter fun r => r.die = d ∧ r.admitted).map fun r => r.blk).map (p.entryTile pl.theta e.o.pathSel)

/-- The admitted resole entries that have work units, as (die, block). -/
def Plan.resoled (pl : Plan) : List (Nat × Nat) :=
  (dedup (pl.resole.map fun r => r.die)).flatMap fun d =>
    let mine := pl.resole.filter fun r => r.die = d ∧ r.admitted
    ((List.range mine.length).filter fun j => pl.segments2.any fun sg => sg.die = d ∧ sg.tile = j).map fun j =>
      (d, (mine.map fun r => r.blk).getD j 0)

/-- What writing C needs of the plan. -/
def Plan.layout (pl : Plan) : Layout :=
  { contribs := pl.contribs, merges := pl.merges, resole := pl.resole, resoled := pl.resoled, unfilled := pl.unfilled,
    awlMode := pl.awlMode }

/-- The cycles for which a segment occupies its engine before its buffers swap: its lane cycles, with the match-unit term of its phase
(R143, R163, R165). -/
def OpEnv.segmentTime (e : OpEnv) (p : Product) (tiles : List Tile) (res : Bool) (sg : Segment) : Nat :=
  match e.o.kind with
  | .scatter =>
    let il := e.indices e.positions e.extent
    listSum (sg.units.map fun u => 23 + ceilDiv ((il.window u.a).length * e.sliceBytes) 64)
  | .reduce => listSum (sg.units.map fun u => (e.a.elemsOf u.a).length) / 64
  | _ =>
    let c := (e.costOf p tiles sg).2
    c.w + (if res then c.resole else c.lambda sg.dense)

/-- The segments that a die's engines run in a phase put before the pre-reducers, with their times and row updates, and the additions
in them that wrapped (R112). -/
def State.loadFlush (s : State) (i d : Nat) (e : OpEnv) (pl : Plan) (p : Product) (tiles : List Tile) (res : Bool) (segs : List Segment) :
    State :=
  (segs.filter fun sg => sg.die = d).foldl (fun s sg =>
    let ps := e.segmentPartials p tiles sg
    let rows := flushRows e.w pl.slots res d sg.engine (e.mode p) ps.1
    let s1 := s.putFlush d sg.engine ((s.flushOf d sg.engine).add [(e.segmentTime p tiles res sg, rows)])
    if ps.2 = 0 then s1 else (s1.bump 0x713009 ps.2).opCount i fun c => { c with intWrap := c.intWrap + ps.2 }) s

/-! ## Operand ranges -/

/-- The byte ranges of a tensor that reading the elements at given coordinates touches. -/
def View.rangesAt (v : View) (t : Tensor) (xs : List (List Nat)) : List (Nat × Nat) :=
  let inside := (xs.map t.readAt).filter t.within
  if t.plain then
    inside.flatMap fun x => [((t.plainPlace x).1, (t.plainPlace x).2.1)] ++ (if t.mx then [(t.plainScale x, 1)] else [])
  else
    let ls := dedup (inside.map fun x => (t.blockOf x).1)
    ((v.scan t).blocks.filter fun b => ls.contains b.l).flatMap t.blockRanges

/-- Every byte range of a tensor's present blocks. -/
def View.allRanges (v : View) (t : Tensor) : List (Nat × Nat) := (v.scan t).blocks.flatMap t.blockRanges

/-- The ranges that a die reads of its operands in the first phase (R25, R84, R452). -/
def OpEnv.readRanges (e : OpEnv) (p : Product) (tiles : List Tile) (segs : List Segment) (die : Nat) : List (Nat × Nat) :=
  let v := e.view die
  let mine := segs.filter fun sg => sg.die = die
  let units := mine.flatMap fun sg => sg.units.map fun u => u.a
  let coordsOf := fun (t : Tensor) (ls : List Nat) => ls.flatMap fun l => (t.elemsOf l).map fun q => q.2
  let blocksOf := fun (t : Tensor) (ls : List Nat) => ((v.scan t).blocks.filter fun b => ls.contains b.l).flatMap t.blockRanges
  let posOf := units.flatMap fun w => (List.range 64).map fun i => 64 * w + i
  let slice := fun (t : Tensor) (k : Nat) => (List.range (listProd (t.size.set e.o.axis 1))).map fun n =>
    (unravel (t.size.set e.o.axis 1) n).set e.o.axis k
  match e.o.kind with
  | .eltwise =>
    let xs := coordsOf e.c units
    v.rangesAt e.a xs ++ (if e.func ≤ 3 then v.rangesAt e.b xs else []) ++ v.rangesAt e.m xs ++
      (if e.func = 5 ∧ units ≠ [] then v.rangesAt e.x ((List.range (e.x.size.getD 0 0)).map fun i => [i, 0, 0, 0, 0, 0]) else [])
  | .toBlocked => blocksOf e.a units
  | .toPlain => blocksOf e.a units
  | .blockTrans => blocksOf e.a units
  | .reduce => blocksOf e.a units ++ v.rangesAt e.m (coordsOf e.a units)
  | .softmax =>
    let xs := units.flatMap fun k => (List.range (e.a.size.getD e.o.axis 0)).map fun i =>
      ((unravel (e.a.size.set e.o.axis 1) k).set e.o.axis i)
    v.rangesAt e.a xs ++ v.rangesAt e.m xs
  | .gather =>
    let il := e.indices e.positions e.extent
    v.rangesAt e.x ((posOf.filter fun j => j < listProd e.x.size).map (unravel e.x.size)) ++
      v.rangesAt e.a ((posOf.filterMap fun j => (il.idx.getD j none).map fun k => k.1).flatMap (slice e.a))
  | .scatter =>
    v.rangesAt e.x ((posOf.filter fun j => j < listProd e.x.size).map (unravel e.x.size)) ++
      v.rangesAt e.a ((posOf.filter fun j => j < e.positions).flatMap (slice e.a))
  | .conv => if mine = [] then [] else v.allRanges e.x
  | .transCopy => []
  | .unknown => []
  | _ =>
    let pairs := mine.flatMap fun sg => match tiles[sg.tile]? with
      | some t => sg.units.map fun u => (opdBlock p.a.t u.a t.row t.batch, opdBlock p.b.t u.b u.a t.batch)
      | none => []
    let of := fun (o : ProdOpd) (ls : List Nat) =>
      if o.t.plain ∧ o.trans then
        v.rangesAt o.stored ((ls.flatMap fun l => (o.t.elemsOf l).map fun q => q.2).map swap01)
      else (o.scan.blocks.filter fun b => ls.contains b.l).flatMap o.t.blockRanges
    of p.a (pairs.filterMap fun x => x.1) ++ of p.b (pairs.filterMap fun x => x.2)

/-- The ranges of old C, M and X that a die reads when it writes its blocks (R111, R146), and of CONV's features and
weights (R97). -/
def OpEnv.finalRanges (e : OpEnv) (pl : Plan) (outs : List OutBlock) (die : Nat) : List (Nat × Nat) :=
  let v := e.view die
  let t := e.target
  let mine := outs.filter fun o => o.writer = die
  let xs := mine.flatMap fun o => (t.elemsOf o.l).map fun q => q.2
  let lost := mine.filter fun o => pl.layout.origin o.l = .lost
  let hits := (pl.segments2.filter fun sg => sg.die = die).flatMap hitsOf
  (if e.o.accum then v.rangesAt t xs else []) ++
    (if e.o.kind.isProduct && e.m.supplied && pl.awlMode == 0 then v.rangesAt e.m xs else []) ++
    (if e.o.kind.isProduct && e.o.lostVal then v.rangesAt e.x (lost.flatMap fun o => (t.elemsOf o.l).map fun q => q.2) else []) ++
    (if e.o.kind = .conv then
      v.rangesAt e.a (hits.flatMap fun h => (List.range (e.a.size.getD 0 0)).map fun k => [k, h.1, 0, 0, 0, 0]) ++
        (if hits = [] then [] else v.allRanges e.b) else [])

/-! ## The writes of C -/

/-- Rows of clipped slots read for collection and the write of blocks: each counts as one clipped read (R105). -/
def Plan.clippedRows (pl : Plan) (e : OpEnv) : Nat :=
  let n := ceilDiv (e.c.h * e.c.w) 16
  n * (pl.slots.filter fun a => (accRowKey e.w a.die a.slot 0).isNone).length

/-- The partial of a block that a die holds in its accumulator, from the main phase where the block has contributions there, else as a
resole entry; a die without a slot for it holds none. -/
def State.heldPartial (s : State) (e : OpEnv) (pl : Plan) (d l : Nat) : Partial :=
  let res := !(pl.contribs.any fun c => c.1 = l)
  if pl.slots.any fun a => a.die = d ∧ a.blk = l ∧ a.res = res then s.accBlock e.w pl.slots res d l (e.c.h * e.c.w) else e.emptyPartial l

/-- Wraps of the collection (R109) and rows of clipped slots (R105) of an operation counted. -/
def State.countCollected (s : State) (i wraps clips : Nat) : State :=
  let s1 := if wraps = 0 then s else (s.bump 0x713009 wraps).opCount i fun c => { c with intWrap := c.intWrap + wraps }
  if clips = 0 then s1 else (s1.bump 0x717001 clips).opCount i fun c => { c with clipped := c.clipped + clips }

/-- The classification of PREDICT counted (R136, R150). -/
def State.countPredicted (s : State) (r : Predicted) : State :=
  (((s.bump 0x714001 r.elems).bump 0x714002 r.kept).bump 0x714003 r.missed).bump 0x714009 r.forced

/-- Misses computed in the main phase and by the resole counted (R140, R144, R150). -/
def State.countMisses (s : State) (i : Nat) (pl : Plan) : State :=
  let resoled := listSum ((pl.resole.filter fun r => r.admitted).map fun r => r.misses)
  ((s.bump 0x714004 pl.missMain).bump 0x714005 resoled).opCount i fun c =>
    { c with missMain := c.missMain + pl.missMain, missResoled := c.missResoled + resoled }

/-- The reads that the dies make as they write C, counted (R111, R146). -/
def State.readFinal (s : State) (i : Nat) (active : List Nat) (ranges : Nat → List (Nat × Nat)) : State :=
  active.foldl (fun s d => s.opReads i d (ranges d)) s

/-- The writes to C computed when the first die ends the final phase, with the counts that go with them: wraps in the
collection (R109), clipped rows (R105), classification (R136), misses (R140, R144), and the operand reads of every die. -/
def State.computeWrites (s : State) (i : Nat) : State :=
  match (s.op i).plan with
  | none => s
  | some pl =>
    let e := s.envOf i
    let p := e.mainProduct
    let y := pl.layout
    let part := s.heldPartial e pl
    let bad := (s.op i).metaPoison
    let outs := e.outs p y part bad
    let ws := if e.o.kind = .blockTrans then e.transWrites bad else e.writesOf outs
    let wraps := if e.intAcc p then listSum (pl.contribs.map fun c => (e.complete p y part c.1).2) else 0
    let clips := pl.clippedRows e
    let s1 := s.countCollected i wraps clips
    let s2 := if e.o.kind = .predict then s1.countPredicted (e.predictOut p y part) else s1
    let s3 := if pl.awlMode = 0 then s2 else s2.countMisses i pl
    (s3.readFinal i (s.op i).active (e.finalRanges pl outs)).onOp i fun op => { op with writes := some ws }

/-- A die's own writes of C (R120, R451): clips, poisoned blocks and mirrored lines counted with the operation. -/
def State.commitWrites (s : State) (i d : Nat) : State :=
  let op := s.op i
  if op.wrote.contains d then s
  else
    let w := s.window op.od.task
    let mine := (op.writes.getD []).filter fun o => o.die = d
    let r := mine.foldl (fun (acc : State × Counts) o => acc.1.applyWrite w acc.2 o) (s, op.counts)
    let bad := listSum (mine.map fun o => o.blocks)
    let s1 := if bad = 0 then r.1 else r.1.bump 0x71B004 bad
    let seq := if s1.get 0x510006 = s.get 0x510006 then op.mirSeq else s1.get 0x510006
    s1.onOp i fun op => { op with counts := { r.2 with poisonOut := r.2.poisonOut + bad }, wrote := op.wrote ++ [d],
                                  poisoned := op.poisoned || decide (bad ≠ 0), mirSeq := seq }

/-! ## Beginning a phase -/

/-- No die of the operation has begun phase `ph` yet. -/
def OpCtx.firstIn (op : OpCtx) (ph : Nat) : Bool :=
  op.active.all fun d => !((op.die d).phase ≥ ph && ((op.die d).stage = .running || (op.die d).stage = .arrived || (op.die d).stage = .closed))

/-- What the first die to begin the first phase counts for the whole operation: indices resolved, dropped, collapsed or
overridden, and softmax slices written as zeros (R90, R123, R124, R126, R129, R131). -/
def State.countIndices (s : State) (i : Nat) : State :=
  let e := s.envOf i
  match e.o.kind with
  | .gather =>
    let il := e.indices e.positions e.extent
    (((s.bump 0x712004 il.dropped).bump 0x713006 il.wrapped).bump 0x713007 e.collapsed).opCount i fun c =>
      { c with dropped := c.dropped + il.dropped }
  | .scatter =>
    let il := e.indices e.positions e.extent
    (((s.bump 0x712004 il.dropped).bump 0x713006 il.wrapped).bump 0x713008 (if e.o.dupLast then il.losers else 0)).opCount i fun c =>
      { c with dropped := c.dropped + il.dropped }
  | .softmax => s.bump 0x71300A e.softEmpty
  | _ => s

/-- The module leaves Poise for Run (R379). -/
def State.enterRun (s : State) : State := if s.get 0x200006 = 1 then s.put 0x200006 0 else s

/-- What die `d` reads as it begins the first phase, its valid bits cleared; the first die counts what all share (R106, R123 to
R126). -/
def State.phaseReads (s : State) (i d ph : Nat) (ranges : List (Nat × Nat)) : State :=
  let s1 := if ph = 1 ∧ (s.op i).firstIn ph then s.countIndices i else s
  if ph = 1 then (s1.clearValid d).opReads i d ranges else s1

/-- The row updates of a phase: an accumulating phase puts its segments before the pre-reducers of die `d` (R97, R112, R142). CONV's
compute phase is its last, and a die that begins it after the writes are settled has had its updates made. -/
def State.phaseUpdates (s : State) (i d ph : Nat) (e : OpEnv) (pl : Plan) (p : Product) (tiles : List Tile) : State :=
  let accumulates := e.o.kind.isProduct || e.o.kind == .scatter || e.o.kind == .reduce
  if ph = 1 ∧ accumulates then s.loadFlush i d e pl p tiles false pl.segments
  else if ph = 2 ∧ (s.op i).phases = 3 then s.loadFlush i d e pl { p with admitted := none } (pl.resoleTiles e p d) true pl.segments2
  else if ph = 2 ∧ e.o.kind = .conv ∧ (s.op i).writes.isNone then s.loadFlush i d e pl p [] false pl.segments2
  else s

/-- What a die does as it begins phase `ph`: reads and row updates. -/
def State.phaseWork (s : State) (i d ph : Nat) : State :=
  match (s.op i).plan with
  | none => s
  | some pl =>
    let e := s.envAt i d
    let p := e.mainProduct
    let tiles := e.tilesOf pl p d
    (s.phaseReads i d ph (e.readRanges p tiles pl.segments d)).phaseUpdates i d ph e pl p tiles

/-- CONV's updates of every die made before its blocks are written: its one phase of computing writes them too, and no collection
closes it (R97, R165; log entry 151). -/
def State.settleConv (s : State) (i : Nat) : State :=
  match (s.op i).plan with
  | none => s
  | some pl =>
    let e := s.envOf i
    if e.o.kind ≠ .conv ∨ (s.op i).writes.isSome then s
    else (s.op i).active.foldl (fun s d =>
      let begun := decide (((s.op i).die d).phase = 2)
      (if begun then s else s.loadFlush i d e pl e.mainProduct [] false pl.segments2).drainAcc i d) s

/-- The writes of the final phase on die `d`, made as its counter ends (R102, R159); TRANSPOSE-COPY is run by the die ranked 0 (R65,
R127). -/
def State.phaseWrites (s : State) (i d : Nat) : State :=
  let e := s.envOf i
  if e.o.kind = .transCopy then
    if d = e.die0 then
      let r := e.transCopy s (s.op i).counts
      r.1.onOp i fun op => { op with counts := r.2, mirSeq := if r.1.get 0x510006 = s.get 0x510006 then op.mirSeq else r.1.get 0x510006 }
    else s
  else
    let s1 := s.settleConv i
    ((if (s1.op i).writes.isNone then s1.computeWrites i else s1)).commitWrites i d

/-- A die begins phase `ph` of operation `i` now (R162). -/
def State.beginPhase (s : State) (i d ph : Nat) : State :=
  let s1 := (s.phaseWork i d ph).enterRun
  s1.onOp i fun op =>
    let len := match op.plan with
      | some pl => (pl.die d).lens.getD (ph - 1) 0
      | none => 0
    let laps := match op.plan with
      | some pl => pl.laps
      | none => []
    let x := op.die d
    op.putDie d { x with stage := .running, phase := ph, startAt := s.cycle, counter := len, ran := 0, expiredAt := none,
                         releaseAt := none,
                         lapDone := if ph = 1 then decide (laps = []) else x.lapDone }

/-! ## Barriers -/

/-- The barrier tree's distances (R118, R166). -/
def OpCtx.tree (op : OpCtx) : List Nat :=
  distances op.active (match op.plan with | some pl => pl.root | none => 0)

/-- The number of dies in the subtree of a die. -/
def subtreeSize (active dist : List Nat) : Nat → Nat → Nat
  | 0, _ => 1
  | k + 1, d => 1 + listSum ((active.filter fun c => parentIn active dist c = some d).map (subtreeSize active dist k))

/-- Element-wise maxima of two lists of lengths. -/
def maxima (a b : List Nat) : List Nat := (List.range (max a.length b.length)).map fun i => max (a.getD i 0) (b.getD i 0)

/-- Arrivals present at a die's switch added up; a complete count goes on to the parent 13 cycles later, or completes the
barrier at the root, which sends the release (R121, R167, R168). -/
def OpCtx.combine (op : OpCtx) (cycle d count : Nat) (lens : List Nat) : OpCtx :=
  let dist := op.tree
  let b := op.barrier
  let old := SMap.get b.sums d (0, [])
  let sum := (old.1 + count, maxima old.2 lens)
  let b1 := { b with sums := SMap.set b.sums d sum (0, []) }
  if sum.1 < subtreeSize op.active dist 20 d ∨ SMap.get b.sent d false then { op with barrier := b1 }
  else match parentIn op.active dist d with
    | some p => { op with barrier := { b1 with sent := SMap.set b1.sent d true false,
                                               flights := b1.flights ++ [{ dst := p, due := cycle + 13, count := sum.1, maxima := sum.2 }] } }
    | none => { op with barrier := { sums := [], sent := [], flights := [], releases := b.releases ++ [cycle] },
                        gmax := if b.releases = [] then sum.2 else op.gmax }

/-- A die raises the arrivals of its engines: its own switch adds them in this cycle; at the first barrier they carry
the lengths of the later phases (R162, R167, R168). -/
def State.arrive (s : State) (i d : Nat) : State :=
  s.onOp i fun op =>
    let x := op.die d
    let lens := match op.plan with
      | some pl => if x.phase = 1 then (pl.die d).lens else []
      | none => []
    (op.putDie d { x with stage := .arrived }).combine s.cycle d 1 lens

/-- The cycle in which the release of the barrier that closes phase `ph` reaches a die (R167). -/
def OpCtx.releaseDue (op : OpCtx) (d ph : Nat) : Option Nat :=
  (op.barrier.releases[ph - 1]?).map fun r => r + 13 * op.tree.getD d 0

/-- The nominal release ν of a later barrier (R169). -/
def OpCtx.nominal (op : OpCtx) (d : Nat) : Nat :=
  match op.plan with
  | some pl => (op.die d).startAt + op.gmax.getD ((op.die d).phase - 1) 0 + 26 * pl.depth + (pl.die d).slack
  | none => 0

/-- Whether the barrier a die waits at is release-driven: the first, and every one in throughput mode (R168, R169). -/
def OpCtx.driven (op : OpCtx) (d : Nat) : Bool :=
  (op.die d).phase ≤ 1 || (match op.plan with | some pl => !(pl.die d).interactive | none => true)

/-! ## The close -/

/-- The scratchpad bank mask of a die taking effect (R193): banks switched off lose their contents, banks switched on
begin their fill. The banks enabled till now are those awake or filling. -/
def State.applyBanks (s : State) (d : Nat) (mask : U64) : State :=
  let old := maskOf 64 fun b => s.bankAwake d b || s.mem.spFill.any fun x => x.1 = d * 64 + b
  let new := mask.toNat
  let lost := (List.range 64).filter fun b => bit old b && !bit new b
  let risen := (List.range 64).filter fun b => !bit old b && bit new b
  let inBanks := fun (l : List Nat) (a : Nat) => 0xF0000000000 + d * 0x2000000 ≤ a && a < 0xF0000000000 + (d + 1) * 0x2000000 &&
    l.contains (spBank (a % 0x2000000))
  let gone := fun a => inBanks (lost ++ risen) a
  let s1 := s.put (0x402201 + d) (maskOf 64 fun b => s.bankAwake d b && !lost.contains b)
  let fills := risen.foldl (fun m b => SMap.set m (d * 64 + b) (s.cycle + 1) 0)
    (s.mem.spFill.filter fun x => !(x.1 / 64 = d ∧ lost.contains (x.1 % 64)))
  { s1 with mem := { s1.mem with bytes := s1.mem.bytes.filter fun c => !gone c.1,
                                 spFlag := s1.mem.spFlag.filter fun c => !gone (c.1 * 64), spFill := fills } }

/-- What waits on a die for the close of the operation in progress: bank masks (R193) and the HBM decoder mode (R206). -/
def State.closeEffects (s : State) (d : Nat) : State :=
  let s1 := match s.mem.spPending.find? (fun x => x.1 = d) with
    | some x => { (s.applyBanks d x.2) with mem := { (s.applyBanks d x.2).mem with spPending := s.mem.spPending.erase d } }
    | none => s
  if s1.mem.eccPending then
    { s1 with mem := { s1.mem with eccMode := s1.mem.eccMode.set d (BitVec.ofNat 8 (if s1.get 0x400001 = 1 then 1 else 0)) 0 } }
  else s1

/-- The array clock step in force (2000:09, 2000:0A): the larger of the cap step and the thermal step (R375). -/
def State.clockStep (s : State) : Nat := max s.isl.power.capStep s.isl.power.thermalStep

/-- A requested clock step taking effect on every die (R175). -/
def State.applyClock (s : State) : State :=
  match s.arr.stepPending with
  | some k => { ((s.put 0x200009 k).put 0x20000A (2100 - 150 * k)) with arr := { s.arr with stepPending := none, dieStep := [] } }
  | none => s

/-- A requested clock step taking effect on one die as a release reaches it; the step that the module reports follows with the last of
the active dies (R175; log entry 59). -/
def State.applyClockOn (s : State) (d : Nat) (active : List Nat) : State :=
  match s.arr.stepPending with
  | some k =>
    let s1 := { s with arr := { s.arr with dieStep := s.arr.dieStep.set d (k + 1) 0 } }
    if active.all fun x => s1.arr.dieStep.get x 0 = k + 1 then s1.applyClock else s1
  | none => s

/-- A change of the step in force requested by power management: at once with no operation in progress, else at the next
release (R175, R375). -/
def State.requestClock (s : State) : State :=
  let k := s.clockStep
  let s1 := { s with arr := { s.arr with stepPending := if k = s.get 0x200009 then none else some k } }
  if s.arr.ops = [] then s1.applyClock else s1

/-- The masked blocks that a die's clicker reads and the byte ranges of each operand's metadata on it: node arrays, the masks of its own
units and the sign planes of a prediction tensor (R84, R139, R159). -/
def OpEnv.metaParts (e : OpEnv) (p : Product) (tiles : List Tile) (segs : List Segment) (res : List Tile × List Segment) (die : Nat) :
    List ((Opd × Tensor) × List (Nat × Nat)) :=
  let v := e.view die
  let masks := e.masksRead p tiles segs res die
  (e.metaTensors p).map fun t =>
    let sc := v.scan t.2
    let mine := (masks.filter fun m => m.1 = t.1).flatMap fun m => m.2
    (t, sc.ranges ++ ((sc.blocks.filter fun b => mine.contains b.l).filterMap fun b => b.mask.map fun a => (a, t.2.maskSize)) ++
      (if t.1 = .m ∧ (e.signReads e.awl).2 ≠ 0 then sc.blocks.flatMap t.2.blockRanges else []))

/-- What a die fetches when it begins a fetch: with `await`, the tensors whose fetch waits for the preceding close, else the others. The
due cycle of each (R61, R159), and the bytes that the reads find, by task address. -/
def State.fetches (s : State) (i d start : Nat) (await : Bool) : List (Opd × Nat) × SMap Byte :=
  let op := s.op i
  let e := s.envAt i d
  let last := e.own.last op.od.last (maskOf 20 fun x => op.active.contains x)
  let p := e.mainProduct
  let tiles := if e.o.kind.isProduct then p.tiles last.sym.tw e.theta e.o.pathSel else []
  let segs := e.mainSegments tiles
  let res := admittedOf (e.queueOf p last.sym.rb) d
  let resPart := (res.map (p.entryTile e.theta e.o.pathSel), p.resoleSegments e.theta e.o.pathSel d res)
  let masks := e.masksRead p tiles segs resPart d
  let mine := (e.metaParts p tiles segs resPart d).filter fun t => t.1.2.supplied && (t.1.2.awaits == await)
  (mine.map fun t => (t.1.1, start + fetchTime (e.metaBytes masks e.awl t.1)),
   (mine.flatMap fun t => t.2).foldl (fun m r =>
     let b := (e.own.read r.1 r.2).1
     (List.range b.length).foldl (fun m k => SMap.insert m (r.1 + k) (b.getD k 0)) m) (SMap.get op.snaps d []))

/-- A die begins fetching the metadata of one kind of tensors of an operation: their due cycles, and their entries as memory holds them
now (R61, R159). The first fetch of an operation starts its planning, when 3100, 3200 and 3300 are read (R82, R150, R185; log entry
152). -/
def State.beginFetch (s : State) (i d start : Nat) (await : Bool) : State :=
  let s1 := s.onOp i fun op => { op with knobs := some (s.knobsOf op) }
  let f := s1.fetches i d start await
  s1.onOp i fun op => { op.putDie d { op.die d with due := (op.die d).due ++ f.1 } with snaps := op.snaps.set d f.2 [] }

/-- The final barrier closes on a die (R171): the fetch of the next operation's awaited tensors begins (R61, R159), and
pending masks and modes take effect. -/
def State.closeDie (s : State) (i d : Nat) : State :=
  let s1 := s.onOp i fun op => op.putDie d { op.die d with stage := .closed, releaseAt := none }
  let s3 := s1.closeEffects d
  match s3.opAt d .fetching with
  | some j => s3.beginFetch j d s.cycle true
  | none => s3

/-- Every active die has closed. -/
def OpCtx.closed (op : OpCtx) : Bool := op.active.all fun d => (op.die d).stage = .closed

/-! ## Completion -/

/-- Whether a record must wait for the twin (R304): in synchronous mode, until it has applied the last mirror write
produced. -/
def State.mirrorWait (s : State) (seq : Nat) : Bool :=
  s.get 0x510005 == 1 && s.get 0x510007 < seq && !s.fab.mirStopped &&
    (List.range 16).any fun r => s.get ((0x5600 + r) * 256 + 4) == 1

/-- The completion of the oldest operation with a status (R27, R244, R407): its poison record and count, its record and
signal; the operation leaves the array. -/
def State.completeOp (s : State) (status xcode : Nat) (poison : Bool) : State :=
  match s.arr.ops with
  | [] => s
  | op :: rest =>
    let o := op.od
    let c := op.counts
    let s1 := s.putOps rest
    let s2 := if poison then s1.bump 0x71B003 1 else s1
    let s3 := if op.poisoned then
        s2.event 1 1 255 0 (leBytes 4 o.tag ++ leBytes 1 o.opcode ++ leBytes 1 0 ++ leBytes 2 (min c.poisonOut 65535) ++
          leBytes 8 (op.firstPoison.getD 0))
      else s2
    let awl := match op.plan with
      | some pl => pl.awlMode != 0
      | none => false
    s3.complete { kind := 1, status := status, state := 0, tag := o.tag, tDone := s.tick, tTaken := op.tTaken, code := o.opcode,
                  xcode := xcode, poison := poison, awl := awl, forecast := op.forecast, deadline := o.deadline } c o.cring o.sync

end Sys2Proof.Machine
end

