-- ==== Sys2Proof/Machine/FabricOps.lean ====
section
/-! DEFINITION. The fabric's named operations: messages (R291, R292), flits and their CRC (R277, R278), port states
(R284), routing (R289, R290), discarding (R283), and sending a data flit (R279, R281, R282). -/

namespace Sys2Proof

/-! ## Messages -/

/-- The virtual lane of a message (R280, R292); an FMP datagram is a response where its REPLY flag is set (R354). -/
def Msg.lane (m : Msg) : Nat :=
  match m.mtype with
  | 0x05 => if bit (field m.data 5 1) 0 then 1 else 0
  | 0x10 => 2
  | 0x11 => 1
  | 0x20 => 3
  | 0x21 => 3
  | 0x31 => 1
  | 0x81 => 1
  | 0x82 => 1
  | _ => 0

/-- The LEN limit of a message type; none for an undefined type (R292). -/
def msgLimit (mtype : Nat) : Option Nat :=
  match mtype with
  | 0x01 => some 4096
  | 0x02 => some 256
  | 0x03 => some 8
  | 0x04 => some 128
  | 0x05 => some 1280
  | 0x10 => some 256
  | 0x11 => some 16
  | 0x12 => some 8
  | 0x20 => some 64
  | 0x21 => some 8
  | 0x30 => some 256
  | 0x31 => some 256
  | 0x32 => some 256
  | 0x33 => some 256
  | 0x34 => some 256
  | 0x35 => some 256
  | 0x81 => some 256
  | 0x82 => some 0
  | _ => none

/-- LEN, a value above the limit read as the limit; a message of an undefined type has the LEN it states (R291, R292). -/
def Msg.length (m : Msg) : Nat :=
  match msgLimit m.mtype with
  | some n => min m.len n
  | none => m.len

/-- The bytes of data that follow the header: a READ has none (R291). -/
def Msg.dataLen (m : Msg) : Nat := if m.mtype = 1 then 0 else m.length

/-- The bytes of a message (R291). -/
def Msg.bytes (m : Msg) : List Byte :=
  let flags := listSum ((List.range 4).map fun i => if m.poison.getD i false then 2 ^ (4 + i) else 0) + (if m.dn then 8 else 0)
  leBytes 1 m.mtype ++ leBytes 1 flags ++ leBytes 2 m.dst ++ leBytes 2 m.src ++ leBytes 2 m.len ++ leBytes 8 (m.addr % 2 ^ 52) ++
    leBytes 2 m.txtag ++ leBytes 1 (m.hops % 16) ++ leBytes 1 0 ++ leBytes 4 m.arg.toNat ++ fit m.dataLen m.data

/-- The message at the front of a lane's bytes, where it is whole, and the bytes after it (R279, R291). A zero byte where
a message would begin is padding of a flit that carried less than 240 bytes (see the log). -/
def parseMsg (bs : List Byte) : Option (Msg × List Byte) :=
  let b := bs.dropWhile (· = 0)
  if b.length < 24 then none
  else
    let flags := field b 1 1
    let m : Msg := { mtype := field b 0 1, dn := bit flags 3, poison := (List.range 4).map fun i => bit flags (4 + i),
                     dst := field b 2 2 % 4096, src := field b 4 2 % 4096, len := field b 6 2, addr := field b 8 8 % 2 ^ 52,
                     txtag := field b 16 2, hops := field b 18 1 % 16, arg := BitVec.ofNat 32 (field b 20 4), data := [] }
    let n := m.dataLen
    if b.length < 24 + n then none else some ({ m with data := (b.drop 24).take n }, b.drop (24 + n))

/-- Every whole message at the front of a lane's bytes, with fuel, and the bytes left. -/
def parseMsgs : Nat → List Byte → List Msg × List Byte
  | 0, bs => ([], bs)
  | k + 1, bs =>
    match parseMsg bs with
    | none => ([], bs)
    | some x => let r := parseMsgs k x.2; (x.1 :: r.1, r.2)

/-- Requests that expect a response (R283, R292). -/
def Msg.expects (m : Msg) : Bool := 1 ≤ m.mtype && m.mtype ≤ 4

/-- The pieces of at most 256 bytes of a read's answer: offset and length. -/
def readPieces (len : Nat) : List (Nat × Nat) :=
  (List.range (ceilDiv len 256)).map fun i => (256 * i, min 256 (len - 256 * i))

/-- A response to a message. -/
def Msg.answer (m : Msg) (mtype addr len : Nat) (arg : Nat) (data : List Byte) (poison : List Bool) : Msg :=
  { mtype := mtype, dn := false, poison := poison, dst := m.src, src := m.dst, len := len, addr := addr % 2 ^ 52,
    txtag := m.txtag, hops := 0, arg := BitVec.ofNat 32 arg, data := data }

/-- The responses that report every byte of a request clipped (R283). -/
def Msg.clippedAnswers (m : Msg) : List Msg :=
  if m.mtype = 1 then
    (readPieces m.length).map fun x => m.answer 0x81 (m.addr + x.1) x.2 x.2 (List.replicate x.2 0) []
  else [m.answer 0x82 m.addr 0 m.length [] []]

end Sys2Proof

namespace Sys2Proof.Machine

/-! ## Flits -/

/-- One bit of the reflected CRC of R278, with the reflected polynomial of ECMA-182. -/
def crcBit (c : U64) : U64 := if c.toNat % 2 = 1 then (c >>> 1) ^^^ 0xC96C5795D7870F42 else c >>> 1

/-- One byte of the CRC. -/
def crcByte (c : U64) (b : Byte) : U64 := (List.range 8).foldl (fun c _ => crcBit c) (c ^^^ b.setWidth 64)

/-- The CRC-64 of R278. -/
def crc64 (bs : List Byte) : U64 := (bs.foldl crcByte 0xFFFFFFFFFFFFFFFF) ^^^ 0xFFFFFFFFFFFFFFFF

/-- Port `p`'s link layer. -/
def State.port (s : State) (p : Nat) : Port := s.fab.ports.get p Port.down

/-- The state with port `p`'s link layer replaced. -/
def State.putPort (s : State) (p : Nat) (x : Port) : State :=
  { s with fab := { s.fab with ports := s.fab.ports.set p x Port.down } }

/-- The fabric die of a port, as a unit number (R275, R413). -/
def portUnit (p : Nat) : Nat := if p < 4 then 20 else 21

/-- A flit of port `p` with the ACK and CREDIT fields it carries (R277, R279, R281, R282); the credit and NAK it brings
are owed no longer. It is sent. -/
def State.sendFlit (s : State) (p kind lane seq : Nat) (payload : List Byte) : State :=
  let x := s.port p
  let ack := if x.ackNext.isSome ∨ x.nakPending then (x.rxNext + 4095) % 4096 + (if x.nakPending then 0x4000 else 0) + 0x8000 else 0
  let vl := ((List.range 4).find? fun l => x.creditsOwed.getD l 0 ≠ 0)
  let credit := match vl with
    | some l => min (x.creditsOwed.getD l 0) 4095 + 4096 * l + 0x8000
    | none => 0
  let owed := match vl with
    | some l => x.creditsOwed.set l (x.creditsOwed.getD l 0 - min (x.creditsOwed.getD l 0) 4095)
    | none => x.creditsOwed
  let head := leBytes 1 (kind + 4 * lane) ++ leBytes 1 0 ++ leBytes 2 seq ++ leBytes 2 ack ++ leBytes 2 credit ++ fit 240 payload
  s.putPort p { x with creditsOwed := owed, nakPending := false, ackOwed := false, sent := ((head ++ leBytes 8 (crc64 head).toNat) :: x.sent).take 16 }

/-! ## Port states -/

/-- STATE of port `p` (R284). -/
def State.portState (s : State) (p : Nat) : Nat := bits (s.get (0x501001 + p)) 27 24

/-- The module's device ID (5000:01). -/
def State.devId (s : State) : Nat := s.get 0x500001 % 4096

/-- Port `p` is a twin port (5100:03). -/
def State.twinPort (s : State) (p : Nat) : Bool := bit (s.get 0x510003) p

/-- STATE and the fields below it of port `p`: a change of STATE is a link event, calls for a sweep on the manager, and
moves the port's readiness bit (R284, R288, R394). -/
def State.setPort (s : State) (p st lver plevel pport peer : Nat) : State :=
  let old := s.portState p
  let word := st * 2 ^ 24 + lver % 16 * 2 ^ 20 + plevel % 16 * 2 ^ 16 + (if s.twinPort p then 2 ^ 15 else 0) + pport % 8 * 2 ^ 12 + peer % 4096
  let s1 := s.put (0x501001 + p) word
  if old = st then s1
  else
    let mgr := s.get 0x500003 = 1
    let s2 := { s1 with fab := { s1.fab with linkEvents := s1.fab.linkEvents ++ [(p, st)], sweepWanted := s1.fab.sweepWanted || mgr } }
    s2.setReady [(6 + p, decide (st = 5))]

/-- STATE of port `p` with its other fields kept. -/
def State.setPortState (s : State) (p st : Nat) : State :=
  let w := s.get (0x501001 + p)
  s.setPort p st (bits w 23 20) (bits w 19 16) (bits w 14 12) (bits w 11 0)

/-- The device ID of port `p`'s peer, as the sweep assigned it (R284, R288). -/
def State.showPeer (s : State) (p id : Nat) : State := s.put (0x501001 + p) (s.get (0x501001 + p) / 4096 * 4096 + id % 4096)

/-- The TWIN bit of every port as 5100:03 names the twin ports (R284, R301). -/
def State.showTwins (s : State) : State :=
  (List.range 8).foldl (fun s p =>
    let w := s.get (0x501001 + p)
    s.put (0x501001 + p) (w / 2 ^ 16 * 2 ^ 16 + (if s.twinPort p then 2 ^ 15 else 0) + w % 2 ^ 15)) s

/-- A port that carries messages: linked, or active (R284). -/
def State.portLinked (s : State) (p : Nat) : Bool := s.portState p = 4 || s.portState p = 5

/-- Some twin port is in STATE 5. -/
def State.twinLinkUp (s : State) : Bool := (List.range 8).any fun p => s.twinPort p && s.portState p == 5

/-- The module is paired (R301). -/
def State.paired (s : State) : Bool := s.get 0x510001 != 0

/-- Every twin port is down while heartbeats still arrive: mirroring is suspended, with a twin-link event (R302). -/
def State.checkTwinLink (s : State) : State :=
  if s.paired ∧ ¬s.twinLinkUp ∧ ¬s.fab.mirStopped ∧ ¬s.fab.twinLost ∧ s.get 0x510003 ≠ 0 ∧ s.get 0x510008 ≠ 0 ∧
      s.tick < s.get 0x510008 + 400 then
    ({ s with fab := { s.fab with mirStopped := true } }).event 6 3 25 0 (leBytes 8 (s.get 0x510001))
  else s

/-! ## Routing -/

/-- Where a message goes next (R289, R290, R297). -/
inductive Hop where
  | here
  | port (p : Nat)
  | ports (l : List Nat)
  | noRoute
deriving DecidableEq, Repr

/-- The next hop of a message at this module: its own device ID, a directed route, a multicast tree, or tables U and D. A
directed route's hop 0 is the sender's own, so a module that forwards takes the hop after those traversed. -/
def State.nextHop (s : State) (m : Msg) (forwarded : Bool) : Hop :=
  if m.dst = 0xFFF then
    let k := if forwarded then m.hops + 1 else m.hops
    if m.arg.toNat % 16 ≤ k then .here else .port (m.addr / 8 ^ k % 8)
  else if 0xC00 ≤ m.dst then .ports (s.fab.groups.get (m.dst - 0xC00) McGroup.empty).ports
  else if m.dst = s.devId then .here
  else
    match (if m.dn then s.fab.tableD else s.fab.tableU).find? fun x => x.1 = m.dst with
    | some x => .port x.2
    | none => .noRoute

/-- Whether leaving by port `p` is a down move: table D holds only down moves (R289). -/
def State.isDown (s : State) (p : Nat) : Bool := s.fab.tableD.any fun x => x.2 = p

/-- A lane's head message waits for credit, or, on lane 2, for a multicast context (R281, R297, R307). -/
def Port.starved (x : Port) (l : Nat) : Bool :=
  match x.txQueue.getD l [] with
  | [] => false
  | m :: _ => decide (x.credits.getD l 0 = 0) || (decide (l = 2) && !x.contexts.contains (m.dst - 0xC00) && decide (64 ≤ x.contexts.length))

/-- The waits of a port's head messages as they stand at a tick: one that begins is stamped with it, one that has ended is timed no
longer (R307). -/
def Port.watch (x : Port) (tick : Nat) : Port :=
  { x with headSince := x.headSince.zipIdx.map fun h => if x.starved h.2 then some (h.1.getD tick) else none
           stallMs := x.stallMs.zipIdx.map fun n => if x.starved n.2 then n.1 else 0 }

/-- A message queued on a lane of port `p`; a multicast message takes a context where one is free (R280, R297). -/
def State.enqueue (s : State) (p : Nat) (m : Msg) : State :=
  let x := s.port p
  let l := m.lane
  let q := x.txQueue.getD l []
  let g := m.dst - 0xC00
  let ctx := if 0xC00 ≤ m.dst ∧ m.dst < 0xFFF ∧ !x.contexts.contains g ∧ x.contexts.length < 64 then x.contexts ++ [g] else x.contexts
  s.putPort p (({ x with txQueue := x.txQueue.set l (q ++ [m]), contexts := ctx } : Port).watch s.tick)

/-- A message handed to this module itself (R287). -/
def State.deliver (s : State) (ingress : Option Nat) (m : Msg) : State :=
  { s with fab := { s.fab with inbox := s.fab.inbox ++ [(ingress, m)] } }

/-- A message sent on its way by one port: HOPS and DN as it leaves (R289, R290); by a port that is down it goes nowhere. -/
def State.leave (s : State) (p : Nat) (m : Msg) (forwarded : Bool) : Option State :=
  if s.portLinked p then
    some (s.enqueue p { m with hops := if forwarded then m.hops + 1 else m.hops,
                               dn := m.dn || (decide (m.dst < 0xC00) && s.isDown p) })
  else none

/-- A response sent: where it cannot go nothing further is sent (R283). -/
def State.sendResponse (s : State) (m : Msg) : State :=
  match s.nextHop m false with
  | .here => s.deliver none m
  | .port p => (s.leave p m false).getD s
  | .ports _ => s
  | .noRoute => s

/-- The mirrored region that a mirror write's twin address belongs to. -/
def State.mirrorRegion (s : State) (a : Nat) : Option Nat :=
  (List.range 16).find? fun r =>
    let t := s.get ((0x5600 + r) * 256 + 3)
    s.get ((0x5600 + r) * 256 + 4) == 1 && t ≤ a && a < t + s.get ((0x5600 + r) * 256 + 2)

/-- A message discarded: a request is answered as clipped, a mirror write takes its region to diverged (R283, R304). -/
def State.discardMsg (s : State) (m : Msg) : State :=
  if m.expects then m.clippedAnswers.foldl State.sendResponse s
  else if m.mtype = 0x20 then
    match s.mirrorRegion m.addr with
    | some r => s.diverge r
    | none => s
  else s

/-- A message of this module's own sent (R287, R290): without a route it is discarded and counted. -/
def State.sendMsg (s : State) (m : Msg) : State :=
  match s.nextHop m false with
  | .here => s.deliver none m
  | .port p => (s.leave p m false).getD (s.discardMsg m)
  | .ports l => l.foldl (fun s p => (s.leave p m false).getD s) s
  | .noRoute => (s.bump 0x719008 1).discardMsg m

/-! ## Sending data flits -/

/-- Lane 3 of a twin port takes up mirror lines waiting in the fabric die (R303, R304). -/
def State.feedMirror (s : State) (p : Nat) : State :=
  if s.twinPort p ∧ ((s.port p).txQueue.getD 3 []).length < 4 then
    let all := s.mirQueued (portUnit p)
    let take := all.take 3
    let peer := bits (s.get (0x501001 + p)) 11 0
    let s1 := if take = [] then s else s.putMirQueue (portUnit p) (all.drop 3)
    take.foldl (fun s l => s.enqueue p
      { mtype := 0x20, dn := false, poison := [l.poison], dst := peer, src := s.devId, len := 64, addr := l.addr,
        txtag := 0, hops := 0, arg := BitVec.ofNat 32 l.seq, data := l.data }) s1
  else s

/-- The messages of a queue cut by a payload of `n` bytes, the head having `off` bytes sent already: the payload, the
messages that end in it, the queue and the bytes of its head sent. -/
def cutQueue : List Msg → Nat → Nat → List Byte × List Msg × List Msg × Nat
  | [], _, _ => ([], [], [], 0)
  | m :: rest, off, n =>
    let left := m.bytes.drop off
    if n = 0 then ([], [], m :: rest, off)
    else if left.length ≤ n then
      let r := cutQueue rest 0 (n - left.length)
      (left ++ r.1, m :: r.2.1, r.2.2.1, r.2.2.2)
    else (left.take n, [], m :: rest, off + n)

/-- A data flit of a lane of a port, where it may leave (R279, R281, R282, R297). -/
def State.sendLane (s : State) (p l : Nat) : State :=
  let x := s.port p
  match x.txQueue.getD l [] with
  | [] => s
  | m :: rest =>
    let g := m.dst - 0xC00
    let ctx := if l = 2 ∧ !x.contexts.contains g ∧ x.contexts.length < 64 then x.contexts ++ [g] else x.contexts
    if ¬s.portLinked p ∨ x.retrainSince.isSome ∨ x.credits.getD l 0 = 0 ∨ 1024 ≤ x.replay.length ∨ (l = 2 ∧ !ctx.contains g) then s
    else
      let c := cutQueue (m :: rest) (x.txOff.getD l 0) 240
      let busy := c.2.2.1.map fun m => m.dst - 0xC00
      let flit : ReplayFlit := { seq := x.txSeq, lane := l, payload := fit 240 c.1, sentAt := s.tick, ends := c.2.1 }
      let s1 := (s.bump 0x719001 1).putPort p
        (({ x with txQueue := x.txQueue.set l c.2.2.1, txOff := x.txOff.set l c.2.2.2, txSeq := (x.txSeq + 1) % 4096,
                   credits := x.credits.set l (x.credits.getD l 0 - 1), replay := x.replay ++ [flit],
                   contexts := if l = 2 then ctx.filter busy.contains else x.contexts,
                   headSince := x.headSince.set l none, stallMs := x.stallMs.set l 0 } : Port).watch s.tick)
      s1.sendFlit p 1 l flit.seq flit.payload

/-- A data flit of a lane of port `p` sent, where the port may send it: a message waits, a credit is held, fewer than
1,024 flits are unacknowledged, and a multicast message holds a context (R279, R281, R282, R297). -/
def State.sendData (s : State) (p l : Nat) : State := (if l = 3 then s.feedMirror p else s).sendLane p l

/-- A port replays from its oldest unacknowledged flit, which counts; where 8 replays in a row have acknowledged nothing new it
retrains instead (R282, R283). -/
def State.replayPort (s : State) (p : Nat) : State :=
  let x := s.port p
  if x.replay = [] ∨ x.retrainSince.isSome then s
  else if 8 ≤ x.replays then (s.putPort p { x with retrainSince := some s.tick }).setPortState p 1
  else
    let s1 := (s.bump 0x719006 1).putPort p
      { x with replays := x.replays + 1, replay := x.replay.map fun f => { f with sentAt := s.tick } }
    x.replay.foldl (fun s f => s.sendFlit p 1 f.lane f.seq f.payload) s1

/-- Port `p` goes down to STATE `st`: what it held or queued is discarded, its link starts afresh, and a port that was
linked writes a fabric event (R283, R420). -/
def State.portDown (s : State) (p st : Nat) : State :=
  let x := s.port p
  let old := s.portState p
  if old = st ∧ x.replay = [] ∧ x.txQueue = [[], [], [], []] then s
  else
    let peer := bits (s.get (0x501001 + p)) 11 0
    let lost := (x.replay.flatMap fun f => f.ends) ++ x.txQueue.flatten
    let s1 := (s.putPort p { Port.down with cage := x.cage, lowPower := x.lowPower, sent := x.sent }).setPort p st 0 0 0 0
    let s2 := (lost.foldl State.discardMsg s1).put (0x501101 + p) 0
    let s3 := if old = 0 ∨ old = 6 ∨ old = 7 then s2 else s2.event 5 1 (portUnit p) p (leBytes 2 peer)
    s3.settle.checkTwinLink

end Sys2Proof.Machine
end

