-- ==== Sys2Proof/Machine/McOps.lean ====
section
/-! DEFINITION. The named operations of multicast groups (R297 to R300): a group's objects, sending on its tree, shedding a
receiver, and poisoning a shed receiver's buffer. -/

namespace Sys2Proof.Machine

/-- Object `sub` of group `g` (R308). -/
def State.mcObj (s : State) (g sub : Nat) : Nat := s.get ((0x5200 + g) * 256 + sub)

/-- Whether this module sends group `g` in shed mode (1) or lockstep (2), receives it (3), or is idle (R297, R308). -/
def State.mcMode (s : State) (g : Nat) : Nat := s.mcObj g 1

/-- A group at this module. -/
def State.group (s : State) (g : Nat) : McGroup := s.fab.groups.get g McGroup.empty

/-- The state with a group replaced. -/
def State.putGroup (s : State) (g : Nat) (x : McGroup) : State :=
  { s with fab := { s.fab with groups := s.fab.groups.set g x McGroup.empty } }

/-- This module sends the group. -/
def State.mcSends (s : State) (g : Nat) : Bool := s.mcMode g == 1 || s.mcMode g == 2

/-- A receiver that takes the stream: neither shed nor removed. -/
def McReceiver.present (r : McReceiver) : Bool := !r.shed && !r.removed

/-- Bits 15:8 of MC_STATUS on the sender: the receivers in the group (R308). -/
def State.mcCount (s : State) (g : Nat) : State :=
  let n := (s.group g).receivers.countP McReceiver.present
  s.put ((0x5200 + g) * 256 + 8) (s.mcObj g 8 % 256 + n % 256 * 256)

/-- The fabric die that events of a group name: that of the first port of its tree. -/
def State.mcUnit (s : State) (g : Nat) : Nat := portUnit ((s.group g).ports.headD 0)

/-- A multicast message sent by every port of the group's tree (R297); `forwarded` where another module sent it. -/
def State.replicate (s : State) (g : Nat) (m : Msg) (forwarded : Bool) : State :=
  (s.group g).ports.foldl (fun s p => (s.leave p m forwarded).getD s) s

/-- A message of this module's own about group `g`, which TXTAG names (see the log). -/
def State.mcMessage (s : State) (g dst mtype arg : Nat) (data : List Byte) : Msg :=
  { mtype := mtype, dn := false, poison := [], dst := dst, src := s.devId, len := data.length, addr := 0, txtag := g, hops := 0,
    arg := BitVec.ofNat 32 arg, data := data }

/-- The tick at which the byte at an offset was sent, where it has been (R299). -/
def McGroup.sentAt (x : McGroup) (off : Nat) : Option Nat :=
  if x.sentOff ≤ off then none else ((x.sentLog.filter fun e => e.1 ≤ off).getLast?).map Prod.snd

/-- A receiver behind by the first rule of R299: sending `n` more bytes would exceed the window for it. -/
def McGroup.full (x : McGroup) (win n : Nat) (r : McReceiver) : Bool := r.present && decide (win < x.sentOff + n - r.consumed)

/-- A receiver behind by the second rule of R299: the byte it consumes next was sent more than TIME ticks ago. -/
def State.mcLate (s : State) (g : Nat) (r : McReceiver) : Bool :=
  r.present && match (s.group g).sentAt r.consumed with
    | some t => decide (t + s.mcObj g 3 < s.tick)
    | none => false

/-- A receiver shed: it leaves the group, is told the first offset it will not receive, and an event is written (R299). -/
def State.mcShed (s : State) (g id : Nat) : State :=
  let x := s.group g
  let s1 := (s.putGroup g { x with receivers := x.receivers.map fun r => if r.id = id then { r with shed := true } else r }).mcCount g
  let s2 := (s1.bump 0x71900B 1).sendMsg (s1.mcMessage g id 0x12 1 (leBytes 8 x.sentOff))
  s2.event 5 2 (s.mcUnit g) g (leBytes 2 id ++ leBytes 6 0 ++ leBytes 8 x.sentOff)

/-- Pieces of a group's stream sent as the window allows, with fuel: in lockstep the sender waits for every receiver, in
shed mode it sheds those that are behind and goes on (R298, R299). -/
def State.mcPumpFuel : Nat → State → Nat → State
  | 0, s, _ => s
  | k + 1, s, g =>
    match (s.group g).queue with
    | [] => s
    | p :: rest =>
      let n := p.1.length
      let slow := (s.group g).receivers.filter ((s.group g).full (s.mcObj g 2) n)
      if !s.mcSends g ∨ (s.mcMode g = 2 ∧ slow ≠ []) then s
      else
        let s1 := slow.foldl (fun s r => s.mcShed g r.id) s
        let x := s1.group g
        let old := listMax ((x.receivers.filter McReceiver.present).map fun r => x.sentOff - r.consumed)
        let log := (x.sentLog.filter fun e => x.sentOff ≤ e.1 + old + 4096) ++ [(x.sentOff, s.tick)]
        let s2 := s1.putGroup g { x with queue := rest, sentOff := x.sentOff + n, sentLog := log }
        let m : Msg := { mtype := 0x10, dn := false, poison := p.2, dst := 0xC00 + g, src := s.devId, len := n, addr := x.sentOff % 2 ^ 52,
                         txtag := 0, hops := 0, arg := 0, data := p.1 }
        State.mcPumpFuel k (s2.replicate g m false) g

/-- What waits on a group's stream sent as far as it may be. -/
def State.mcPump (s : State) (g : Nat) : State := State.mcPumpFuel (s.group g).queue.length s g

/-! ## The receiver -/

/-- The receive buffer of a group: base and size, bits 5:0 ignored (R308). -/
def State.mcBuffer (s : State) (g : Nat) : Nat × Nat := (s.mcObj g 4 / 64 * 64, s.mcObj g 5 / 64 * 64)

/-- The consumption offset C_r and the delivered offset, as the group's objects hold them (R298). -/
def State.mcConsumed (s : State) (g : Nat) : Nat := s.count (s.mcObj g 6 % 2 ^ 14)

/-- The delivered offset. -/
def State.mcDeliveredOff (s : State) (g : Nat) : Nat := s.count (s.mcObj g 7 % 2 ^ 14)

/-- Bytes of the stream placed in the receive buffer from offset `x` on, line by line with their markers (R298). -/
def State.mcPlace (s : State) (g x : Nat) (data : List Byte) (poison : List Bool) : State :=
  let b := s.mcBuffer g
  if b.2 = 0 then s
  else
    (List.range (ceilDiv data.length 64)).foldl (fun s i =>
      let part := slice data (64 * i) (min 64 (data.length - 64 * i))
      let at' := (x + 64 * i) % b.2
      let head := min part.length (b.2 - at')
      let s1 := (s.writePhys (b.1 + at') (part.take head) (poison.getD i false)).2
      if head < part.length then (s1.writePhys b.1 (part.drop head) (poison.getD i false)).2 else s1) s

/-- The bytes the module writes with the poison of a shed buffer: the spec states only that the lines are poisoned. -/
def freeBytes (k n : Nat) : List Byte := (List.range n).map fun i => BitVec.ofNat 8 (Config.freeNat k / 256 ^ i)

/-- A shed receiver's buffer poisoned over the offsets from the mark up to C_r + RSIZE - 1 (R300). -/
def State.mcPoison (s : State) (g : Nat) : State :=
  let x := s.group g
  let limit := s.mcConsumed g + (s.mcBuffer g).2
  if bit (s.mcObj g 8) 0 = false ∨ limit ≤ x.poisonedTo then s
  else
    let d := s.draw
    let n := min (limit - x.poisonedTo) (s.mcBuffer g).2
    let s1 := d.2.putGroup g { x with poisonedTo := limit }
    s1.mcPlace g (limit - n) (freeBytes d.1 n) (List.replicate (ceilDiv n 64) true)

end Sys2Proof.Machine
end

