-- ==== Sys2Proof/Machine/StreamOps.lean ====
section
/-! DEFINITION. The stream engines' named operations: threads and their records (R219 to R222, R244), entries (R223 to
R226), the scoreboards (R228), laces (R229), remote requests (R293) and appends to multicast streams (R298). -/

namespace Sys2Proof.Machine

/-! ## Threads -/

/-- A thread. -/
def State.thread (s : State) (eng thr : Nat) : Thread := s.streams.threads.get (eng * 64 + thr) Thread.reset

/-- The state with a thread replaced. -/
def State.putThread (s : State) (eng thr : Nat) (t : Thread) : State :=
  { s with streams := { s.streams with threads := s.streams.threads.set (eng * 64 + thr) t Thread.reset } }

/-- The die of a stream engine: engines 20 and 21 are those of TD0 and TD1 (R219). -/
def engDie (eng : Nat) : Nat := if eng < 20 then eng else eng + 2

/-- A record of a thread's command (R222, R244). -/
def State.threadRecord (s : State) (t : Thread) (status : Nat) (sync : Nat) : State :=
  s.complete { kind := 2, status := status, state := 0, tag := t.tag, tDone := s.tick, tTaken := t.tTaken, code := t.cmd,
               xcode := 0, poison := false, awl := false, forecast := false, deadline := t.deadline } t.counts t.cring sync

/-- A record of a command that has no pass of its own (R222, R246, R247). -/
def State.commandRecord (s : State) (code tag cring deadline taken status state : Nat) : State :=
  s.complete { kind := 2, status := status, state := state, tag := tag, tDone := s.tick, tTaken := taken, code := code,
               xcode := 0, poison := false, awl := false, forecast := false, deadline := deadline } Counts.zero cring 0

/-- A thread made idle: its list, entries and marks are gone (R220, R222). -/
def State.idleThread (s : State) (eng thr : Nat) : State :=
  let s1 := s.putThread eng thr Thread.reset
  { s1 with streams := { s1.streams with board := s1.streams.board.filter fun m => m.key ≠ eng * 64 + thr },
            fab := { s1.fab with remotes := s1.fab.remotes.filter fun r => !(r.eng = eng ∧ r.thr = thr) } }

/-- A lost die's stream engine: running and parked threads write a record with STATUS 0x02 and become idle (R417); the
counts of a parked thread's last pass went out with that pass. -/
def State.killEngine (s : State) (eng : Nat) : State :=
  (List.range 64).foldl (fun s thr =>
    let t := s.thread eng thr
    match t.mode with
    | .idle => s
    | .running =>
      let s1 := (s.idleThread eng thr).threadRecord t 2 0
      t.stopping.foldl (fun s c => s.commandRecord 3 c.tag c.cring c.deadline c.taken 2 0) s1
    | .parked =>
      let s1 := (s.idleThread eng thr).threadRecord { t with counts := Counts.zero } 2 0
      t.stopping.foldl (fun s c => s.commandRecord 3 c.tag c.cring c.deadline c.taken 2 0) s1) s

/-- The end of a pass's list: COUNT, or earlier where a batch lay beyond the window (R230). -/
def Thread.ending (t : Thread) : Nat := t.stopAt.getD t.count

/-- An operation has closed on a die: the running threads of its engine note the lengths its phases ran, where its
lasting began after their pass (R227). -/
def State.noteClosed (s : State) (d lastAt : Nat) (lens : List Nat) : State :=
  (List.range 64).foldl (fun s thr =>
    let t := s.thread d thr
    if t.mode = .running ∧ t.startedAt < lastAt then s.putThread d thr { t with bound := t.bound ++ [lens] } else s) s

/-! ## Entries -/

/-- A stream entry (R223, R224). -/
structure Entry where
  src : Nat
  srcDev : Nat
  dst : Nat
  dstDev : Nat
  len : Nat
  rows : Nat
  sPitch : Nat
  dPitch : Nat
  popLace : Nat
  pushLace : Nat
  phase : Nat
  cycle : Nat
  low : Nat
  flags : Nat
deriving DecidableEq, Repr

/-- The entry that 32 bytes give. -/
def Entry.decode (b : List Byte) : Entry :=
  { src := field b 0 8 % 2 ^ 52, srcDev := field b 0 8 / 2 ^ 52, dst := field b 8 8 % 2 ^ 52, dstDev := field b 8 8 / 2 ^ 52,
    len := field b 16 4, rows := field b 20 2, sPitch := field b 22 2, dPitch := field b 24 2, popLace := field b 26 1 / 16,
    pushLace := field b 26 1 % 16, phase := bits (field b 28 4) 25 24, cycle := field b 28 4 % 2 ^ 24, low := field b 8 4,
    flags := field b 27 1 }

/-- EFLAGS (R224). -/
def Entry.push (e : Entry) : Bool := bit e.flags 7
/-- POP, which ZERO ignores. -/
def Entry.pop (e : Entry) : Bool := bit e.flags 6 && !bit e.flags 0
/-- NOTIFY. -/
def Entry.notify (e : Entry) : Bool := bit e.flags 5
/-- FENCE. -/
def Entry.fence (e : Entry) : Bool := bit e.flags 4
/-- STAGE. -/
def Entry.stage (e : Entry) : Bool := bit e.flags 3
/-- RDST. -/
def Entry.rdst (e : Entry) : Bool := bit e.flags 2
/-- RSRC, which ZERO ignores. -/
def Entry.rsrc (e : Entry) : Bool := bit e.flags 1 && !bit e.flags 0
/-- ZERO. -/
def Entry.zero (e : Entry) : Bool := bit e.flags 0
/-- The destination is a multicast group's stream (R298). -/
def Entry.group (e : Entry) : Option Nat := if e.rdst ∧ 0xC00 ≤ e.dstDev ∧ e.dstDev < 0xFFF then some (e.dstDev - 0xC00) else none

/-- Source and destination of row `r` (R225). -/
def Entry.row (e : Entry) (t : Thread) (h r : Nat) : Nat × Nat :=
  ((t.sbase + e.src + h + r * e.sPitch * 64) % 2 ^ 52, (t.dbase + e.dst + r * e.dPitch * 64) % 2 ^ 52)

/-- The rows of an entry that move anything. -/
def Entry.rowList (e : Entry) : List Nat := if e.len = 0 then [] else List.range e.rows

/-- The scratchpad lines of an engine's own die that an entry's destination touches, in increasing order (R228). -/
def State.stageLines (s : State) (eng : Nat) (t : Thread) (e : Entry) : List Nat :=
  if e.rdst ∨ 20 ≤ eng then []
  else
    let w := s.window t.task
    sortBy (fun a b => a ≤ b) (dedup (e.rowList.flatMap fun r =>
      (piecesOf (e.row t 0 r).2 e.len).filterMap fun p =>
        match s.xlate w eng p.1 with
        | .at a => if scratchAddr eng 0 ≤ a ∧ a < scratchAddr (eng + 1) 0 then some (a / 64) else none
        | _ => none))

/-- The lines marked pending on a die. -/
def State.boardSize (s : State) (eng : Nat) : Nat := s.streams.board.countP fun m => m.key / 64 = eng

/-- Whether the scoreboard lets an entry issue: room for all its lines, or none marked where it has more than 4,096 (R228). -/
def State.boardRoom (s : State) (eng : Nat) (lines : List Nat) : Bool :=
  if 4096 < lines.length then decide (s.boardSize eng = 0) else decide (s.boardSize eng + lines.length ≤ 4096)

/-- Whether AT allows an entry of a compute die to issue (R227). -/
def State.atReached (s : State) (eng : Nat) (t : Thread) (e : Entry) : Bool :=
  let ranIn := fun (lens : List Nat) => decide (lens.length < e.phase) || decide (e.cycle ≤ lens.getD (e.phase - 1) 0)
  e.phase = 0 || 20 ≤ eng || t.bound.any ranIn ||
    s.arr.ops.any fun op =>
      let x := op.die eng
      let lens := match op.plan with
        | some p => (p.die eng).lens
        | none => []
      t.startedAt < x.lastAt && ((x.stage = .running || x.stage = .arrived) &&
        ((x.phase = e.phase && e.cycle ≤ x.ran) || (e.phase < x.phase && e.cycle ≤ lens.getD (e.phase - 1) 0)))

/-! ## Laces -/

/-- A lace. -/
def State.lace (s : State) (eng n : Nat) : Lace := s.streams.laces.get (eng * 16 + n) Lace.empty

/-- The state with a lace replaced. -/
def State.putLace (s : State) (eng n : Nat) (l : Lace) : State :=
  { s with streams := { s.streams with laces := s.streams.laces.set (eng * 16 + n) l Lace.empty } }

/-! ## Moving data -/

/-- The bytes of a source run as a stream reads them, each with its line's marker, and the counts (R218, R226). -/
def State.streamRead (s : State) (w : Window) (die a n : Nat) (c : Counts) : List (Byte × Bool) × State × Counts :=
  (piecesOf a n).foldl (fun acc p =>
    let r := acc.2.1.taskLine w die p.1 p.2
    (acc.1 ++ r.bytes.map (fun b => (b, r.poison)), acc.2.1.countTaskRead r, acc.2.2.addTaskRead r)) ([], s, c)

/-- A run of bytes written by a stream, line by line with their markers, and the lines counted at 7170:03 (R218, R226). -/
def State.streamWrite (s : State) (w : Window) (die a : Nat) (data : List (Byte × Bool)) (c : Counts) : State × Counts :=
  (piecesOf a data.length).foldl (fun acc p =>
    let part := (data.drop (p.1 - a)).take p.2
    (acc.1.bump 0x717003 1).taskWriteLine w die p.1 (List.replicate p.2 true) (part.map fun x => x.1) (part.any fun x => x.2) acc.2) (s, c)

/-- The bytes of row `r` of an entry from a local source, or zeros, and the counts. -/
def State.rowData (s : State) (eng : Nat) (t : Thread) (e : Entry) (h r : Nat) (bad : Bool) (c : Counts) :
    List (Byte × Bool) × State × Counts :=
  if e.zero then (List.replicate e.len (0, false), s, c)
  else
    let x := s.streamRead (s.window t.task) (engDie eng) (e.row t h r).1 e.len c
    (if bad ∧ r = 0 then (x.1.take 64).map (fun b => (b.1, true)) ++ x.1.drop 64 else x.1, x.2)

/-! ## Remote requests -/

/-- A transaction tag taken for a request (R291). -/
def State.takeTag (s : State) : Nat × State :=
  (s.fab.nextTag, { s with fab := { s.fab with nextTag := (s.fab.nextTag + 1) % 65536 } })

/-- A request message of this module. -/
def State.request (s : State) (mtype dev addr len tag arg : Nat) (data : List Byte) (poison : List Bool) : Msg :=
  { mtype := mtype, dn := false, poison := poison, dst := dev, src := s.devId, len := len, addr := addr % 2 ^ 52,
    txtag := tag, hops := 0, arg := BitVec.ofNat 32 arg, data := data }

/-- An issued entry of a thread changed. -/
def State.onEntry (s : State) (eng thr index : Nat) (f : IssuedEntry → IssuedEntry) : State :=
  let t := s.thread eng thr
  s.putThread eng thr { t with issued := t.issued.map fun x => if x.index = index then f x else x }

/-- The outstanding remote requests of a thread's entry counted up or down. -/
def State.addRemote (s : State) (eng thr index : Nat) (up : Bool) : State :=
  s.onEntry eng thr index fun x => { x with remote := if up then x.remote + 1 else x.remote - 1 }

/-- A READ of a remote run, whose bytes go to `dst`: a task address, or a fabric global address (R293). -/
def State.remoteRead (s : State) (eng thr index dev addr len dst : Nat) (remoteDst : Bool) : State :=
  let x := s.takeTag
  let s1 : State := { x.2 with fab := { x.2.fab with remotes := x.2.fab.remotes ++
    [{ tag := x.1, eng := eng, thr := thr, index := index, addr := dst, remoteDst := remoteDst, len := len }] } }
  (s1.addRemote eng thr index true).sendMsg (s1.request 1 dev addr len x.1 0 [] [])

/-- The poison markers of the 64-byte lines of a message's data (R291). -/
def lineMarks (data : List (Byte × Bool)) : List Bool :=
  (chunks 64 4 data).map fun l => l.any fun x => x.2

/-- A WRITE of at most 256 bytes to a remote address (R293). -/
def State.remoteWrite (s : State) (eng thr index dev addr : Nat) (data : List (Byte × Bool)) : State :=
  let x := s.takeTag
  let s1 : State := { x.2 with fab := { x.2.fab with remotes := x.2.fab.remotes ++
    [{ tag := x.1, eng := eng, thr := thr, index := index, addr := addr, remoteDst := true, len := 0 }] } }
  (s1.addRemote eng thr index true).sendMsg (s1.request 2 dev addr data.length x.1 0 (data.map Prod.fst) (lineMarks data))

/-- A run of bytes written to a remote address in messages of up to 256 bytes; each line moved counts at 7170:03. -/
def State.remoteRun (s : State) (eng thr index dev addr : Nat) (data : List (Byte × Bool)) : State :=
  (readPieces data.length).foldl (fun s p =>
    (s.bump 0x717003 (ceilDiv p.2 64)).remoteWrite eng thr index dev (addr + p.1) ((data.drop p.1).take p.2)) s

/-- Bytes appended to a group's stream, in pieces of at most 256 bytes; a module that is not its sender clips them, line
by line (R218, R298). -/
def State.mcAppend (s : State) (g : Nat) (data : List (Byte × Bool)) (c : Counts) : State × Counts :=
  if s.mcMode g = 1 ∨ s.mcMode g = 2 then
    let x := s.group g
    let parts := (readPieces data.length).map fun p =>
      let part := (data.drop p.1).take p.2
      (part.map Prod.fst, lineMarks part)
    (((s.bump 0x717003 (ceilDiv data.length 64)).putGroup g
      { x with queue := x.queue ++ parts, appended := x.appended + data.length }).mcPump g, c)
  else
    let n := ceilDiv data.length 64
    (s.bump 0x717002 n, { c with clipped := c.clipped + n })

/-- The scratchpad lines of an entry's own die that `n` bytes at task address `a` lie in. -/
def State.linesAt (s : State) (eng : Nat) (t : Thread) (a n : Nat) : List Nat :=
  (piecesOf a n).filterMap fun p =>
    match s.xlate (s.window t.task) eng p.1 with
    | .at a => if scratchAddr eng 0 ≤ a ∧ a < scratchAddr (eng + 1) 0 then some (a / 64) else none
    | _ => none

/-- Whether an entry may request what goes to `n` bytes at task address `a`: one with STAGE only once those lines are marked (R228). -/
def State.linesMarked (s : State) (eng : Nat) (t : Thread) (e : Entry) (x : IssuedEntry) (a n : Nat) : Bool :=
  if !e.stage ∨ e.rdst ∨ 20 ≤ eng then true
  else
    let lines := s.stageLines eng t e
    decide (lines.length ≤ x.marked) || (s.linesAt eng t a n).all fun l => (lines.take x.marked).contains l

/-- The next READ of an entry whose source is remote, 4,096 bytes at most (R293, R294), where it may be sent: one of a staged entry
once its lines are marked, and one that feeds a multicast stream once the READ before it has been answered, so that the stream
takes the bytes in order (R228, R298). -/
def State.askRemote (s : State) (eng thr index : Nat) : Option State :=
  let t := s.thread eng thr
  match t.issued.find? fun x => x.index = index with
  | none => none
  | some x =>
    let e := Entry.decode x.entry
    let a := e.row t x.handle x.row
    let n := min 4096 (e.len - x.off)
    if e.len = 0 ∨ e.rows ≤ x.row ∨ (e.group.isSome ∧ x.remote ≠ 0) ∨ s.linesMarked eng t e x (a.2 + x.off) n = false then none
    else
      let s1 := s.onEntry eng thr index fun x => if e.len ≤ x.off + n then { x with row := x.row + 1, off := 0 } else { x with off := x.off + n }
      some (s1.remoteRead eng thr index e.srcDev (a.1 + x.off) n ((if e.rdst then e.dstDev * 2 ^ 52 else 0) + a.2 + x.off) e.rdst)

/-- The READs of an entry that may be sent, with fuel for their number. -/
def State.askAll (s : State) (eng thr index : Nat) : Nat → State
  | 0 => s
  | k + 1 =>
    match s.askRemote eng thr index with
    | some s1 => s1.askAll eng thr index k
    | none => s

/-- The READs that an entry may send now (R293). -/
def State.askNow (s : State) (eng thr index : Nat) (e : Entry) : State := s.askAll eng thr index (e.rows * ceilDiv e.len 4096)

/-- One row of an entry whose destination is remote: appended to its group's stream, or sent to its module (R293, R298). -/
def State.deliverRow (s : State) (eng thr index : Nat) (t : Thread) (e : Entry) (h r : Nat) (bad : Bool) (c : Counts) : State × Counts :=
  let x := s.rowData eng t e h r bad c
  match e.group with
  | some g => x.2.1.mcAppend g x.1 x.2.2
  | none => (x.2.1.remoteRun eng thr index e.dstDev (e.row t h r).2 x.1, x.2.2)

/-- The end of an entry's bytes on a group's stream, noted as it appends them (R298). -/
def State.noteAppend (s : State) (eng thr index g : Nat) : State :=
  if s.mcMode g = 1 ∨ s.mcMode g = 2 then s.onEntry eng thr index fun x => { x with mcEnd := some (g, (s.group g).appended) } else s

/-- What an entry sends over the fabric when it issues: READs of a remote source, WRITEs or an append for a remote
destination (R293, R298). -/
def State.sendEntry (s : State) (eng thr index : Nat) (t : Thread) (e : Entry) (h : Nat) (bad : Bool) : State × Counts :=
  if !e.rsrc && !e.rdst then (s, t.counts)
  else if e.rsrc then (s.askNow eng thr index e, t.counts)
  else e.rowList.foldl (fun (acc : State × Counts) r => acc.1.deliverRow eng thr index t e h r bad acc.2) (s, t.counts)

/-! ## Line requests -/

/-- Whether an entry whose source and destination are local still has lines to request. -/
def IssuedEntry.requests (x : IssuedEntry) : Bool :=
  let e := Entry.decode x.entry
  !e.rsrc && !e.rdst && decide (e.len ≠ 0) && decide (x.row < e.rows)

/-- Whether every request of an entry is made and every line it moves has landed, before the present cycle (R226, R454). -/
def IssuedEntry.landed (x : IssuedEntry) (cycle : Nat) : Bool :=
  let e := Entry.decode x.entry
  (decide (e.len = 0) || decide (e.rows ≤ x.row) || (!e.rsrc && e.rdst)) && decide (x.flying = []) && decide (x.landedAt < cycle) &&
    decide (x.issuedAt < cycle) && decide (x.remote = 0)

/-- The entry whose next line a thread requests: the oldest with lines to request (R226). -/
def Thread.requesting (t : Thread) : Option IssuedEntry := t.issued.find? IssuedEntry.requests

/-- The bytes of an entry's row that its next request covers: up to the end of a line of the source, or of the destination where zeros
are written (R218, R225). -/
def IssuedEntry.span (x : IssuedEntry) (e : Entry) (a : Nat × Nat) : Nat :=
  min (e.len - x.off) (64 - ((if e.zero then a.2 else a.1) + x.off) % 64)

/-- The line requests that an engine may issue in a cycle beside a request: 8, and fewer where the source is an HBM half or the way
crosses a link, where both ends lie in one die's half, and where a tier die's memory takes part (R94, R179, R212, R232; see the log). -/
def State.requestCap (s : State) (eng : Nat) (t : Thread) (e : Entry) (a : Nat × Nat) : Nat :=
  let at' := fun p => match s.xlate (s.window t.task) (engDie eng) p with
    | .at q => s.place q
    | _ => .unmapped
  match (if e.zero then .unmapped else at' a.1), at' a.2 with
  | .tier _ _, _ => 1
  | _, .tier _ _ => 1
  | .hbm d _, .hbm f _ => if d = f then 3 else 7
  | .hbm _ _, _ => 7
  | .scratch d _, .scratch f _ => if d = eng ∧ f = eng then 8 else 7
  | _, _ => 8

/-- The bytes that have been read of an entry's row and go to destination lines now complete, as lines on their way, and the bytes
kept for the next one; the end of a row completes its last line (R226). -/
def lineWrites (due addr : Nat) (data : List (Byte × Bool)) (last : Bool) : List LineWrite × List (Byte × Bool) :=
  let k := if last then data.length else (addr + data.length) / 64 * 64 - addr
  ((piecesOf addr k).map fun p => { due := due, addr := p.1, data := (data.drop (p.1 - addr)).take p.2 }, data.drop k)

/-- The next line request of a thread, where it may be made with `used` made in the cycle before it: the line is read now, and what it
completes lands 96 cycles later (R226, R232, R454). -/
def State.requestLine (s : State) (eng thr used : Nat) : Option State :=
  let t := s.thread eng thr
  match t.requesting with
  | none => none
  | some x =>
    let e := Entry.decode x.entry
    let a := e.row t x.handle x.row
    let n := x.span e a
    let src := (a.1 + x.off, a.2 + x.off)
    let first := src.2 - x.carry.length
    if s.cycle < t.readyAt ∨ s.requestCap eng t e src ≤ used ∨ s.linesMarked eng t e x first (x.carry.length + n) = false then none
    else
      let r := s.taskLine (s.window t.task) (engDie eng) src.1 n
      let bad := x.parity && decide (x.row = 0) && decide (x.off = 0)
      let new := if e.zero then List.replicate n (0, false) else r.bytes.map fun b => (b, r.poison || bad)
      let last := decide (e.len ≤ x.off + n)
      let w := lineWrites (s.cycle + 96) first (x.carry ++ new) last
      let s1 := if e.zero then s else s.countTaskRead r
      let y := { x with row := if last then x.row + 1 else x.row, off := if last then 0 else x.off + n, carry := w.2, flying := x.flying ++ w.1 }
      some (s1.putThread eng thr { t with
        counts := if e.zero then t.counts else t.counts.addTaskRead r
        waitSince := none
        issued := t.issued.map fun z => if z.index = x.index then y else z })

/-- Up to so many line requests of a thread in a cycle; the number made in the cycle by then. -/
def State.threadRequests (s : State) (eng thr : Nat) : Nat → Nat → State × Nat
  | 0, used => (s, used)
  | k + 1, used =>
    match s.requestLine eng thr used with
    | some s1 => s1.threadRequests eng thr k (used + 1)
    | none => (s, used)

/-- The threads of an engine that run a pass. -/
def State.runningThreads (s : State) (eng : Nat) : List Nat :=
  (s.streams.threads.filter fun x => decide (x.1 / 64 = eng) && decide (x.2.mode = .running)).map fun x => x.1 % 64

/-- Whether a thread is served before another: by its PRIO and the rounds it has lost, then the older request, then the lower
number (R264, R454). -/
def State.ranksBefore (s : State) (eng a b : Nat) : Bool :=
  let x := s.thread eng a
  let y := s.thread eng b
  let since := fun (t : Thread) => t.waitSince.getD s.cycle
  let rank := fun (t : Thread) => t.prio + min 63 (s.cycle - since t)
  decide (rank y < rank x) || (decide (rank x = rank y) && (decide (since x < since y) || (decide (since x = since y) && decide (a ≤ b))))

/-- The line requests of an engine in a cycle: at most 4 of a thread and 8 in all, the threads served by rank (R232, R454). -/
def State.engineRequests (s : State) (eng : Nat) : State :=
  ((sortBy (s.ranksBefore eng) (s.runningThreads eng)).foldl (fun (acc : State × Nat) thr =>
    let x := acc.1.threadRequests eng thr (min 4 (8 - acc.2)) acc.2
    let t := x.1.thread eng thr
    if x.2 = acc.2 ∧ t.requesting.isSome ∧ t.readyAt ≤ s.cycle ∧ t.waitSince = none then
      (x.1.putThread eng thr { t with waitSince := some s.cycle }, x.2)
    else x) (s, 0)).1

/-- The mark that an entry set on a scratchpad line is cleared where the line is written (R228). -/
def State.clearMark (s : State) (eng thr index addr : Nat) : State :=
  match s.xlate (s.window (s.thread eng thr).task) (engDie eng) addr with
  | .at p =>
    let rest := s.streams.board.filter fun m => !(m.key = eng * 64 + thr ∧ m.index = index ∧ m.line = p / 64)
    { s with streams := { s.streams with board := rest } }
  | _ => s

/-- A line of an entry lands: it is written with its markers, its mark clears, and the thread notes its count and, where the line is
mirrored, its sequence (R218, R226, R228, R304). -/
def State.landLine (s : State) (eng thr index : Nat) (l : LineWrite) : State :=
  let t := s.thread eng thr
  let r := s.streamWrite (s.window t.task) (engDie eng) l.addr l.data t.counts
  let seq := if r.1.get 0x510006 = s.get 0x510006 then t.mirSeq else r.1.get 0x510006
  (r.1.putThread eng thr { t with counts := r.2, mirSeq := seq }).clearMark eng thr index l.addr

/-- The lines of an entry that land in this cycle (R454). -/
def State.landEntry (s : State) (eng thr : Nat) (x : IssuedEntry) : State :=
  let due := x.flying.filter fun l => decide (l.due ≤ s.cycle)
  if due = [] then s
  else (due.foldl (fun s l => s.landLine eng thr x.index l) s).onEntry eng thr x.index fun y =>
    { y with flying := y.flying.filter fun l => decide (s.cycle < l.due), landedAt := s.cycle }

/-- A staged entry marks further of its lines, in increasing order, as the scoreboard has room (R228). -/
def State.markMore (s : State) (eng thr : Nat) (x : IssuedEntry) : State :=
  let e := Entry.decode x.entry
  if !e.stage then s
  else
    let lines := s.stageLines eng (s.thread eng thr) e
    let new := (lines.drop x.marked).take (4096 - s.boardSize eng)
    if new = [] then s
    else
      let board := s.streams.board ++ new.map fun l => { line := l, key := eng * 64 + thr, index := x.index }
      State.onEntry { s with streams := { s.streams with board := board } } eng thr x.index fun y => { y with marked := y.marked + new.length }

/-- What a cycle does for an issued entry besides its requests: its lines land, marks are set, and READs that waited are sent. -/
def State.entryCycle (s : State) (eng thr : Nat) (x : IssuedEntry) : State :=
  let s1 := (s.landEntry eng thr x).markMore eng thr x
  let e := Entry.decode x.entry
  if e.rsrc then s1.askNow eng thr x.index e else s1

/-- One cycle of a stream engine (R228, R232, R454). -/
def State.engineCycle (s : State) (eng : Nat) : State :=
  ((s.runningThreads eng).foldl (fun s thr => (s.thread eng thr).issued.foldl (fun s x => s.entryCycle eng thr x) s) s).engineRequests eng

/-- One cycle of every stream engine that runs a pass. -/
def State.streamCycle (s : State) : State :=
  (dedup (s.streams.threads.map fun x => x.1 / 64)).foldl State.engineCycle s

/-- Whether every receiver that is not shed has reported delivery up to the end of an entry's bytes (R298). -/
def State.mcDelivered (s : State) (x : Nat × Nat) : Bool :=
  (s.mcMode x.1 != 1 && s.mcMode x.1 != 2) ||
    (x.2 ≤ (s.group x.1).sentOff && (s.group x.1).receivers.all fun r => r.shed || r.removed || decide (x.2 ≤ r.delivered))

end Sys2Proof.Machine
end

