-- ==== Sys2Proof/Machine/Rings.lean ====
section
/-! DEFINITION. Rings, synchronization objects and laces as software reaches them (R229, R235 to R241, R248, R249, R310,
R405). -/

namespace Sys2Proof.Machine

/-! ## Laces -/

/-- The module's number of a lace (R310), and the die that holds it. -/
def laceNumber (eng k : Nat) : Nat := 16 * eng + k

/-- A handle pushed onto a lace by its window: dropped where the lace is full (R229). -/
def State.lacePush (s : State) (eng lace : Nat) (h : U32) : State :=
  let l := s.lace eng lace
  if 64 ≤ l.handles.length then s.bump 0x717008 1 else s.putLace eng lace { l with handles := l.handles ++ [h] }

/-- A handle popped from a lace by its window; an empty lace returns the handle last popped and sets UNDERRUN (R229). -/
def State.lacePop (s : State) (eng lace : Nat) : U32 × State :=
  let l := s.lace eng lace
  match l.handles with
  | [] => (l.last, (s.putLace eng lace { l with underrun := true }).bump 0x717007 1)
  | h :: rest => (h, s.putLace eng lace { l with handles := rest, last := h })

/-- The status of a lace: UNDERRUN in bit 0, the handles held in bits 14:8 (R310). -/
def laceStatus (l : Lace) : Nat := (if l.underrun then 1 else 0) + l.handles.length % 128 * 256

/-- A write to a lace's status: 1 in bit 0 clears UNDERRUN (R310). -/
def State.laceClear (s : State) (eng lace v : Nat) : State :=
  if bit v 0 then s.putLace eng lace { s.lace eng lace with underrun := false } else s

/-- A handle pushed by a hub core (R229). -/
def execLaceWindowPush (eng lace : Nat) (h : U32) (s : State) : Out :=
  if !s.railsUp then .next s else .next (s.lacePush eng lace h)

/-- The value a window read returned. -/
def State.returned (s : State) (v : List Byte) : State := { s with hub := { s.hub with readValue := v } }

/-- A handle popped by a hub core. An uncorrectable word of the lace empties it first (R229, R405). -/
def execLaceWindowPop (eng lace : Nat) (ctlErr : Bool) (s : State) : Out :=
  if !s.railsUp then .next s
  else
    let s1 := if ctlErr then (s.putLace eng lace { s.lace eng lace with handles := [] }).controlReset (engDie eng) 3 (laceNumber eng lace)
      else s
    let x := s1.lacePop eng lace
    .next (x.2.returned (leBytes 4 x.1.toNat))

/-- A write to a lace's status: 1 in bit 0 clears UNDERRUN (R310). -/
def execLaceStatusWrite (eng lace : Nat) (v : U64) (s : State) : Out :=
  if !s.railsUp then .next s else .next (s.laceClear eng lace v.toNat)

/-! ## Rings -/

/-- An uncorrectable word in a ring's context: the ring is reset, with both records (R241, R405). -/
def State.ringUncorrectable (s : State) (n : Nat) : State := (s.ringReset n).controlReset 24 1 n

/-- An entry pushed through a PUSH window: only TYPE 1, 2 and 5 take it, and a full ring drops it with OVERFLOW (R239). -/
def State.ringPush (s0 : State) (n : Nat) (entry : List Byte) : State :=
  let s := s0.ringCheck n
  let r := s.ring n
  let t := ringType n r
  if t ≠ 1 ∧ t ≠ 2 ∧ t ≠ 5 then s.ringDrop n
  else if ringFull r then (s.putRing n { r with overflow := true }).ringDrop n
  else s.ringStore n (fit (ringSlotSize n r) entry)

/-- The entry a POP window gives, and the ring after it (R239): the slot at CI, or, on an empty ring, what POP returned
last. -/
def State.ringPop (s0 : State) (n : Nat) : List Byte × State :=
  let s := s0.ringCheck n
  let r := s.ring n
  if ringHeld r = 0 then (fit 128 r.lastPop, (s.putRing n { r with underrun := true }).bump 0x717007 1)
  else
    let x := s.readPhys (ringSlotAddr n r r.ci) (ringSlotSize n r)
    let r1 := { (x.2.2.2.ring n).setCi (r.ci + 1) with lastPop := x.1 }
    (fit 128 x.1, (x.2.2.2.putRing n r1).flushHeld n)

/-- A software write of PI or CI, judged against the other index (R238). -/
def State.ringIndex (s0 : State) (n : Nat) (which : RingIndex) (v : U32) : State :=
  let s := s0.ringCheck n
  let r := s.ring n
  match which with
  | .pi =>
    if ringSlots r < (v - r.ci).toNat then s.putRing n { r with overflow := true } else s.putRing n (r.setPi v)
  | .ci =>
    if ringSlots r < (r.pi - v).toNat then s.putRing n { r with underrun := true } else (s.putRing n (r.setCi v)).flushHeld n

/-- A write of a field of a ring's context: STATUS clears the bits written with 1, ring 0's TYPE ignores writes, and reserved bits are not
kept (R7, R235, R237). -/
def State.ringField (s : State) (n : Nat) (fld : RingField) (v : Nat) : State :=
  let r := s.ring n
  match fld with
  | .base => s.putRing n { r with base := BitVec.ofNat 64 (v % 2 ^ 52) }
  | .type => if n = 0 then s else s.putRing n { r with type := BitVec.ofNat 8 v }
  | .order => s.putRing n { r with order := BitVec.ofNat 8 (v % 32) }
  | .esize => s.putRing n { r with esize := BitVec.ofNat 8 (v % 4) }
  | .sync => s.putRing n { r with sync := BitVec.ofNat 16 (v % 2 ^ 14 + v / 2 ^ 15 % 2 * 2 ^ 15) }
  | .irq => s.putRing n { r with irq := BitVec.ofNat 16 (v % 2 ^ 12 + v / 2 ^ 15 % 2 * 2 ^ 15) }
  | .status => s.putRing n { r with underrun := r.underrun && !bit v 0, overflow := r.overflow && !bit v 1, reset := r.reset && !bit v 3 }

/-- The 64 bytes of a ring's context as software reads them: TYPE as R236 and R237 have it read (R235). -/
def ringContext (n : Nat) (r : Ring) : List Byte :=
  let st := (if r.underrun then 1 else 0) + (if r.overflow then 2 else 0) + (if r.held then 4 else 0) + (if r.reset then 8 else 0)
  leBytes 8 r.base.toNat ++ leBytes 1 (ringType n r) ++ leBytes 1 r.order.toNat ++ leBytes 1 r.esize.toNat ++ leBytes 1 0 ++
    leBytes 2 r.sync.toNat ++ leBytes 2 r.irq.toNat ++ leBytes 4 r.pi.toNat ++ leBytes 4 r.piDup.toNat ++ leBytes 4 r.ci.toNat ++
    leBytes 4 r.ciDup.toNat ++ leBytes 4 st ++ leBytes 4 r.drops.toNat ++ List.replicate 24 0

/-- The bytes that a writer has stored in a ring's PUSH window since its last push there: the endpoint and each hub core have a buffer of
their own; a fabric die stores a message's entry whole, so that its buffer is empty between two of them (R312). -/
def State.pushBuffer (s : State) (w : RingWriter) (n : Nat) : List Byte :=
  match w with
  | .endpoint => s.hub.epPush.get n []
  | .core c => s.hub.corePush.get (c * 8192 + n) []
  | .fabric _ => []

/-- The state with a writer's buffer for a ring replaced. -/
def State.putPushBuffer (s : State) (w : RingWriter) (n : Nat) (b : List Byte) : State :=
  match w with
  | .endpoint => { s with hub := { s.hub with epPush := s.hub.epPush.set n b [] } }
  | .core c => { s with hub := { s.hub with corePush := s.hub.corePush.set (c * 8192 + n) b [] } }
  | .fabric _ => s

/-- A store to a PUSH window: its bytes are kept in the writer's buffer, and the push takes place with the last bytes of an entry of the
ring's slot size (R312). -/
def State.pushStore (s : State) (w : RingWriter) (n off len v : Nat) : State :=
  let old := fit 128 (s.pushBuffer w n)
  let buf := (List.range len).foldl (fun b i => b.set (off + i) (BitVec.ofNat 8 (v / 256 ^ i))) old
  if off + len = ringSlotSize n (s.ring n) then (s.putPushBuffer w n []).ringPush n (buf.take (off + len))
  else s.putPushBuffer w n buf

/-- A write to a ring's PUSH window of a whole entry, which replaces what the writer's buffer holds (R239, R312). A push to a full or deaf
ring is a wake event all the same (R379). -/
def execRingPushWindow (w : RingWriter) (ring : Nat) (entry : List Byte) (ctlErr : Bool) (s : State) : Out :=
  .next (s.access (.ringPush w ring entry) fun s =>
    (((if ctlErr then s.ringUncorrectable ring else s).putPushBuffer w ring []).ringPush ring entry).settle)

/-- A read of a ring's POP window (R239). -/
def execRingPopWindow (ring : Nat) (ctlErr : Bool) (s : State) : Out :=
  if !s.railsUp then .next s
  else
    let x := (if ctlErr then s.ringUncorrectable ring else s).ringPop ring
    .next (x.2.returned x.1).settle

/-- A software write of PI or CI; a PI write wakes the module (R238, R379). -/
def execRingIndexWrite (ring : Nat) (which : RingIndex) (v : U32) (s : State) : Out :=
  match which with
  | .pi => .next (s.access (.ringIndex ring .pi v) fun s => s.ringIndex ring .pi v)
  | .ci => .next (if s.railsUp then (s.ringIndex ring .ci v).settle else s)

/-- A software write of another field of a ring's context (R235). -/
def execRingStatusWrite (ring : Nat) (fld : RingField) (v : U64) (s : State) : Out :=
  .next (if s.railsUp then s.ringField ring fld v.toNat else s)

/-! ## Synchronization objects -/

/-- A window write at offset 0: COUNT is set, and the additions of the same cycle follow it; the array's own objects ignore it (R248,
R249). -/
def State.syncSet (s : State) (k v : Nat) : State := if k < 16 then s else s.putCount k (v + s.addedNow k)

/-- A window write at offset 8: COUNT rises; the array's own objects ignore it (R248). -/
def State.syncWindowAdd (s : State) (k v : Nat) : State := if k < 16 then s else s.addCount k v

/-- A window write at offset 0 (R248). -/
def execSyncWindowSet (obj : Nat) (v : U64) (s : State) : Out := .next (s.access (.syncSet obj v) fun s => s.syncSet obj v.toNat)

/-- A window write at offset 8; an uncorrectable word of the object sets its COUNT to 0 first (R248, R405). -/
def execSyncWindowAdd (obj : Nat) (v : U64) (ctlErr : Bool) (s : State) : Out :=
  .next (s.access (.syncAdd obj v) fun s =>
    ((if ctlErr then (s.putCount obj 0).controlReset 24 2 obj else s).syncWindowAdd obj v.toNat).settle)

/-- Additions that have crossed the welt network take effect in one cycle, in the order of no consequence: the first `waiting` of those
that wait at the object store, and those that reach it besides (R249, R262). -/
def execSyncAddArrival (adds : List (Nat × U64)) (waiting : Nat) (s : State) : Out :=
  if !s.railsUp then .next s
  else
    let s1 : State := { s with net := { s.net with adds := s.net.adds.drop waiting } }
    .next ((s.net.adds.take waiting ++ adds).foldl (fun s a => s.syncAdd a.1 a.2.toNat) s1)

end Sys2Proof.Machine
end

