-- ==== Sys2Proof/Machine/FabricMsg.lean ====
section
/-! DEFINITION. Messages at this module: forwarding (R289, R290), remote access and its responses (R292 to R295), and
discovery (R288). -/

namespace Sys2Proof.Machine

/-! ## The inbox -/

/-- The flits that the messages waiting from a lane of a port, and the bytes that make none yet, still hold in its receive
buffer. -/
def State.flitsNeeded (s : State) (p l : Nat) : Nat :=
  let here := s.fab.inbox.filter fun x => x.1 = some p ∧ x.2.lane = l
  ceilDiv (listSum (here.map fun x => 24 + x.2.dataLen) + ((s.port p).rxBytes.getD l []).length) 240

/-- The flits of a lane's receive buffer that nothing needs any longer leave it: each owes a credit (R281). -/
def State.freeBuffer (s : State) (p l : Nat) : State :=
  let x := s.port p
  let held := x.rxHeld.getD l 0
  let need := min held (s.flitsNeeded p l)
  s.putPort p { x with rxHeld := x.rxHeld.set l need, creditsOwed := x.creditsOwed.set l (x.creditsOwed.getD l 0 + (held - need)) }

/-- A message taken up: it leaves the inbox where it waited there, with the port it came by. -/
def State.takeMsg (s : State) (m : Msg) : Option Nat × State :=
  match s.fab.inbox.find? (fun x => x.2 = m) with
  | none => (none, s)
  | some x =>
    let s1 : State := { s with fab := { s.fab with inbox := s.fab.inbox.erase x } }
    match x.1 with
    | some p => (some p, s1.freeBuffer p m.lane)
    | none => (none, s1)

/-- The message that a command of the manager's or of a group's tells the content of, where one of its kind waits in the inbox: it is taken
up (R281). -/
def State.takeKind (s : State) (ok : Msg → Bool) : Option Nat × State :=
  match s.fab.inbox.find? (fun x => ok x.2) with
  | some x => s.takeMsg x.2
  | none => (none, s)

/-! ## Forwarding -/

/-- A message discarded under R290, with its count and, for a request, its answer. -/
def State.dropMsg (s : State) (m : Msg) : State := (s.bump 0x719008 1).discardMsg m

/-- A directed-route message as it leaves a module it crosses: the ingress port is appended to its data (R291). -/
def crossedMsg (m : Msg) (ingress : Option Nat) : Msg :=
  if m.dst = 0xFFF then { m with data := fit m.dataLen m.data ++ leBytes 1 (ingress.getD 0), len := m.length + 1 } else m

/-- The attachment die of port `p`'s row, or the one that takes its place (R258, R276). -/
def State.portAttach (s : State) (p : Nat) : Option Nat :=
  let edge := portUnit p
  attachActive s.activeDies edge (5 * (p % 4) + (if edge = 21 then 4 else 0))

/-- A message from another module that leaves by port `p`: through the crossbar at once, or, from a port of the other fabric die, across
the grid between the attachments of the two ports' rows, in transfers of at most 64 beats; where it cannot go it is discarded (R256,
R268, R276). -/
def State.passOn (s : State) (ingress : Option Nat) (p : Nat) (m : Msg) : State :=
  match ingress with
  | none => (s.leave p m true).getD (s.discardMsg m)
  | some q =>
    if portUnit q = portUnit p then (s.leave p m true).getD (s.discardMsg m)
    else match s.portAttach q, s.portAttach p with
      | some a, some b =>
        let path := route s.activeDies a b
        let beats := ceilDiv (24 + m.dataLen) 64
        let s1 := s.countBeats beats (path.1.length + 2) (ceilDiv beats 64) path.2
        { s1 with fab := { s1.fab with transit := s1.fab.transit ++
          [{ due := s.cycle + 12 * (path.1.length + 2) + ceilDiv beats 7, port := p, msg := m }] } }
      | _, _ => s.discardMsg m

/-- A message of another module's sent by every port of its group's tree (R297). -/
def State.replicateOn (s : State) (ingress : Option Nat) (g : Nat) (m : Msg) : State :=
  (s.group g).ports.foldl (fun s p => s.passOn ingress p m) s

/-- A message routed on (R289, R290, R297): delivered, sent to the next module, replicated on a tree, or discarded. -/
def State.forward (s : State) (ingress : Option Nat) (m : Msg) : State :=
  if (msgLimit m.mtype).isNone then s.dropMsg m
  else match s.nextHop m true with
    | .here => s.deliver ingress m
    | .port p =>
      if 15 ≤ m.hops ∨ (m.dn ∧ m.dst ≠ 0xFFF ∧ !s.isDown p) then s.dropMsg m
      else s.passOn ingress p (crossedMsg m ingress)
    | .ports _ =>
      let g := m.dst - 0xC00
      if 15 ≤ m.hops then s.dropMsg m
      else
        let s1 := s.replicateOn ingress g m
        if (s.group g).deliver then s1.deliver none m else s1
    | .noRoute => s.dropMsg m

/-- A message at this module is routed on (R290). One that wakes nothing passes in every state (R379). -/
def execMessageForward (ingress : Option Nat) (m : Msg) (s : State) : Out :=
  if !s.railsUp then .next s
  else
    let x := s.takeMsg m
    .next (x.2.forward (match x.1 with | some p => some p | none => ingress) m).settle

/-! ## Remote access -/

/-- Whether an import window admits a byte for a source: bit 0 of RIGHTS allows reads, bit 1 writes (R294). -/
def State.admits (s : State) (src right a : Nat) : Bool :=
  (List.range 16).any fun w =>
    let g := fun k => s.get ((0x5020 + w) * 256 + k)
    let base := g 1 % 2 ^ 52 / 64 * 64
    decide (base ≤ a) && decide (a < base + g 2) && (g 3 % 2 ^ 12 == 0 || g 3 % 2 ^ 12 == src) && bit (g 4) right

/-- A piece of a remote read: the bytes with their markers, the bytes clipped or unmapped, and the counts (R294). -/
def State.remotePiece (s : State) (src a n : Nat) : List (Byte × Bool) × Nat × State :=
  let adm := (List.range n).map fun i => s.admits src 0 (a + i)
  if adm.any id then
    let r := s.lineAt (a / 64 * 64)
    let bytes := adm.zipIdx.map fun x => if x.1 then (r.data.getD (a % 64 + x.2) 0, r.poison) else (0, false)
    (bytes, adm.countP (fun b => !b) + (if r.unmapped then adm.countP id else 0), s.countLine r)
  else (List.replicate n (0, false), n, s)

/-- A remote read of `n` bytes at a local physical address. -/
def State.remoteFetch (s : State) (src a n : Nat) : List (Byte × Bool) × Nat × State :=
  (piecesOf a n).foldl (fun (acc : List (Byte × Bool) × Nat × State) p =>
    let r := acc.2.2.remotePiece src p.1 p.2
    (acc.1 ++ r.1, acc.2.1 + r.2.1, r.2.2)) ([], 0, s)

/-- A READ performed: READ_DATA messages of up to 256 bytes in increasing address, each with its clipped bytes (R292,
R294). -/
def State.serveRead (s : State) (m : Msg) : State :=
  let n := m.length
  let clips := (List.range n).any fun i => !s.admits m.src 0 (m.addr + i)
  let s0 := if clips then s.bump 0x719009 1 else s
  (readPieces n).foldl (fun s p =>
    let r := s.remoteFetch m.src (m.addr + p.1) p.2
    r.2.2.sendResponse (m.answer 0x81 (m.addr + p.1) p.2 r.2.1 (r.1.map Prod.fst) (lineMarks r.1))) s0

/-- A READ from the fabric (R294). -/
def execFabricRead (m : Msg) (s : State) : Out :=
  if !s.railsUp then .next s
  else .next ((s.takeMsg m).2.access (.fabRead m) fun s => s.serveRead m)

/-- One line's piece of a write from another module: the bytes that the regions admit are written, the others clipped (R294); the
clipped bytes so far, and the state. -/
def State.writeAdmitted (m : Msg) (data : List Byte) (acc : Nat × State) (p : Nat × Nat) : Nat × State :=
  let adm := (List.range p.2).map fun i => acc.2.admits m.src 1 (p.1 + i)
  let l := p.1 / 64 * 64
  if !adm.any id then (acc.1 + p.2, acc.2)
  else
    let out := adm.countP fun b => !b
    let marks := (List.range p.2).any fun i => adm.getD i false && m.poison.getD ((p.1 - m.addr + i) / 64) false
    let en := (List.range 64).map fun i => decide (p.1 % 64 ≤ i) && adm.getD (i - p.1 % 64) false
    match acc.2.place l with
    | .unmapped => (acc.1 + p.2, acc.2.countUnmappedWrite)
    | .hub _ => (acc.1 + p.2, acc.2.countUnmappedWrite)
    | _ => (acc.1 + out, acc.2.writeLine l en (placeData (p.1 % 64) (slice data (p.1 - m.addr) p.2)) marks)

/-- A WRITE performed for the bytes admitted; the ACK reports the clipped and unmapped ones (R294). -/
def State.serveWrite (s : State) (m : Msg) : State :=
  let n := m.length
  let clips := (List.range n).any fun i => !s.admits m.src 1 (m.addr + i)
  let s0 := if clips then s.bump 0x719009 1 else s
  let x := (piecesOf m.addr n).foldl (State.writeAdmitted m (fit n m.data)) (0, s0)
  x.2.sendResponse (m.answer 0x82 m.addr 0 x.1 [] [])

/-- A WRITE from the fabric (R294). -/
def execFabricWrite (m : Msg) (s : State) : Out :=
  if !s.railsUp then .next s
  else .next ((s.takeMsg m).2.access (.fabWrite m) fun s => (s.serveWrite m).settle)

/-- The ACK of a request that is refused (R295). -/
def refusalOf (m : Msg) : Msg := m.answer 0x82 m.addr 0 0x80000000 [] []

/-- A SIGNAL performed, or refused where its object lies outside the permitted range or is the array's own (R295, R248). -/
def State.serveSignal (s : State) (m : Msg) : State :=
  let k := m.arg.toNat % 2 ^ 14
  if 16 ≤ k ∧ s.get 0x504001 ≤ k ∧ k ≤ s.get 0x504002 then
    (s.syncAdd k (leNat (fit m.length m.data))).sendResponse (m.answer 0x82 m.addr 0 0 [] [])
  else (s.bump 0x71900A 1).sendResponse (refusalOf m)

/-- A SIGNAL from the fabric (R295). -/
def execFabricSignal (m : Msg) (s : State) : Out :=
  if !s.railsUp then .next s
  else .next ((s.takeMsg m).2.access (.fabSignal m) fun s => s.serveSignal m)

/-- A RING_PUSH performed, or refused (R295). -/
def State.serveRingPush (s : State) (m : Msg) : State :=
  let n := m.arg.toNat % 2 ^ 13
  let t := ringType n (s.ring n)
  if s.get 0x504003 ≤ n ∧ n ≤ s.get 0x504004 ∧ (t = 2 ∨ t = 5) then
    ((s.ringPush n (fit m.length m.data)).sendResponse (m.answer 0x82 m.addr 0 0 [] []))
  else (s.bump 0x71900A 1).sendResponse (refusalOf m)

/-- A RING_PUSH from the fabric (R295). -/
def execFabricRingPush (m : Msg) (s : State) : Out :=
  if !s.railsUp then .next s
  else .next ((s.takeMsg m).2.access (.fabRingPush m) fun s => (s.serveRingPush m).settle)

/-! ## Responses -/

/-- The line accesses that a response reports clipped, in a thread's record: one for each 64 bytes (R218, R293). -/
def State.clipThread (s : State) (eng thr ctr bytes : Nat) : State :=
  let n := ceilDiv bytes 64
  if n = 0 then s
  else
    let t := s.thread eng thr
    (s.bump ctr n).putThread eng thr { t with counts := { t.counts with clipped := t.counts.clipped + n } }

/-- A READ_DATA of a stream entry lands: its bytes are written with their markers at the destination, here, where the marks of their
lines clear, at another module, or behind a group's stream (R228, R293, R298). -/
def State.landData (s : State) (r : RemoteReq) (m : Msg) : State :=
  let n := m.length
  let data := (fit n m.data).zipIdx.map fun x => (x.1, m.poison.getD (x.2 / 64) false)
  let s1 := s.clipThread r.eng r.thr 0x717001 (m.arg.toNat % 2 ^ 31)
  let t := s1.thread r.eng r.thr
  let s2 :=
    if r.remoteDst then
      let dev := r.addr / 2 ^ 52
      if 0xC00 ≤ dev ∧ dev < 0xFFF then
        let x := s1.mcAppend (dev - 0xC00) data t.counts
        (x.1.putThread r.eng r.thr { x.1.thread r.eng r.thr with counts := x.2 }).noteAppend r.eng r.thr r.index (dev - 0xC00)
      else s1.remoteRun r.eng r.thr r.index dev (r.addr % 2 ^ 52) data
    else
      let x := s1.streamWrite (s1.window t.task) (engDie r.eng) r.addr data t.counts
      let s2 := x.1.putThread r.eng r.thr { x.1.thread r.eng r.thr with counts := x.2 }
      ((piecesOf r.addr n).foldl (fun s p => s.clearMark r.eng r.thr r.index p.1) s2).onEntry r.eng r.thr r.index fun x =>
        { x with landedAt := s2.cycle }
  let left := r.len - n
  let next := s2.fab.remotes.filterMap fun q =>
    if q.tag = r.tag ∧ q.eng = r.eng ∧ q.thr = r.thr then (if left = 0 then none else some { q with addr := r.addr + n, len := left }) else some q
  let s3 : State := { s2 with fab := { s2.fab with remotes := next } }
  if left = 0 then s3.addRemote r.eng r.thr r.index false else s3

/-- A READ_DATA response (R292, R293). -/
def execReadData (m : Msg) (s : State) : Out :=
  if !s.railsUp then .next s
  else
    let s1 := (s.takeMsg m).2
    match s1.fab.remotes.find? (fun r => r.tag = m.txtag ∧ r.len ≠ 0) with
    | some r => .next (s1.landData r m).settle
    | none => .next s1

/-- A send slot (R313). -/
def State.slot (s : State) (c : Nat) : SendSlot := s.hub.slots.get c SendSlot.idle

/-- The state with a send slot replaced. -/
def State.putSlot (s : State) (c : Nat) (x : SendSlot) : State := { s with hub := { s.hub with slots := s.hub.slots.set c x SendSlot.idle } }

/-- An ACK: that of a stream entry's WRITE, or of a SIGNAL or RING_PUSH from a send slot, whose RESULT takes ARG (R292,
R293, R313). -/
def execFabricAck (m : Msg) (s : State) : Out :=
  if !s.railsUp then .next s
  else
    let s1 := (s.takeMsg m).2
    match s1.fab.remotes.find? (fun r => r.tag = m.txtag ∧ r.len = 0) with
    | some r =>
      let s2 := s1.clipThread r.eng r.thr 0x717002 (m.arg.toNat % 2 ^ 31)
      let s3 : State := { s2 with fab := { s2.fab with remotes := s2.fab.remotes.erase r } }
      .next (s3.addRemote r.eng r.thr r.index false)
    | none =>
      match (List.range 16).find? fun c => (s1.slot c).doorbell = 1 ∧ (s1.slot c).txtag = m.txtag with
      | some c => .next (s1.putSlot c { s1.slot c with doorbell := 2, result := m.arg })
      | none => .next s1

/-! ## Discovery -/

/-- The route back to the sender of a directed-route message: the ingress port of this module, then those that the modules
crossed have appended, in reverse (R291). -/
def returnRoute (m : Msg) (ingress : Option Nat) : List Nat :=
  (match ingress with | some p => [p] | none => []) ++ ((fit m.dataLen m.data).reverse.take m.hops).map fun b => b.toNat % 8

/-- A message of this module's own by a directed route. -/
def State.directed (s : State) (route : List Nat) (mtype txtag : Nat) (data : List Byte) : Msg :=
  { mtype := mtype, dn := false, poison := [], dst := 0xFFF, src := s.devId, len := data.length,
    addr := listSum (route.zipIdx.map fun x => x.1 % 8 * 8 ^ x.2), txtag := txtag, hops := 0,
    arg := BitVec.ofNat 32 (route.length % 16), data := data }

/-- A message of the manager firmware's, whose content the spec leaves to it, sent by a directed route (R288, R292). -/
def State.sendFirmware (s : State) (route : List Nat) (mtype txtag : Nat) : State :=
  let d := s.draw
  d.2.sendMsg (d.2.directed route mtype txtag (freeBytes d.1 (Config.freeNat d.1 % 257)))

/-- A probe reaches this module, which replies with its identity and the states of its ports; the content of the reply is
the manager firmware's (R288, R292). The module knows its manager from it. -/
def execProbe (m : Msg) (s : State) : Out :=
  if !s.railsUp then .next s
  else
    let x := s.takeMsg m
    let back := returnRoute m x.1
    let s1 : State := { x.2 with fab := { x.2.fab with manager := some (m.src, back) } }
    .next (s1.sendFirmware back 0x31 m.txtag)

/-- A routing table from its entries; a later entry for a destination replaces an earlier one. -/
def routeTable (l : List (Nat × Nat)) : SMap Nat := l.foldl (fun t x => SMap.insert t (x.1 % 4096) (x.2 % 8)) []

/-- A group's tree entry at this module (R297): egress ports, local delivery and, on the sender, the receivers. A receiver that is no
longer among them stays until the end of the sweep where nothing leads to it (R300). -/
def State.setTree (s : State) (t : McTree) : State :=
  let x := s.group t.group
  let rs := t.receivers.map fun id =>
    (x.receivers.find? fun r => r.id = id).getD { id := id, delivered := x.sentOff, consumed := x.sentOff, shed := false, removed := false, episode := false }
  let gone := x.receivers.filter fun r => !t.receivers.contains r.id && !r.removed && !s.fab.tableU.any fun y => y.1 = r.id
  let s1 := s.putGroup t.group { x with ports := t.ports, deliver := t.deliver, receivers := rs ++ gone }
  if s1.mcSends t.group then s1.mcCount t.group else s1

/-- The routing tables, the trees, the twin routes and the peers' device IDs, which a module replaces at once (R284, R288, R290). -/
def State.setRoutes (s : State) (up down : List (Nat × Nat)) (trees : List McTree) (twin : List Nat) (peers : List (Nat × Nat)) : State :=
  let s1 : State := { s with fab := { s.fab with tableU := routeTable up, tableD := routeTable down, twinRoutes := twin } }
  let s2 := (peers.filter fun x => x.1 < 8 ∧ s1.portLinked x.1).foldl (fun s x => s.showPeer x.1 x.2) s1
  trees.foldl State.setTree s2

/-- A receiver that the tables no longer reach: none of them leads to it, or only by a port that is not linked (R300). -/
def State.unreached (s : State) (id : Nat) : Bool :=
  id != s.devId && match s.fab.tableU.find? fun x => x.1 = id with
    | some x => !s.portLinked x.2
    | none => true

/-- The receivers of a group this module sends that the new tables no longer reach are removed: a message where a route
exists, and an event (R300). -/
def State.dropUnreached (s : State) (g : Nat) : State :=
  if !s.mcSends g then s
  else
    let gone := (s.group g).receivers.filter fun r => !r.removed && s.unreached r.id
    gone.foldl (fun s r =>
      let x := s.group g
      let s1 := (s.putGroup g { x with receivers := x.receivers.map fun q => if q.id = r.id then { q with removed := true } else q }).mcCount g
      let m := s1.mcMessage g r.id 0x12 4 (leBytes 8 x.sentOff)
      let s2 := if s1.nextHop m false = .noRoute then s1 else s1.sendMsg m
      s2.event 5 4 (s1.mcUnit g) g (leBytes 2 r.id)) s

/-- The end of a sweep at a module: linked ports become active, the sweep counts, and unreachable receivers leave their groups (R288,
R300). -/
def State.endSweep (s : State) : State :=
  let s1 := (List.range 8).foldl (fun s p => if s.portState p = 4 then s.setPortState p 5 else s) s
  let s2 := (s1.bump32 0x500201 1)
  let s3 : State := { s2 with fab := { s2.fab with sweeping := false } }
  (s3.fab.groups.map Prod.fst).foldl (fun s g => (s.dropUnreached g).mcPump g) s3

/-! ## The manager -/

/-- What this module would tell a probe of itself (R284, R288, R297). -/
def State.ownInfo (s : State) : PeerInfo :=
  { uid := BitVec.ofNat 64 (s.get 0x500004), portStates := (List.range 8).map s.portState, devId := s.devId, pref := s.get 0x500002 % 4096
    peers := ((List.range 8).filter fun p => s.portLinked p).map fun p =>
      (p, BitVec.ofNat 64 (s.get (0x501101 + p)), bits (s.get (0x501001 + p)) 14 12)
    groups := (s.obj.filter fun x => decide (x.1 % 256 = 1) && decide (0x5200 ≤ x.1 / 256) && decide (x.1 / 256 ≤ 0x55FE) && decide (x.2 ≠ 0)).map
      fun x => (x.1 / 256 - 0x5200, x.2.toNat) }

/-- A probe sent along a directed route, under a tag of its own (R288, R291). -/
def State.sendProbe (s : State) (route : List Nat) : State :=
  let t := s.takeTag
  let s1 := t.2.sendFirmware route 0x30 t.1
  { s1 with fab := { s1.fab with probes := s1.fab.probes ++ [(t.1, route)] } }

/-- The manager writes what it has computed into every module: the device IDs, the tables with the trees and routes, and the end of the
sweep; at itself at once (R288, R289, R297, R301). -/
def State.finishSweep (s : State) : State :=
  let own := s.ownInfo
  let l := sortBy (fun (a b : PeerInfo) => decide (a.uid.toNat ≤ b.uid.toNat)) (own :: s.fab.found.filter fun x => x.uid ≠ own.uid)
  let ids := assignIds l
  let g := fabricNodes l ids
  let me := (l.findIdx? fun x => x.uid = own.uid).getD 0
  let lev := fabricLevels g me
  let tell := fun (s : State) (mtype : Nat) => s.fab.routes.foldl (fun s r => s.sendFirmware r.2 mtype 0) s
  let twin := (own.peers.filter fun p => p.2.1.toNat = s.get 0x510001 ∧ s.twinPort p.1).map Prod.fst
  let peers := (linksOf g me).map fun x => (x.1, idOf g x.2)
  let s1 := (tell s 0x32).put 0x500001 (idOf g me)
  let s2 := (tell s1 0x33).setRoutes (fabricTable g lev me false) (fabricTable g lev me true) (fabricTrees l g lev me) twin peers
  (tell s2 0x34).endSweep

/-- A sweep begins: the manager probes by each of its linked ports; with none it ends at once (R288). -/
def State.startSweep (s : State) : State :=
  let s1 : State := { s with fab := { s.fab with found := [], routes := [], probes := [], sweepWanted := false, sweeping := true } }
  let s2 := ((List.range 8).filter s1.portLinked).foldl (fun s p => s.sendProbe [p]) s1
  if s2.fab.probes = [] then s2.finishSweep else s2

/-- A module is learnt that a probe has reached by a directed route: its links are probed in their turn, as far as a directed route goes,
which is 15 hops (R288, R291). -/
def State.learn (s : State) (route : List Nat) (info : PeerInfo) : State :=
  if s.fab.routes.any (fun x => x.1 = info.uid) ∨ info.uid.toNat = s.get 0x500004 then s
  else
    let s1 : State := { s with fab := { s.fab with routes := s.fab.routes ++ [(info.uid, route)] } }
    if 15 ≤ route.length then s1
    else (info.peers.filter fun p => info.portStates.getD p.1 0 = 4 ∨ info.portStates.getD p.1 0 = 5).foldl (fun s p => s.sendProbe (route ++ [p.1])) s1

/-- A reply reaches the manager, which learns the module's identity and ports; with the last of them the sweep's tables follow (R288). -/
def execProbeReply (m : Msg) (info : PeerInfo) (s : State) : Out :=
  if !s.railsUp then .next s
  else
    let s1 := (s.takeMsg m).2
    if s1.get 0x500003 = 0 then .next s1
    else
      let s2 : State := { s1 with fab := { s1.fab with found := (s1.fab.found.filter fun x => x.uid ≠ info.uid) ++ [info] } }
      match s2.fab.probes.find? (fun x => x.1 = m.txtag) with
      | none => .next s2
      | some x =>
        let s3 := ({ s2 with fab := { s2.fab with probes := s2.fab.probes.erase x } }).learn x.2 info
        .next (if s3.fab.probes = [] then s3.finishSweep.settle else s3)

/-- The manager assigns this module's device ID (R288). -/
def execSetId (id : Nat) (s : State) : Out :=
  .next (if s.railsUp then (s.takeKind fun m => m.mtype = 0x32).2.put 0x500001 (id % 4096) else s)

/-- The manager writes the routing tables, the trees, the twin routes and the peers' device IDs into this module (R288, R290). -/
def execSetRoute (up down : List (Nat × Nat)) (trees : List McTree) (near : Neighbours) (s : State) : Out :=
  if !s.railsUp then .next s
  else .next ((s.takeKind fun m => m.mtype = 0x33).2.setRoutes up down trees near.twin near.peers)

/-- The end of a sweep reaches this module (R288, R300). -/
def execSweepEnd (s : State) : Out :=
  if !s.railsUp then .next s else .next (s.takeKind fun m => m.mtype = 0x34).2.endSweep

/-- A module's link event reaches the manager, which is to start a sweep (R288). -/
def execLinkEvent (uid : U64) (port state : Nat) (s : State) : Out :=
  if !s.railsUp then .next s
  else
    let s1 := (s.takeKind fun m => m.mtype = 0x35).2
    if s1.get 0x500003 = 0 then .next s1
    else
      let known := s1.fab.found.map fun x => if x.uid = uid then { x with portStates := x.portStates.set port state } else x
      .next { s1 with fab := { s1.fab with sweepWanted := true, found := known } }

/-- What is due of discovery at a tick: the manager takes its own ports' changes for link events and starts the sweep that is wanted; any
other module that knows its manager sends it a link event for each change, by its table or, without a route, by a directed one (R288). -/
def State.discover (s : State) : State :=
  if s.get 0x500003 ≠ 0 then
    let s1 : State := if s.fab.linkEvents = [] then s else { s with fab := { s.fab with linkEvents := [], sweepWanted := true } }
    if s1.fab.sweepWanted then s1.startSweep.settle else s1
  else
    let s0 : State := if s.fab.sweepWanted ∨ s.fab.sweeping ∨ s.fab.probes ≠ [] then
      { s with fab := { s.fab with sweepWanted := false, sweeping := false, probes := [] } } else s
    match s0.fab.manager with
    | none => s0
    | some mgr =>
      let s1 : State := if s0.fab.linkEvents = [] then s0 else { s0 with fab := { s0.fab with linkEvents := [] } }
      s0.fab.linkEvents.foldl (fun s _ =>
        let d := s.draw
        let data := freeBytes d.1 (Config.freeNat d.1 % 257)
        let m := d.2.directed mgr.2 0x35 0 data
        if mgr.1 ≠ d.2.devId ∧ d.2.fab.tableU.any (fun x => x.1 = mgr.1) then d.2.sendMsg { m with dst := mgr.1, addr := 0, arg := 0 }
        else d.2.sendMsg m) s1

end Sys2Proof.Machine
end

