-- ==== Sys2Proof/Machine/Multicast.lean ====
section
/-! DEFINITION. Multicast groups: data, reports, shedding, rejoining and the group's mode (R297 to R300), and stalls at a
port's lane (R307). -/

namespace Sys2Proof.Machine

/-- A piece of a group's stream reaches this module as a receiver: it is placed and counted, or discarded where the module is
no receiver, shed or removed (R298, R300). -/
def State.mcReceive (s : State) (g : Nat) (m : Msg) : State :=
  if s.mcMode g ≠ 3 ∨ s.mcObj g 8 % 4 ≠ 0 then s
  else
    let n := m.length
    let s1 := (s.mcPlace g m.addr (fit n m.data) m.poison).putGroup g { s.group g with sender := m.src }
    s1.syncAdd (s1.mcObj g 7 % 2 ^ 14) n

/-- The local copy of a multicast message, where the group delivers here. -/
def State.serveMulticast (s : State) (m : Msg) : State :=
  let g := m.dst - 0xC00
  (if (s.group g).deliver then s.mcReceive g m else s).settle

/-- A multicast data message: replicated to the tree's ports, and written where the group delivers here (R297, R298). A copy
that was forwarded already is not replicated again; one that carries HOPS 15 is discarded (R290). -/
def execMcData (m : Msg) (s : State) : Out :=
  if !s.railsUp ∨ m.dst < 0xC00 ∨ m.dst = 0xFFF then .next s
  else
    let g := m.dst - 0xC00
    let x := s.takeMsg m
    let forwarded := x.1.isNone && decide (x.2.fab.inbox.length ≠ s.fab.inbox.length)
    if !forwarded ∧ 15 ≤ m.hops then .next (x.2.dropMsg m)
    else
      let s1 := if forwarded then x.2 else x.2.replicateOn x.1 g m
      .next (s1.access (.fabMulticast m) fun s => s.serveMulticast m)

/-- A receiver's offsets reach the sender, which sheds those behind or sends what the window now admits (R299). -/
def execMcAck (g receiver : Nat) (delivered consumed : U64) (s : State) : Out :=
  if !s.railsUp then .next s
  else if !s.mcSends g then .next (s.takeKind fun m => m.mtype = 0x11 && m.txtag = g && m.src = receiver).2
  else
    let s := (s.takeKind fun m => m.mtype = 0x11 && m.txtag = g && m.src = receiver).2
    let x := s.group g
    let rs := x.receivers.map fun r =>
      if r.id = receiver then { r with delivered := delivered.toNat, consumed := consumed.toNat } else r
    let s1 := s.putGroup g { x with receivers := rs }
    let s2 := s1.putGroup g { s1.group g with receivers := rs.map fun r => { r with episode := r.episode && s1.mcLate g r } }
    .next (s2.mcPump g)

/-- A receiver reports both offsets: when either has changed, or 1 µs after its last report (R298). A shed receiver poisons
the positions that an advance of CSYNC has freed (R300). -/
def execMcAckReport (g : Nat) (s : State) : Out :=
  if !s.railsUp ∨ s.mcMode g ≠ 3 then .next s
  else
    let s1 := s.mcPoison g
    let x := s1.group g
    let now := (s1.mcDeliveredOff g, s1.mcConsumed g)
    if now = x.reported ∧ s1.tick < x.reportAt + 12 then .next s1
    else
      let s2 := s1.putGroup g { x with reported := now, reportAt := s1.tick }
      .next (s2.sendMsg (s2.mcMessage g x.sender 0x11 0 (leBytes 8 now.1 ++ leBytes 8 now.2)))

/-- A multicast control message about group `g`, which its TXTAG names, taken up where it waits in the inbox (R281, R292; see the log). -/
def State.takeCtl (s : State) (g op : Nat) : State :=
  (s.takeKind fun m => m.mtype = 0x12 && m.txtag = g && m.arg.toNat = op).2

/-- This module is shed from a group at an offset: its bit is set and its buffer poisoned from there on (R300). -/
def execMcCtlShed (g : Nat) (off : U64) (s : State) : Out :=
  if !s.railsUp then .next s
  else if s.mcMode g ≠ 3 then .next (s.takeCtl g 1)
  else
    let k := (0x5200 + g) * 256 + 8
    let s := s.takeCtl g 1
    let s1 := s.put k (s.get k / 2 * 2 + 1)
    .next ((s1.putGroup g { s1.group g with shedAt := off.toNat, poisonedTo := off.toNat }).mcPoison g)

/-- A rejoin request reaches the sender (R300). -/
def execMcCtlRejoin (g receiver : Nat) (s : State) : Out :=
  if !s.railsUp then .next s
  else
    let s1 := (s.takeKind fun m => m.mtype = 0x12 && m.txtag = g && m.arg.toNat = 2 && m.src = receiver).2
    let x := s1.group g
    if !s1.mcSends g ∨ !(x.receivers.any fun r => r.id = receiver ∧ r.shed) ∨ x.rejoins.contains receiver then .next s1
    else .next (s1.putGroup g { x with rejoins := x.rejoins ++ [receiver] })

/-- The sender admits a rejoining receiver at its next message boundary (R300). -/
def execMcRejoinAdmit (g receiver : Nat) (s : State) : Out :=
  let x := s.group g
  if !s.railsUp ∨ !s.mcSends g ∨ !x.rejoins.contains receiver then .next s
  else
    let y := x.sentOff
    let rs := x.receivers.map fun r =>
      if r.id = receiver then { r with shed := false, delivered := y, consumed := y, episode := false } else r
    let s1 := (s.putGroup g { x with receivers := rs, rejoins := x.rejoins.erase receiver }).mcCount g
    .next (s1.sendMsg (s1.mcMessage g receiver 0x12 3 (leBytes 8 y)))

/-- This module is admitted again at offset Y: both offsets become Y, the shed bit clears, and Y is recorded (R300). -/
def execMcCtlAdmit (g : Nat) (off : U64) (s : State) : Out :=
  if !s.railsUp then .next s
  else if s.mcMode g ≠ 3 then .next (s.takeCtl g 3)
  else
    let k := (0x5200 + g) * 256 + 8
    let s := s.takeCtl g 3
    let s1 := (s.put k (s.get k / 2 * 2)).put (k + 1) off.toNat
    .next ((s1.syncSet (s1.mcObj g 7 % 2 ^ 14) off.toNat).syncSet (s1.mcObj g 6 % 2 ^ 14) off.toNat)

/-- This module is removed from a group (R300). -/
def execMcCtlRemove (g : Nat) (s : State) : Out :=
  if !s.railsUp then .next s
  else if s.mcMode g ≠ 3 then .next (s.takeCtl g 4)
  else
    let k := (0x5200 + g) * 256 + 8
    let s := s.takeCtl g 4
    .next (if bit (s.get k) 1 then s else s.put k (s.get k + 2))

/-- A receiver has not consumed a byte sent more than TIME ticks ago: it is shed, or in lockstep an event is written once in
an episode (R299). -/
def execMcBehindTimeout (g receiver : Nat) (s : State) : Out :=
  match (s.group g).receivers.find? fun r => r.id = receiver with
  | none => .next s
  | some r =>
    if !s.railsUp ∨ !s.mcSends g ∨ !s.mcLate g r then .next s
    else if s.mcMode g = 1 then .next ((s.mcShed g receiver).mcPump g)
    else if r.episode then .next s
    else
      let x := s.group g
      let s1 := s.putGroup g { x with receivers := x.receivers.map fun q => if q.id = receiver then { q with episode := true } else q }
      .next (s1.event 5 3 (s1.mcUnit g) g (leBytes 2 receiver ++ leBytes 6 0 ++ leBytes 8 r.consumed))

/-! ## The mode -/

/-- A group idle at once: what it queued is dropped and its stream starts afresh (R297). -/
def State.mcDisable (s : State) (g : Nat) : State :=
  let x := s.group g
  (s.put ((0x5200 + g) * 256 + 1) 0).putGroup g { McGroup.empty with ports := x.ports, deliver := x.deliver, receivers := x.receivers }

/-- A write of the role of an idle group: its status starts at 0, and a sender's receivers start with its stream. -/
def State.mcSetMode (s : State) (g v : Nat) : State :=
  let x := s.group g
  let s1 := (s.put ((0x5200 + g) * 256 + 1) v).put ((0x5200 + g) * 256 + 8) 0
  let rs := x.receivers.map fun r => { r with delivered := 0, consumed := 0, shed := false, removed := false, episode := false }
  let s2 := s1.putGroup g { x with receivers := rs }
  if v = 1 ∨ v = 2 then s2.mcCount g else s2

/-- A shed receiver asks the sender to admit it again (R300). -/
def State.mcAskRejoin (s : State) (g : Nat) : State := s.sendMsg (s.mcMessage g (s.group g).sender 0x12 2 (leBytes 8 (s.group g).shedAt))

/-- A write of (5200 + g):01 (R297, R300, R350): 0 in every state, 3 while shed, any value on an idle group; otherwise it is
refused in state. The state, and the refusal. -/
def State.writeMcMode (s : State) (g v : Nat) : State × Bool :=
  if v = 0 then (s.mcDisable g, false)
  else if s.mcMode g = 0 then (s.mcSetMode g v, false)
  else if v = 3 ∧ s.mcMode g = 3 ∧ bit (s.mcObj g 8) 0 then (s.mcAskRejoin g, false)
  else (s.bump 0x717005 1, true)

/-- A write of 0 to (5200 + g):01 (R297). -/
def execMcModeDisable (g : Nat) (s : State) : Out := s.objectWritten fun s => (s.writeMcMode g 0).1

/-- A write to (5200 + g):01 (R297). -/
def execMcModeSet (g : Nat) (v : Byte) (s : State) : Out :=
  s.objectWritten fun s => (s.writeMcMode g v.toNat).1

/-- A write of 3 to (5200 + g):01 by a shed receiver (R300). -/
def execMcRejoin (g : Nat) (s : State) : Out := s.objectWritten fun s => (s.writeMcMode g 3).1

/-! ## Stalls -/

/-- A lane's head message has waited a further millisecond for credit or for a context (R307). -/
def execEgressStallTimeout (port vl : Nat) (s : State) : Out :=
  let x := s.port port
  match x.txQueue.getD vl [], x.headSince.getD vl none with
  | m :: _, some t =>
    let ms := x.stallMs.getD vl 0 + 1
    if !s.railsUp ∨ !x.starved vl ∨ s.tick < t + 12500 * ms then .next s
    else
      let s1 := (s.putPort port { x with stallMs := x.stallMs.set vl ms }).bump 0x719011 1
      .next (s1.event 5 5 (portUnit port) port (leBytes 1 vl ++ leBytes 1 0 ++ leBytes 2 m.dst ++ leBytes 4 ms))
  | _, _ => .next s

end Sys2Proof.Machine
end

