-- ==== Sys2Proof/Machine/Twin.lean ====
section
/-! DEFINITION. Twins: heartbeats, losing the twin, takeover and demotion, and mirrored regions (R301 to R306). -/

namespace Sys2Proof.Machine

/-! ## Heartbeats -/

/-- The record of R302 that this module sends. -/
def State.beatRecord (s : State) : List Byte :=
  leBytes 8 (s.get 0x500004) ++ leBytes 1 (s.get 0x510002) ++ List.replicate 7 0 ++ leBytes 8 (s.get 0x510007) ++ leBytes 8 s.tick

/-- The heartbeat that a record of 32 bytes gives. -/
def readBeat (b : List Byte) : Heartbeat :=
  { uid := BitVec.ofNat 64 (field b 0 8), role := field b 8 1, applied := BitVec.ofNat 64 (field b 16 8), tick := BitVec.ofNat 64 (field b 24 8) }

/-- Whether the island sends heartbeats: the module is paired, runs and is not lost, the watchdog is satisfied, the 54 V input is
above its warning threshold and no trip is in force (R302, R319, R388, R389, R422). -/
def State.beats (s : State) : Bool :=
  s.paired && s.railsUp && !s.hub.lost && !(s.hub.wdtExpired && s.get 0x208001 != 0) && !s.isl.power.vinWarn && s.isl.rails.trip.isNone

/-- A heartbeat sent on every active twin port and on the management port (R302, R369). -/
def State.sendBeat (s : State) : State :=
  let ports := (List.range 8).filter fun p => s.twinPort p && s.portState p == 5
  let s1 := ports.foldl (fun s p => s.sendFlit p 2 0 0 s.beatRecord) s
  let twin := s.getBlob 0x510004 16
  let s2 := if s.mgmtUp ∧ twin ≠ List.replicate 16 0 then
      s1.sendUdp (.ip twin (s.get 0x101003)) (fmpDatagram 0x21 1 0 0 0 0 s.beatRecord)
    else s1
  { s2 with fab := { s2.fab with lastBeat := s2.tick } }

/-- The heartbeat of every 125 ticks (R302). -/
def execHeartbeatSend (s : State) : Out :=
  if s.beats = false ∨ s.tick < s.fab.lastBeat + 125 then .next s else .next s.sendBeat

/-- The roles settled by the first heartbeat: of two primaries or two secondaries, the one with the lower UID is primary
(R301). -/
def State.settleRole (s : State) (hb : Heartbeat) : State :=
  if s.fab.roleSettled then s
  else
    let s1 : State := { s with fab := { s.fab with roleSettled := true } }
    let role := s.get 0x510002
    let lower := decide (s.get 0x500004 < hb.uid.toNat)
    if role = 1 ∧ hb.role = 1 then s1.put 0x510002 (if lower then 1 else 2)
    else if role = 2 ∧ hb.role = 2 then s1.put 0x510002 (if lower then 1 else 2)
    else s1

/-- A primary that hears a twin in role 3 is demoted: it takes no further issue entry and mirrors no longer (R306). -/
def State.demote (s : State) (hb : Heartbeat) : State :=
  if s.get 0x510002 = 1 ∧ hb.role = 3 then
    let s1 := s.put 0x510002 4
    (({ s1 with hub := { s1.hub with demoted := true } }).event 6 2 25 0 (leBytes 8 (s.get 0x510001))).raiseVector 0
  else s

/-- A heartbeat from the twin (R301, R302, R306): one of another UID is not counted. -/
def State.takeBeat (s : State) (hb : Heartbeat) : State :=
  if !s.paired ∨ hb.uid.toNat ≠ s.get 0x510001 then s
  else
    let s1 := s.put 0x510008 s.tick
    let s2 : State := { s1 with fab := { s1.fab with twinLost := false } }
    let s3 := if (s2.get 0x510002 = 1 ∨ s2.get 0x510002 = 3) ∧ hb.role = 2 ∧ s2.get 0x510007 < hb.applied.toNat
      then s2.put 0x510007 hb.applied.toNat else s2
    ((s3.settleRole hb).demote hb).checkTwinLink

/-- A heartbeat flit on a port (R302): mirroring that was suspended for want of a port resumes. -/
def State.portBeat (s : State) (p : Nat) (hb : Heartbeat) : State :=
  if s.twinPort p ∧ s.portLinked p ∧ s.paired ∧ hb.uid.toNat = s.get 0x510001 then
    ({ s with fab := { s.fab with mirStopped := false } }).takeBeat hb
  else s

/-- A twin heartbeat arrives on a port (R302). -/
def execHeartbeatReceive (port : Nat) (hb : Heartbeat) (s : State) : Out := .next (s.portBeat port hb)

/-! ## Mirror writes -/

/-- The mirror writes received that are next in sequence, with fuel: each is applied at its address (R303). -/
def State.applyMirrorFuel : Nat → State → State
  | 0, s => s
  | k + 1, s =>
    let next := (s.get 0x510007 + 1) % 2 ^ 64
    match s.fab.mirIn.find? (fun l => l.seq = next) with
    | none => s
    | some l =>
      let s1 : State := { s with fab := { s.fab with mirIn := s.fab.mirIn.erase l } }
      State.applyMirrorFuel k ((s1.writePhys l.addr l.data l.poison).2.put 0x510007 next)

/-- Everything received that is next in sequence applied. -/
def State.applyMirror (s : State) : State := State.applyMirrorFuel (s.fab.mirIn.length + 1) s

/-- The 64-bit sequence that a message's low 32 bits stand for: the next after the last applied that ends in them (R292). -/
def fullSeq (applied low : Nat) : Nat := applied + 1 + (low + 2 ^ 32 - (applied + 1) % 2 ^ 32) % 2 ^ 32

/-- A mirror write taken up by a secondary: it waits for its turn (R303, R305). -/
def State.serveMirror (s : State) (seq : U32) (addr : Nat) (data : List Byte) (poison : Bool) : State :=
  if s.get 0x510002 ≠ 2 ∨ s.fab.mirFrozen then s
  else
    let l : MirLine := { seq := fullSeq (s.get 0x510007) seq.toNat, addr := addr, data := fit 64 data, poison := poison }
    ({ s with fab := { s.fab with mirIn := s.fab.mirIn ++ [l] } }).applyMirror

/-- A MIR_WRITE (R303); every role but 2 ignores it. Where it waits in the inbox it leaves it. -/
def execMirWrite (seq : U32) (addr : Nat) (data : List Byte) (poison : Bool) (s : State) : Out :=
  if !s.railsUp then .next s
  else
    let same := s.fab.inbox.find? fun x => x.2.mtype = 0x20 ∧ x.2.arg = seq ∧ x.2.addr = addr
    let s1 := match same with
      | some x => (s.takeMsg x.2).2
      | none => s
    .next (s1.access (.mirror seq addr data poison) fun s => s.serveMirror seq addr data poison)

/-- The secondary's applied sequence reaches the primary (R303). -/
def execMirAck (applied : U64) (s : State) : Out :=
  if !s.railsUp then .next s
  else
    let s1 := (s.takeKind fun m => m.mtype = 0x21).2
    .next (if s1.get 0x510002 = 1 ∨ s1.get 0x510002 = 3 then s1.put 0x510007 applied.toNat else s1)

/-- Every mirror write that has been received and waits in the inbox is taken up (R305). -/
def State.takeMirrors (s : State) : State :=
  ((s.fab.inbox.map Prod.snd).filter fun m => m.mtype = 0x20).foldl (fun s m =>
    (s.takeMsg m).2.serveMirror m.arg m.addr (fit m.length m.data) (m.poison.getD 0 false)) s

/-- The report of 5100:07 that a secondary owes its primary every microsecond, on lane 3 of its first active twin port; one that still waits
there stands for the next (R303). -/
def State.reportMirror (s : State) : State :=
  match (List.range 8).find? fun p => s.twinPort p && s.portState p == 5 with
  | none => s
  | some p =>
    if s.get 0x510002 ≠ 2 ∨ s.fab.mirFrozen ∨ s.tick < s.fab.mirAckAt + 12 ∨ ((s.port p).txQueue.getD 3 []).any (fun m => m.mtype = 0x21) then s
    else
      let data := leBytes 8 (s.get 0x510007)
      let m : Msg := { mtype := 0x21, dn := false, poison := [], dst := bits (s.get (0x501001 + p)) 11 0, src := s.devId, len := 8, addr := 0,
                       txtag := 0, hops := 0, arg := 0, data := data }
      ({ s with fab := { s.fab with mirAckAt := s.tick } }).enqueue p m

/-- A write of a region's MIR_STATE: 1 starts or restarts it from 0 or 2 and is refused in state while it mirrors; other
values are stored (R304, R350). The state, and the refusal. -/
def State.writeMirState (s : State) (r v : Nat) : State × Bool :=
  let k := (0x5600 + r) * 256 + 4
  if v = 1 ∧ s.get k = 1 then (s.bump 0x717005 1, true) else (s.put k v, false)

/-- A write of (5600 + r):04 (R304). -/
def execMirStateWrite (region : Nat) (v : Byte) (s : State) : Out :=
  s.objectWritten fun s => (s.writeMirState region v.toNat).1

/-! ## Losing the twin -/

/-- The takeover of R305: mirror intake stops with everything received applied, the role becomes 3, and the event, the
interrupt and the taken notice follow. -/
def State.takeOver (s : State) : State :=
  let s1 := s.takeMirrors.applyMirror
  let s2 := (({ s1 with fab := { s1.fab with mirFrozen := true, mirIn := [] } }).put 0x510002 3).bump 0x719010 1
  ((s2.event 6 1 25 0 (leBytes 8 (s2.get 0x510001) ++ leBytes 8 (s2.get 0x510007))).raiseVector 0).sendBeat

/-- The tick from which the twin's silence counts: its last heartbeat, or the coming up of this module (R302). -/
def State.beatSince (s : State) : Nat := max (s.get 0x510008) (s.hub.refSince.getD 0)

/-- No heartbeat on any path for 400 ticks: the twin is declared lost (R302). A secondary takes over, or reports the loss where
takeover is off (R305); a primary goes on and suspends mirroring (R306). -/
def execTwinLost (s : State) : Out :=
  if !s.railsUp ∨ !s.paired ∨ s.fab.twinLost ∨ s.tick < s.beatSince + 400 then .next s
  else
    let s1 : State := { (s.bump 0x71900F 1) with fab := { s.fab with twinLost := true } }
    let role := s1.get 0x510002
    if role = 2 then
      if s1.get 0x51000A ≠ 0 then .next s1.takeOver
      else
        let s2 := s1.takeMirrors.applyMirror
        let s3 : State := { s2 with fab := { s2.fab with mirFrozen := true, mirIn := [] } }
        .next ((s3.event 6 5 25 0 (leBytes 8 (s3.get 0x510001) ++ leBytes 8 (s3.get 0x510007))).raiseVector 0)
    else if role = 1 ∨ role = 3 then
      .next (({ s1 with fab := { s1.fab with mirStopped := true } }).event 6 4 25 0 (leBytes 8 (s1.get 0x510001)))
    else .next s1

/-- A write of TAKEOVER_EN: a write of 1 by a secondary whose twin is declared lost starts the takeover (R305). -/
def State.writeTakeover (s : State) (v : Nat) : State :=
  let s1 := s.put 0x51000A (if v = 0 then 0 else 1)
  if v ≠ 0 ∧ s1.fab.twinLost ∧ s1.get 0x510002 = 2 then s1.takeOver else s1

/-- A write to 5100:0A (R305). -/
def execTakeoverEnWrite (v : Byte) (s : State) : Out :=
  s.objectWritten fun s => s.writeTakeover v.toNat

end Sys2Proof.Machine
end

