-- ==== Sys2Proof/Machine/FabricLink.lean ====
section
/-! DEFINITION. The Sundu link layer: PHY training, hellos and negotiation (R284, R285), flits (R277 to R282), retraining
(R283), pluggables (R442) and disabled ports (R308). -/

namespace Sys2Proof.Machine

/-! ## Training and negotiation -/

/-- PHY training is complete: the port negotiates and sends hellos; so does one found incompatible, whose PHY has retrained (R284,
R285). -/
def execPhyTrainingComplete (port : Nat) (s : State) : Out :=
  if !s.railsUp ∨ (s.portState port ≠ 1 ∧ s.portState port ≠ 3) then .next s
  else .next ((s.setPortState port 2).putPort port { s.port port with lastHello := 0, hellosLeft := 0 })

/-- The hello record of R285 that a port sends. -/
def State.helloRecord (s : State) (p : Nat) : List Byte :=
  leBytes 1 1 ++ leBytes 1 1 ++ leBytes 1 1 ++ leBytes 1 (p + (if s.get 0x500003 = 0 then 0 else 0x80)) ++ leBytes 2 s.devId ++
    leBytes 2 0 ++ leBytes 8 (s.get 0x500004) ++ List.replicate 16 0

/-- A hello: every microsecond while the port negotiates, and the two further ones once it has linked (R285). -/
def execHelloSend (port : Nat) (s : State) : Out :=
  let x := s.port port
  let st := s.portState port
  let mine := decide (st = 2) || decide (st = 3) || (s.portLinked port && decide (0 < x.hellosLeft))
  if !s.railsUp ∨ !mine ∨ (x.lastHello ≠ 0 ∧ s.tick < x.lastHello + 12) then .next s
  else
    let left := if s.portLinked port then x.hellosLeft - 1 else x.hellosLeft
    let s1 := s.putPort port { x with lastHello := s.tick, hellosLeft := left }
    .next (s1.sendFlit port 3 0 0 (s1.helloRecord port))

/-- A hello received intact (R285, R288): the version is selected, the peer's fields are kept, and of two managers the one
with the higher UID yields. A manager's hello makes it known. -/
def State.takeHello (s : State) (p : Nat) (rec' : List Byte) : State :=
  let uid := field rec' 8 8
  let s1 := if bit (field rec' 3 1) 7 ∧ s.get 0x500003 ≠ 0 ∧ uid < s.get 0x500004 then (s.put 0x500003 0).bump 0x719013 1 else s
  let level := field rec' 0 1
  let peer := field rec' 4 2 % 2 ^ 12
  let pport := field rec' 3 1 % 8
  let v := min 1 (field rec' 2 1)
  let s1 : State := if bit (field rec' 3 1) 7 ∧ s1.fab.manager = none then { s1 with fab := { s1.fab with manager := some (peer, [p]) } } else s1
  let st := s1.portState p
  if st = 2 then
    let s2 := s1.put (0x501101 + p) uid
    if max 1 (field rec' 1 1) ≤ v then
      (s2.setPort p 4 v level pport peer).putPort p { s2.port p with hellosLeft := 2 }
    else (s2.setPort p 3 0 level pport peer).bump 0x719012 1
  else if st = 4 ∨ st = 5 then s1.setPort p st (bits (s1.get (0x501001 + p)) 23 20) level pport peer
  else s1

/-- A hello reaches a port; one that is not intact is discarded on its CRC (R278, R285). -/
def execHelloReceive (port : Nat) (rec' : List Byte) (intact : Bool) (s : State) : Out :=
  if !s.railsUp ∨ s.portState port < 2 ∨ 5 < s.portState port then .next s
  else if intact then .next (s.takeHello port rec').settle
  else .next (s.bump 0x719005 1)

/-! ## Flits -/

/-- The acknowledgement that a flit brings: flits up to the one named leave the replay buffer, and NAK asks for a replay
(R277, R282). -/
def State.takeAck (s : State) (p ack : Nat) : State :=
  if !bit ack 15 then s
  else
    let x := s.port p
    let seq := ack % 4096
    let named := x.replay.any fun f => f.seq = seq
    let s1 := if named then
        s.putPort p { x with replay := (x.replay.dropWhile fun f => f.seq ≠ seq).drop 1, replays := 0 }
      else s
    if bit ack 14 then s1.replayPort p else s1

/-- The credits that a flit brings (R277, R281). -/
def State.takeCredit (s : State) (p credit : Nat) : State :=
  if !bit credit 15 then s
  else
    let x := s.port p
    let l := bits credit 13 12
    s.putPort p (({ x with credits := x.credits.set l (x.credits.getD l 0 + credit % 4096) } : Port).watch s.tick)

/-- A data flit received intact: in order it is accepted, and the messages it completes reach this module; out of order it
is discarded with a NAK (R279, R282). -/
def State.takeData (s : State) (p l seq : Nat) (payload : List Byte) : State :=
  let x := s.port p
  if seq ≠ x.rxNext then s.putPort p { x with nakPending := true }
  else
    let r := parseMsgs 16 (x.rxBytes.getD l [] ++ payload)
    let s1 := (s.bump 0x719002 1).putPort p
      { x with rxNext := (x.rxNext + 1) % 4096, ackNext := some seq, ackOwed := true, rxHeld := x.rxHeld.set l (x.rxHeld.getD l 0 + 1),
               rxBytes := x.rxBytes.set l (r.2.dropWhile (· = 0)) }
    r.1.foldl (fun s m => s.deliver (some p) m) s1

/-- A flit reaches a port whose PHY is trained (R277 to R282): FEC counts, the CRC, the fields that ride on every flit, and
what its KIND brings. -/
def execFlitReceive (port : Nat) (flit : List Byte) (fecCorrected fecUncorrectable : Nat) (s : State) : Out :=
  if !s.railsUp ∨ s.portState port < 2 ∨ 5 < s.portState port then .next s
  else
    let s0 := if fecCorrected = 0 then s else s.bump 0x719003 fecCorrected
    let s1 := if fecUncorrectable = 0 then s0 else s0.bump 0x719004 fecUncorrectable
    if fecUncorrectable ≠ 0 ∨ field flit 248 8 ≠ (crc64 (fit 248 flit)).toNat then
      let s2 := s1.bump 0x719005 1
      .next (if s2.portLinked port then s2.putPort port { s2.port port with nakPending := true } else s2)
    else
      let s2 := (s1.takeCredit port (field flit 6 2)).takeAck port (field flit 4 2)
      let kind := field flit 0 1 % 4
      let payload := slice flit 8 240
      if kind = 1 then
        .next (if s2.portLinked port then s2.takeData port (bits (field flit 0 1) 3 2) (field flit 2 2 % 4096) payload else s2)
      else if kind = 2 then
        .next (if payload.all (· = 0) then s2 else s2.portBeat port (readBeat payload))
      else if kind = 3 then .next (s2.takeHello port payload).settle
      else .next s2

/-- The oldest unacknowledged flit has waited 2.0 µs, which is 25 ticks: the port replays from it (R282). -/
def execReplayTimeout (port : Nat) (s : State) : Out :=
  match (s.port port).replay with
  | [] => .next s
  | f :: _ => if !s.railsUp ∨ s.tick < f.sentAt + 25 then .next s else .next (s.replayPort port)

/-! ## Retraining -/

/-- Retraining has completed in time: the port is linked again and replays from its oldest unacknowledged flit (R283). -/
def execRetrainDone (port : Nat) (s : State) : Out :=
  let x := s.port port
  match x.retrainSince with
  | none => .next s
  | some t =>
    if !s.railsUp ∨ t + 1250000 < s.tick ∨ s.portState port = 3 then .next s
    else
      let w := s.get (0x501001 + port)
      let s1 := if s.portLinked port then s else s.setPort port 4 (max 1 (bits w 23 20)) (bits w 19 16) (bits w 14 12) (bits w 11 0)
      let s2 := (s1.putPort port { s1.port port with retrainSince := none, replays := 0 }).bump 0x719007 1
      let again := (s2.port port).replay
      let s3 := s2.putPort port { s2.port port with replay := again.map fun f => { f with sentAt := s2.tick } }
      .next (again.foldl (fun s f => s.sendFlit port 1 f.lane f.seq f.payload) s3)

/-- Retraining has not completed after 100 ms: the port goes down (R283). -/
def execRetrainTimeout (port : Nat) (s : State) : Out :=
  match (s.port port).retrainSince with
  | none => .next s
  | some t => if !s.railsUp ∨ s.tick < t + 1250000 then .next s else .next (s.portDown port 0)

/-! ## Cages -/

/-- Whether a port may train: enabled and on a fabric die that is not fenced. -/
def State.portMayTrain (s : State) (p : Nat) : Bool := bit (s.get 0x500301) p && !s.fenced (portUnit p)

/-- A port with a pluggable within its power class begins PHY training (R284, R442). -/
def State.startTraining (s : State) (p : Nat) : State :=
  let x := s.port p
  if x.cage ∧ !x.lowPower ∧ s.railsUp ∧ s.portMayTrain p ∧ s.portState p = 0 then s.setPortState p 1 else s

/-- A pluggable is inserted: PHY training starts, or a pluggable above 5.0 W is held in low-power mode (R442). -/
def execPluggableInsert (port deciwatts : Nat) (s : State) : Out :=
  let x := s.port port
  if x.cage then .next s
  else
    let s1 := s.putPort port { x with cage := true, lowPower := decide (50 < deciwatts) }
    .next (if 50 < deciwatts then s1.bump 0x719014 1 else s1.startTraining port)

/-- A pluggable is removed, which takes its port down (R442). -/
def execPluggableRemove (port : Nat) (s : State) : Out :=
  let st := s.portState port
  let s1 := if st = 6 ∨ st = 7 then s else s.portDown port 0
  .next (s1.putPort port { s1.port port with cage := false, lowPower := false })

/-- A write of PORT_ENABLE: a cleared bit takes its port to STATE 6, a bit set again starts it anew (R284, R308). -/
def State.writePortEnable (s : State) (v : Nat) : State :=
  (List.range 8).foldl (fun s p =>
    if s.portState p = 7 then s
    else if !bit v p then s.portDown p 6
    else if s.portState p = 6 then (s.setPort p 0 0 0 0 0).startTraining p
    else s) (s.put 0x500301 v)

/-- A write to 5003:01 (R308). -/
def execPortEnableWrite (v : Byte) (s : State) : Out :=
  s.objectWritten fun s => s.writePortEnable v.toNat

end Sys2Proof.Machine
end

