-- ==== Sys2Proof/Machine/Net.lean ====
section
/-! DEFINITION. The welt network's named operations: ports and links (R19), buffers and credits (R254), routes of transfers (R257 to
R259), transfers entering the network and reaching their destination (R253, R255), and what all arbiters share (R264 to R267). -/

namespace Sys2Proof.Machine

/-! ## Ports and links -/

/-- The number of a link direction (R264). -/
def dirNumber : Dir → Nat
  | .north => 0
  | .east => 1
  | .south => 2
  | .west => 3
  | .localPort => 4

/-- The edge die whose link ends at a port of a compute die (R19, R258). -/
def edgeAt (die port : Nat) : Option Nat :=
  match port with
  | 0 => if die = 0 ∨ die = 1 then some 22 else if die = 3 ∨ die = 4 then some 23 else none
  | 1 => if die % 5 = 4 then some 21 else none
  | 2 => if 16 ≤ die ∧ die ≤ 18 then some 24 else none
  | 3 => if die % 5 = 0 then some 20 else none
  | _ => none

/-- The port of a compute die at which an edge die's link ends. -/
def edgePort (die edge : Nat) : Option Nat := (List.range 4).find? fun p => edgeAt die p = some edge

/-- The die at the far end of a port's link, and the port it ends at there. The ports of an edge die are its links, in the order of
R258's table; a port that is not bonded has none (R19). -/
def linkEnd (die port : Nat) : Option (Nat × Nat) :=
  if die < 20 then
    match neighbour die port with
    | some d => some (d, (port + 2) % 4)
    | none => (edgeAt die port).map fun e => (e, placeOf die (attachments e))
  else (attachments die)[port]?.bind fun d => (edgePort d die).map fun p => (d, p)

/-- The die at the far end of a port's link. -/
def linkPeer (die port : Nat) : Option Nat := (linkEnd die port).map Prod.fst

/-- A unit found lost, to be handled by R417, with its cause (R416). -/
def State.noteLost (s : State) (unit cause : Nat) : State :=
  if s.fenced unit ∨ s.isl.rails.lostPending.any (fun x => x.1 = unit) then s
  else { s with isl := { s.isl with rails := { s.isl.rails with lostPending := s.isl.rails.lostPending ++ [(unit, cause)] } } }

/-! ## Buffers and credits -/

/-- The place of an input buffer among those of the module (R254). -/
def bufKey (die port : Nat) (cls : WeltClass) (vcB : Bool) : Nat :=
  ((die * 5 + port) * 2 + (match cls with | .request => 0 | .response => 1)) * 2 + (if vcB then 1 else 0)

/-- The buffers of an input port: request and response, each with channels A and B. -/
def portBufs (die port : Nat) : List Nat :=
  [bufKey die port .request false, bufKey die port .request true, bufKey die port .response false, bufKey die port .response true]

/-- The buffer that a transfer enters at a port. -/
def Xfer.bufKey (x : Xfer) (die port : Nat) : Nat := Machine.bufKey die port x.cls x.vcB

/-- The transfers in an input buffer. -/
def State.buf (s : State) (k : Nat) : List Xfer := s.net.bufs.get k []

/-- The state with an input buffer replaced. -/
def State.putBuf (s : State) (k : Nat) (l : List Xfer) : State := { s with net := { s.net with bufs := s.net.bufs.set k l [] } }

/-- The beats an input buffer holds. -/
def bufBeats (l : List Xfer) : Nat := listSum (l.map fun x => x.beats.length)

/-- The credits that a sender holds for a buffer: its 64 beats, less those it holds and those on the way to it (R254). -/
def State.credits (s : State) (k : Nat) : Nat :=
  64 - bufBeats (s.buf k) - listSum ((s.net.flying.filter fun f => f.xfer.bufKey f.die f.port = k).map fun f => f.xfer.beats.length)

/-- Beats of a transfer added to a buffer: behind its own that are there, or as a new transfer at the end. -/
def addBeats (l : List Xfer) (x : Xfer) : List Xfer :=
  if l.any fun y => y.id = x.id then l.map fun y => if y.id = x.id then { y with beats := y.beats ++ x.beats, more := x.more } else y
  else l ++ [x]

/-! ## Priorities -/

/-- The priority of a source as it stands now; a value above 15 reads as 15. Threads 62 and 63 of a compute die have 15 (R219, R265,
R266, R280). -/
def State.priority (s : State) (src : PrioSource) : Nat :=
  min 15 (match src with
    | .engine => s.get 0x340001
    | .collector => s.get 0x340002
    | .thread eng thr => if eng < 20 ∧ 62 ≤ thr then 15 else (s.thread eng thr).prio
    | .hub => s.get 0x340003
    | .fabric => s.get 0x340004
    | .carried p => p
    | .lane vl => s.get (0x500101 + vl))

/-! ## Arbiters -/

/-- An arbiter, idle where it is not listed. -/
def State.arbiter (s : State) (id : ArbId) : Arbiter :=
  (s.net.arbiters.find? fun a => a.id = id).getD { id := id, waiters := [], holder := none, round := 0 }

/-- The state with an arbiter replaced. -/
def State.putArbiter (s : State) (a : Arbiter) : State :=
  { s with net := { s.net with arbiters := (s.net.arbiters.filter fun x => x.id ≠ a.id) ++ [a] } }

/-- The state with the waiters of an arbiter replaced. -/
def State.putWaiters (s : State) (id : ArbId) (l : List Waiter) : State := s.putArbiter { s.arbiter id with waiters := l }

/-- The rank of a request in a round (R264). -/
def State.rank (s : State) (w : Waiter) : Nat := s.priority w.src + w.age

/-- The request of highest rank among those present; a tie goes to the older stamp, then to the lower port (R264). -/
def State.winner (s : State) (l : List Waiter) : Option Waiter :=
  l.foldl (fun best w =>
    match best with
    | none => some w
    | some b =>
      if s.rank b < s.rank w ∨ (s.rank b = s.rank w ∧ (w.stamp < b.stamp ∨ (w.stamp = b.stamp ∧ w.port < b.port))) then some w else some b) none

/-- A request that has lost a round: its age rises, up to 63 (R264). -/
def Waiter.lost (w : Waiter) : Waiter := { w with age := min 63 (w.age + 1), rounds := w.rounds + 1 }

/-- The counts of the requests that lost a round (R267, R274). -/
def State.countLost (s : State) (l : List Waiter) : State :=
  let s1 := if l = [] then s else s.bump 0x718002 l.length
  let sat := l.countP fun w => w.age = 62
  let s2 := if sat = 0 then s1 else s1.bump 0x718004 sat
  let longest := listMax (l.map fun w => w.rounds + 1)
  if s2.get 0x718005 < longest then s2.put 0x718005 (longest % 2 ^ 32) else s2

/-- A request that reaches an arbiter in this cycle, stamped with it (R264). -/
def State.newWaiter (s : State) (port : Nat) (src : PrioSource) (job : Job) : Waiter :=
  { port := port, key := 0, xfer := 0, src := src, stamp := s.cycle, age := 0, rounds := 0, job := job, reply := none }

/-! ## Routes of transfers -/

/-- The compute die at which a transfer from compute die `entry` leaves the grid: its destination, or the attachment die of its edge
die. A transfer from another edge die to a fabric port leaves by the port's row (R258, R276). -/
def exitDie (active : List Nat) (src entry dst : Nat) (load : Load) : Option Nat :=
  if dst < 20 then some dst
  else match load with
    | .fabric p _ =>
      if 20 ≤ src ∧ (dst = 20 ∨ dst = 21) then attachActive active dst (5 * (p % 4) + (if dst = 21 then 4 else 0))
      else attach active dst entry
    | _ => attach active dst entry

/-- Whether a transfer from an edge die may enter at compute die `entry`: at the attachment die that its destination uses, or, toward
another edge die, at the one that its exit uses; a fabric die's at the row of its port, which the entry shows (R258, R276). -/
def entryAllowed (active : List Nat) (src entry exit dst : Nat) : Bool :=
  if dst < 20 then decide (attach active src dst = some entry)
  else if src = 20 ∨ src = 21 then (attachments src).contains entry && active.contains entry
  else decide (attach active src exit = some entry)

/-- The port by which a transfer at compute die `d` goes on, and whether it has made a down move then; none at its destination (R257
to R259). -/
def Xfer.next (x : Xfer) (active : List Nat) (d : Nat) : Option (Nat × Bool) :=
  if d = x.exit then (if x.dst = d then none else (edgePort d x.dst).map fun p => (p, x.down))
  else if x.vcB then (legalStep active x.exit d x.down).map fun y => (y.1, y.2.2)
  else (dimOrder d x.exit).head?.bind fun n => ((neighbours d).find? fun p => p.2 = n).map fun p => (p.1, x.down)

/-! ## Reaching the destination -/

/-- The bank or channel that serves a request at compute die `die`, and the job it asks for. -/
def State.jobAt (s : State) (die addr : Nat) (wr : Option Beat) (src : Nat) : Option (ArbId × Job) :=
  match s.place addr with
  | .hbm d off =>
    if d ≠ die then none
    else some (.hbmPort die (hbmChannel off), match wr with
      | none => .hbmRead (addr / 64 * 64) (.remote src)
      | some b => .hbmWrite (addr / 64 * 64) b.data b.poison)
  | .scratch d off =>
    if d ≠ die then none
    else some (.spBank die (spBank off), .spAccess (off / 64 * 64) (wr.map fun b => { enable := BitVec.allOnes 64, data := b.data, poison := b.poison }) [] false)
  | _ => none

/-- A request that came over the network waits at the bank or channel port of its line, as the local port's contender (R263). -/
def State.presentJob (s : State) (die addr : Nat) (wr : Option Beat) (x : Xfer) : State :=
  match s.jobAt die addr wr x.src with
  | none => s
  | some (id, job) =>
    let a := s.arbiter id
    s.putWaiters id (a.waiters ++ [{ s.newWaiter 41 (.carried x.prio) job with reply := if wr.isNone then some (x.src, x.prio) else none }])

/-- The response beats that a request asks for (R255). -/
def responseBeats : Load → Nat
  | .read _ n => n
  | _ => 0

/-- The space that die `d` reserved for `n` beats of response is free again (R255). -/
def State.release (s : State) (d n : Nat) : State :=
  { s with net := { s.net with expected := s.net.expected.set d (s.net.expected.get d 0 - n) 0 } }

/-- A transfer that has reached its destination whole: reads and writes wait at their bank or channel port, an add waits for the object
store, and a response gives back the space that was reserved for it (R253, R255, R262). -/
def State.finishXfer (s : State) (die : Nat) (x : Xfer) : State :=
  let s1 : State := { s with net := { s.net with arrived := (s.net.arrived.filter fun y => !(y.1 = die ∧ y.2.cls = x.cls)) ++ [(die, x)] } }
  match x.cls, x.load with
  | .response, _ =>
    s1.release die x.beats.length
  | .request, .read addr n => (List.range n).foldl (fun s i => s.presentJob die (addr + 64 * i) none x) s1
  | .request, .write addr => x.beats.zipIdx.foldl (fun s b => s.presentJob die (addr + 64 * b.2) (some b.1) x) s1
  | .request, .add k v => if die = 24 then { s1 with net := { s1.net with adds := s1.net.adds ++ [(k, v)] } } else s1
  | .request, _ => s1

/-- Beats of a transfer reach its destination (R253): with the last of them it has arrived. -/
def State.reachEnd (s : State) (die : Nat) (x : Xfer) : State :=
  let old := s.net.ending.find? fun y => y.1 = die && y.2.id = x.id
  let y := match old with
    | some o => { x with beats := o.2.beats ++ x.beats }
    | none => x
  let rest := s.net.ending.filter fun z => !(z.1 = die ∧ z.2.id = x.id)
  if x.more = 0 then State.finishXfer { s with net := { s.net with ending := rest } } die y
  else { s with net := { s.net with ending := rest ++ [(die, y)] } }

/-- A transfer that a lost or fenced unit cannot take or pass on is answered by the switch: a read with every byte clipped, which
frees the space reserved for it, and a write not performed (R417 step 2). -/
def State.answerLost (s : State) (x : Xfer) : State :=
  match x.cls, x.load with
  | .request, .read _ n => (s.bump 0x717001 1).release x.src n
  | .request, _ => s.bump 0x717002 1
  | .response, _ => if s.fenced x.dst then s else (s.bump 0x717001 1).release x.dst (x.beats.length + x.more)

/-- Beats of a transfer taken up at a port of a die: at the destination they leave the network, except that a request for a fabric
port waits there until its fabric die takes it up; elsewhere they enter the port's buffer (R254, R273, R417). -/
def State.takeBeats (s : State) (die port : Nat) (x : Xfer) : State :=
  if x.dst = die then
    match x.cls, x.load with
    | .request, .fabric _ _ => s.putBuf (x.bufKey die port) (addBeats (s.buf (x.bufKey die port)) x)
    | _, _ => s.reachEnd die x
  else if x.dst ≠ 24 ∧ s.fenced x.dst then (if x.more = 0 then s.answerLost x else s)
  else s.putBuf (x.bufKey die port) (addBeats (s.buf (x.bufKey die port)) x)

/-! ## Entering the network -/

/-- A transfer entering the network at compute die `entry`, from the die's own units or from an edge die: its route, its channel, its
priority and its number (R253, R257 to R259, R266). -/
def State.openXfer (s : State) (src entry : Nat) (f : Frame) : Option Xfer :=
  let active := s.activeDies
  match exitDie active src entry f.dst f.load with
  | none => none
  | some ex =>
    if src ≠ entry ∧ entryAllowed active src entry ex f.dst = false then none
    else some { id := s.net.nextId, src := src, dst := f.dst, exit := ex, cls := f.cls, vcB := (route active entry ex).2, down := false,
                source := f.source, prio := s.priority f.source, load := f.load, beats := f.beats, more := f.more }

/-- A transfer that has entered is numbered and counted, and space is reserved for its response (R255, R259). -/
def State.noteXfer (s : State) (x : Xfer) : State :=
  let s1 := if x.vcB then s.bump 0x718006 1 else s
  let n := responseBeats x.load
  { s1 with net := { s1.net with
    nextId := s1.net.nextId + 1
    expected := if n = 0 then s1.net.expected else s1.net.expected.set x.src (s1.net.expected.get x.src 0 + n) 0 } }

/-- A frame of a die's own units, or of an edge die at its end of a link, enters at a port: the first opens a transfer of at most 64
beats, the others go on with the one that the port's buffer took last. A sender without credits for its beats sends nothing (R251, R254,
R268). -/
def State.enterFrame (s : State) (src die port : Nat) (f : Frame) : State :=
  let take := fun (s : State) (x : Xfer) =>
    if x.dst ≠ die ∧ s.credits (x.bufKey die port) < x.beats.length then s
    else
      let s1 := if f.first then s.noteXfer x else s
      (if src = die then s1 else s1.bump 0x718001 x.beats.length).takeBeats die port x
  if f.first then
    if 64 < f.beats.length + f.more then s
    else match s.openXfer src die f with
      | some x => take s x
      | none => s
  else
    let held := (portBufs die port).findSome? fun k => (s.buf k).find? fun x => decide (x.src = src) && decide (x.dst = f.dst) && decide (x.cls = f.cls) && decide (x.more ≠ 0)
    let ending := (s.net.ending.find? fun y => decide (y.1 = die) && decide (y.2.src = src) && decide (y.2.cls = f.cls)).map Prod.snd
    match held.orElse fun _ => ending with
    | some x => if f.beats.length ≤ x.more then take s { x with beats := f.beats, more := x.more - f.beats.length } else s
    | none => s

/-- A line read for another die waits for its response to be sent. -/
def State.owe (s : State) (a : OwedLine) : State := { s with net := { s.net with answers := s.net.answers ++ [a] } }

/-- A response sent from a die's local port, with the priority of its request, where the port's buffer has room (R253, R265). -/
def State.respond (s : State) (a : OwedLine) : State :=
  let s1 := s.enterFrame a.die a.die 4
    { cls := .response, dst := a.dst, source := .carried a.prio, load := .data a.addr, first := true, beats := [a.beat], more := 0 }
  if s1.net.nextId = s.net.nextId then s else { s1 with net := { s1.net with answers := s1.net.answers.erase a } }

/-- Whether a fabric port's lane takes up requests: nothing waits there, or it holds a credit (R273, R281). -/
def State.laneOpen (s : State) (p vl : Nat) : Bool :=
  decide ((s.port p).txQueue.getD vl [] = []) || decide ((s.port p).credits.getD vl 0 ≠ 0)

/-- A fabric die takes up the requests at its ends of its links that its ports have room for; the others keep their place, and so hold up
what waits behind them (R273). -/
def State.drainEdge (s : State) (die port : Nat) : State :=
  let k := bufKey die port .request false
  [k, k + 1].foldl (fun s k =>
    match s.buf k with
    | x :: rest =>
      match x.load with
      | .fabric p vl => if x.more = 0 ∧ s.laneOpen p vl then (s.putBuf k rest).reachEnd die x else s
      | _ => s
    | [] => s) s

/-- What a cycle does at the ends of the network: responses whose lines are there are sent, and the fabric dies take up requests. -/
def State.netCycle (s : State) : State :=
  let s1 := (s.net.answers.filter fun a => decide (a.due ≤ s.cycle)).foldl State.respond s
  [20, 21].foldl (fun s d => (List.range 4).foldl (fun s p => s.drainEdge d p) s) s1

end Sys2Proof.Machine
end

