-- ==== Sys2Proof/Machine/Fence.lean ====
section
/-! DEFINITION. Losing and fencing units (R417 to R420, R422): the units and active set after a fence, the operations
that a loss abandons or plans again, and the module lost. -/

namespace Sys2Proof.Machine

/-- The fence requests not yet in force: units and stacks (R419). -/
def State.fencePending (s : State) : Nat × Nat :=
  (maskOf 24 fun b => bit (s.get 0x330006) b && !bit (s.get 0x330008) b,
   maskOf 10 fun b => bit (s.get 0x330007) b && !bit (s.get 0x330009) b)

/-- An operation whose lasting has begun on some die and whose final barrier has not closed on every one. -/
def OpCtx.inProgress (op : OpCtx) : Bool :=
  op.noPhase.isNone && !op.closed && op.active.any fun d =>
    !(decide ((op.die d).stage = .idle) || decide ((op.die d).stage = .fetching))

/-- Whether the operation before operation `i` has closed on die `d` (R26, R159). -/
def State.prevClosed (s : State) (i d : Nat) : Bool :=
  i = 0 || (s.op (i - 1)).noPhase.isSome || !(s.op (i - 1)).active.contains d || decide (((s.op (i - 1)).die d).stage = .closed)

/-- A die begins the fetch of operation `i`'s metadata in the next cycle: the tensors that await no close, and those that
do where the close has taken place (R25, R61, R159). -/
def State.startFetch (s : State) (i d : Nat) : State :=
  let s1 := (s.onOp i fun op =>
    { op.putDie d { DieOp.waiting with stage := .fetching, fetchAt := s.cycle + 1 } with snaps := op.snaps.erase d }).beginFetch i d
      (s.cycle + 1) false
  if s.prevClosed i d then s1.beginFetch i d (s.cycle + 1) true else s1

/-- An operation planned again on the present active set, from the fetch (R417 step 5). -/
def State.replan (s : State) (i : Nat) : State :=
  let old := s.op i
  let s1 := s.onOp i fun op => { op with active := s.activeDies, dies := [], knobs := none, snaps := [], plan := none, headerChecked := false, barrier := Barrier.empty, gmax := [] }
  (s.activeDies.filter fun d => decide ((old.die d).stage = .fetching) || decide ((old.die d).stage = .lasting)).foldl
    (fun s d => s.startFetch i d) s1

/-- The oldest operations that a loss has abandoned complete with STATUS 0x02, as far as nothing older is open (R409, R417
step 4). -/
def State.finishAbandoned : Nat → State → State
  | 0, s => s
  | k + 1, s =>
    match s.arr.ops with
    | [] => s
    | op :: _ => if op.abandoned then State.finishAbandoned k (s.completeOp 2 0 op.poisoned) else s

/-- The operations after a fence: where a compute die is lost at run time those in progress are abandoned, and all that are
open where the module is lost; an operation that has not begun its lasting is planned again (R417 steps 1, 4 and 5, R422). -/
def State.sortOps (s : State) (abandon lost : Bool) : State :=
  let ops := s.arr.ops.map fun op =>
    if (abandon && op.inProgress) || (lost && op.noPhase.isNone && !op.closed) then
      { op with abandoned := true, noPhase := some (2, 0), foundAt := s.cycle, dies := [], barrier := Barrier.empty, writes := none }
    else op
  let s1 := (if (abandon || lost) ∧ s.arr.ops.any OpCtx.inProgress then (List.range 20).foldl State.dropAcc s else s).putOps ops
  let s2 := State.finishAbandoned (ops.length) s1
  (List.range s2.arr.ops.length).foldl (fun s i =>
    if (s.op i).noPhase.isNone ∧ !(s.op i).closed ∧ !(s.op i).inProgress then s.replan i else s) s2

/-- The readiness bits that clear for units fenced: dies, stacks with no active die, and the channels of tier dies (R394). -/
def fenceReady (newly fenced stk : Nat) : List (Nat × Bool) :=
  ((List.range 20).filter fun d => bit newly d).map (fun d => (24 + d, false)) ++
    ((List.range 10).filter fun k => bit stk k || (stackDies k).all fun d => bit fenced d).map (fun k => (14 + k, false)) ++
    ((List.range 8).filter fun c => bit newly (22 + c / 4)).map fun c => (44 + c, false)

/-- The TAG of the operation in progress, or 0 (R413 class 10). -/
def State.currentTag (s : State) : Nat :=
  match s.arr.ops with
  | [] => 0
  | op :: _ => op.od.tag

/-- The module is lost: the module-lost record, and no further issue entry (R422). -/
def State.moduleLost (s : State) : State :=
  if s.hub.lost then s
  else ({ s with hub := { s.hub with lost := true } }).event 10 3 255 0 (leBytes 4 (s.get 0x330008))

/-- Die-lost records and their count; a fence request is no loss at run time (R413, R416, R419). -/
def State.lossRecords (s : State) (l : List (Nat × Nat)) : State :=
  l.foldl (fun s x => (if x.2 = 7 then s else s.bump 0x71B006 1).event 10 1 x.1 x.2 (leBytes 4 s.currentTag)) s

/-- What becomes of the hardware of units newly fenced: ports of a fabric die, channels of a tier die, and the holds and
queues of a compute die (R420). -/
def State.darken (s : State) (newly : Nat) : State :=
  (List.range 24).foldl (fun s d =>
    if !bit newly d then s
    else if d < 20 then
      let s1 := s.dropAcc d
      { s1 with arr := { s1.arr with holds := s1.arr.holds.erase d } }
    else if d < 22 then (List.range 4).foldl (fun s p => s.portDown (4 * (d - 20) + p) 7) s
    else (List.range 4).foldl (fun s c =>
      let k := 0x404001 + 4 * (d - 22) + c
      s.put k (s.get k % 2 ^ 24 + 6 * 2 ^ 24 + s.get k / 2 ^ 28 * 2 ^ 28)) s) s

/-- The objects that name the fenced units, the active set and the barrier root after a fence (R181, R424). -/
def State.setUnits (s : State) (fenced stk : Nat) (active : List Nat) : State :=
  let s1 := ((s.put 0x330008 fenced).put 0x330009 stk).put 0x330003 (maskOf 20 fun d => active.contains d)
  if active = [] then s1 else (s1.put 0x330004 (barrierRoot active).1).put 0x330005 (barrierRoot active).2

/-- The threads of the engines of units newly fenced killed (R418). -/
def State.killEngines (s : State) (newly : Nat) : State :=
  ((List.range 20) ++ [22, 23]).foldl (fun s d => if bit newly d then s.killEngine (if d < 20 then d else d - 2) else s) s

/-- The dies that a transfer at compute die `d` passes on its way, by the active set before the loss, its edge die with them (R257 to
R259). -/
def Xfer.path (x : Xfer) (active : List Nat) : Nat → Nat → List Nat
  | 0, d => [d]
  | k + 1, d =>
    match x.next active d with
    | none => [d]
    | some y => (match linkEnd d y.1 with
      | some e => if e.1 < 20 then d :: ({ x with down := y.2 }).path active k e.1 else [d, e.1]
      | none => [d])

/-- The switches answer the transfers that units newly fenced cannot pass or take: those held on the way to or through such a unit, and
those inside it (R417 step 2): once each, by the part that shows most of it. -/
def State.answerHeld (s : State) (newly : Nat) (active : List Nat) : State :=
  let n := s.net
  let hit := fun (d : Nat) (x : Xfer) => bit newly d || bit newly x.dst || (decide (d < 20) && (x.path active 40 d).any (bit newly))
  let lost := (n.bufs.flatMap fun b => b.2.filter (hit (b.1 / 20))) ++ ((n.flying.filter fun f => hit f.die f.xfer).map LinkFrame.xfer)
  let gone := dedup (lost.map Xfer.id)
  let kept := fun (x : Xfer) => !gone.contains x.id
  let s1 : State := { s with net := { n with
    bufs := (n.bufs.map fun b => (b.1, b.2.filter kept)).filter fun b => b.2 ≠ []
    flying := n.flying.filter fun f => kept f.xfer
    ending := n.ending.filter fun y => kept y.2 && !bit newly y.1
    answers := n.answers.filter fun a => !bit newly a.die && !bit newly a.dst } }
  gone.foldl (fun s i =>
    match (sortBy (fun x y => decide (y.beats.length + y.more ≤ x.beats.length + x.more)) (lost.filter fun x => x.id = i)).head? with
    | some x => s.answerLost x
    | none => s) s1

/-- The units of `direct` (with their causes) and of the stacks in `stks` are fenced, in one pass through R417 steps 3
to 5, with R418. -/
def State.loseUnits (s : State) (direct : List (Nat × Nat)) (stks : Nat) : State :=
  let fresh := direct.filter fun x => x.1 < 24 ∧ !s.fenced x.1
  let newStk := maskOf 10 fun k => bit stks k && !bit (s.get 0x330009) k
  if fresh = [] ∧ newStk = 0 then s
  else
    let s1 := s.lossRecords fresh
    let old := s.get 0x330008
    let stk := s.get 0x330009 ||| newStk
    let fenced := fenceClosure (fresh.foldl (fun m x => m ||| 2 ^ x.1) old) stk
    let newly := maskOf 24 fun d => bit fenced d && !bit old d
    let active := (List.range 20).filter fun d => !bit fenced d
    let changed := decide (maskOf 20 (fun d => active.contains d) ≠ s.get 0x330003)
    let s4 := ((((s1.setUnits fenced stk active).answerHeld newly s1.activeDies).setReady (fenceReady newly fenced stk)).darken newly).bump 0x71B007 1
    let s5 := s4.event 10 2 255 0 (leBytes 4 fenced ++ leBytes 2 stk)
    let s6 := if changed then s5.raiseVector 4 else s5
    let abandon := decide ((List.range 20).any fun d => bit newly d) && (fresh.any fun x => decide (x.2 ≠ 7))
    let s7 := if changed ∨ abandon then s6.sortOps abandon (decide (active = [])) else s6
    let s8 := s7.killEngines newly
    if active = [] then s8.moduleLost else s8

/-- Requested fences take effect where no operation is in progress: with die-lost records of cause 7 for the units and for
the dies of the stacks named (R419). -/
def State.settleFence (s : State) : State :=
  let p := s.fencePending
  if !s.railsUp ∨ (p.1 = 0 ∧ p.2 = 0) ∨ s.arr.ops.any OpCtx.inProgress then s
  else
    let dies := (List.range 24).filter fun d => bit p.1 d || ((List.range 10).any fun k => bit p.2 k && (stackDies k).contains d)
    s.loseUnits (dies.map fun d => (d, 7)) p.2

end Sys2Proof.Machine
end

