-- ==== Sys2Proof/Machine/Schedule.lean ====
section
/-! DEFINITION. The schedule of an operation: the descriptor's arrival (R25), the checks on control data (R155, R408),
lasting (R159, R160), phases (R162), barriers (R167 to R171), laps (R177 to R180), collector slots (R270) and the
completion record (R27). -/

namespace Sys2Proof.Machine

/-! ## Fetch and checks -/

/-- An operation that will run no phase, with STATUS, XCODE and the cycle in which its cause is found (R27). -/
def State.refuseOp (s : State) (i status xcode found : Nat) : State :=
  s.onOp i fun op => { op with noPhase := some (status, xcode), foundAt := found }

/-- The descriptor, of 2 beats, arrives at a die (R25, R260), which begins the fetch in the next cycle. The die ranked 0 finds a
poisoned descriptor and an unknown OPCODE (R27, R70, R408). -/
def execDescriptorArrival (die : Nat) (s : State) : Out :=
  match s.opAt die .idle with
  | none => .next s
  | some i =>
    let op := s.op i
    if op.noPhase.isSome ∨ s.cycle < op.issuedAt + 12 * descriptorHops op.active die + 1 then .next s
    else
      let x := descriptorLinks op.active die
      let s1 := (s.countBeats 2 x.1 1 x.2).startFetch i die
      if die = op.die0 ∧ op.descPoison then
        .next ((s1.refuseOp i 1 0 s.cycle).controlPoison die 1 op.addr op.od.tag)
      else if die = op.die0 ∧ op.od.kind = .unknown then .next (s1.refuseOp i 0x10 0 (s.cycle + 1))
      else .next s1

/-- The last as the die ranked 0 reads it. -/
def State.lastOf (s : State) (op : OpCtx) : Last :=
  ({ s := s, w := s.window op.od.task, die := op.die0, snap := [] } : View).last op.od.last (maskOf 20 fun d => op.active.contains d)

/-- What the check of the tensor descriptors and of the last finds on the die ranked 0: the STATUS and XCODE of a fault of the last
(R155), or the SUB and the address of poisoned control data, which comes first (R408). -/
inductive CheckResult where
  | sound
  | fault (status xcode : Nat)
  | poison (sub addr : Nat)
deriving DecidableEq, Repr

/-- The byte ranges of the tensor descriptors of an operation. -/
def OpCtx.descRanges (op : OpCtx) : List (Nat × Nat) := op.od.pointers.map fun p => (p / 64 * 64, 64)

/-- The check of an operation's tensor descriptors and last, as memory holds them (R155, R408). -/
def State.controlCheck (s : State) (op : OpCtx) : CheckResult :=
  let v : View := { s := s, w := s.window op.od.task, die := op.die0, snap := [] }
  let last := s.lastOf op
  match op.descRanges.find? (fun r => (v.read r.1 r.2).2) with
  | some r => .poison 2 r.1
  | none =>
    if last.poison then
      .poison 3 ((((last.ranges.flatMap fun r => piecesOf r.1 r.2).find? fun p => (v.read p.1 p.2).2).map Prod.fst).getD op.od.last)
    else
      match lastCheck (s.get 0x100005) op.od.opcode last.hdr with
      | some r => .fault r.1 r.2
      | none => .sound

/-- The cycles that the longest of the reads of an operation's tensor descriptors and of its last takes: an HBM line is delivered 84
cycles after it is accepted by its owning die, which a request and its answer reach over the welt network; any other place answers
after its own access, which adds no fixed latency here (R27, R199, R256; log entry 153). -/
def State.headerLatency (s : State) (op : OpCtx) : Nat :=
  let w := s.window op.od.task
  let pieces := ((op.od.last, 64) :: op.descRanges).flatMap fun (r : Nat × Nat) => piecesOf r.1 r.2
  listMax (pieces.map fun (p : Nat × Nat) =>
    match (s.taskLine w op.die0 p.1 p.2).phys with
    | some a => match s.place a with
      | .hbm d _ => 84 + (if d = op.die0 then 0 else 12 * hops op.active op.die0 d + 12 * hops op.active d op.die0 + 1)
      | _ => 0
    | none => 0)

/-- Whether an operation runs its phases: a poisoned descriptor, an unknown OPCODE and a control check that fails keep it from
every one, on every die (R27, R70, R155, R408). -/
def State.runsPhases (s : State) (op : OpCtx) : Bool :=
  !op.descPoison && decide (op.od.kind ≠ .unknown) && decide (s.controlCheck op = .sound)

/-- The tensor descriptors and the last reach the die ranked 0, which checks them: poison first, then MAGIC, CVER and
OPCODE (R27, R155, R408). Where dies have begun lasting, the operation runs, and the reads alone are counted. -/
def execLastHeaderCheck (s : State) : Out :=
  match s.findOp (fun op => op.noPhase.isNone && !op.headerChecked && decide ((op.die op.die0).stage ≠ .idle)) with
  | none => .next s
  | some i =>
    let op := s.op i
    let d := op.die0
    if s.cycle < (op.die d).fetchAt + s.headerLatency op then .next s
    else
      let s1 := (s.opReads i d (op.descRanges ++ (s.lastOf op).ranges)).onOp i fun op => { op with headerChecked := true }
      if op.plan.isSome then .next s1
      else match s.controlCheck op with
        | .sound => .next s1
        | .fault st x => .next ((s1.refuseOp i st x s.cycle).bump 0x715003 1)
        | .poison sub a =>
          let line := ((s.taskLine (s.window op.od.task) d (a / 64 * 64) 64).phys.getD 0) / 64 * 64
          .next ((s1.refuseOp i 1 0 s.cycle).controlPoison d sub line op.od.tag)

/-- A tensor's metadata at its due cycle: landed, or late with a supply hold until it lands; the hold ends with the last of what is late
(R159, R173). -/
def execMetadataDue (die : Nat) (opd : Opd) (arrived : Bool) (s : State) : Out :=
  match s.opAt die .fetching with
  | none => .next s
  | some i =>
    match ((s.op i).die die).due.find? (fun x => x.1 = opd) with
    | none => .next s
    | some x =>
      if s.cycle < x.2 then .next s
      else if arrived then
        let s1 := s.onOp i fun op => op.putDie die { op.die die with due := (op.die die).due.erase x }
        .next (if ((s1.op i).die die).lateMeta s.cycle ∨ (s.opBusy die).isSome then s1 else s1.putHold die { s1.hold die with supply := false })
      else .next (s.supplyHold die)

/-! ## Lasting -/

/-- The byte ranges of the metadata that a die's clicker reads under a plan (R84, R139, R159). -/
def OpEnv.metaRanges (e : OpEnv) (pl : Plan) (die : Nat) : List (Nat × Nat) :=
  let p := e.mainProduct
  (e.metaParts p (e.tilesOf pl p die) pl.segments
    (pl.resoleTiles e p die, if e.o.kind.isProduct then pl.segments2 else []) die).flatMap fun t => t.2

/-- What the first die to plan counts for the whole operation (R81, R90, R144, R155, R158, R185). -/
def State.countPlan (s : State) (i : Nat) (pl : Plan) (pc : PlanCounts) : State :=
  let lost := pl.resole.filter fun r => !r.admitted
  let misses := listSum (lost.map fun r => r.misses)
  let s1 := ((((s.bump 0x712001 pc.dense).bump 0x712002 pc.sparse).bump 0x712003 pc.pairs).bump 0x712004 pc.drops).bump 0x712005 pc.spills
  let s2 := ((((s1.bump 0x712006 pc.s48).bump 0x712007 pc.tmask).bump 0x712008 pc.siteDup).bump 0x714006 misses).bump 0x714007 lost.length
  let s3 := s2.bump 0x715001 1
  let s4 := if pc.base ∧ s.get 0x330008 % 2 ^ 20 ≠ 0 then s3.bump 0x71500C 1 else s3
  s4.opCount i fun c => { c with dropped := c.dropped + pc.drops, missLost := misses, entryLost := lost.length,
                                 tresMax := listMax (pl.dies.map fun d => d.tRes) }

/-- The metadata ranges that a die reads for operation `i` under a plan. -/
def State.metaOf (s : State) (i die : Nat) (pl : Plan) : List (Nat × Nat) :=
  (s.envAt i die).metaRanges pl die

/-- The first poisoned piece of byte ranges as a die reads them. -/
def State.badPiece (s : State) (i die : Nat) (ranges : List (Nat × Nat)) : Option Nat :=
  ((ranges.flatMap fun r => piecesOf r.1 r.2).find? fun q => (((s.envOf i).view die).read q.1 q.2).2).map Prod.fst

/-- Whether any die reads poisoned metadata: every block the operation writes is then poisoned (R408). -/
def State.metaBad (s : State) (i : Nat) (pl : Plan) : Bool :=
  (s.op i).active.any fun d => (s.badPiece i d (s.metaOf i d pl)).isSome

/-- The lines of metadata and of the last that a die reads in lasting; poisoned metadata is one case for the operation (R152,
R408). -/
def State.lastingReads (s : State) (i die : Nat) (pl : Plan) : State :=
  let ranges := s.metaOf i die pl
  let op := s.op i
  let own := if die = op.die0 then [] else (s.lastOf op).ranges
  let s1 := s.opReads i die (ranges ++ own)
  match s.badPiece i die ranges with
  | none => s1
  | some a =>
    if op.metaSeen then s1
    else
      let at' := ((s.taskLine (s.window op.od.task) die (a / 64 * 64) 64).phys.getD 0) / 64 * 64
      (s1.onOp i fun op => { op with metaSeen := true }).controlPoison die 4 at' op.od.tag

/-- Lasting begins on a die once its metadata has landed and the preceding operation has closed there (R26, R159). A fence
that waits for that close is applied first (R419). The die binds the last and the metadata as it reads them (R155), on the acceptance of
the die ranked 0. -/
def execLastingStart (die : Nat) (s : State) : Out :=
  match s.opAt die .fetching with
  | none => .next s
  | some i =>
    let op := s.op i
    let x := op.die die
    if op.noPhase.isSome ∨ x.due ≠ [] ∨ s.cycle < x.fetchAt ∨ !s.prevClosed i die ∨ s.fencePending ≠ (0, 0) ∨
        (op.plan.isNone ∧ !op.headerChecked ∧ !s.runsPhases op) then .next s
    else
      let m := makePlan s op.desc op.active die (s.knobsOf op) op.snaps
      let pl := match op.plan with
        | some pl => pl.rebind m.1 op.active die
        | none => m.1
      let s1 := s.onOp i fun op => { op with plan := some pl }
      let s2 := if op.plan.isSome then s1
        else (s1.onOp i fun op => { op with metaPoison := s1.metaBad i pl }).countPlan i pl m.2
      let s3 := (s2.bump 0x715002 (pl.die die).tLast).lastingReads i die pl
      .next (s3.onOp i fun op => op.putDie die { op.die die with stage := .lasting, lastAt := s.cycle, ran := 0 })

/-- After t_last cycles the first phase begins on a die (R159). -/
def execPhaseCountersStart (die : Nat) (s : State) : Out :=
  match s.opAt die .lasting with
  | none => .next s
  | some i =>
    let t := match (s.op i).plan with
      | some pl => (pl.die die).tLast
      | none => 0
    if ((s.op i).die die).ran < t ∨ s.held die then .next s
    else .next (s.beginPhase i die 1).settle

/-! ## Phases and barriers -/

/-- A die's phase counter reaches zero: its units have finished their updates, as R115 bounds them; in the final phase its writes have
been made; and the die raises its arrival, which a lap can delay at the final barrier (R112, R162, R180). -/
def execPhaseCounterExpire (die : Nat) (s : State) : Out :=
  match s.opAt die .running with
  | none => .next s
  | some i =>
    let op := s.op i
    let x := op.die die
    if x.counter ≠ 0 ∨ x.expiredAt.isSome ∨ (op.od.kind ≠ .conv ∧ !s.accSettled die) then .next s
    else
      let s1 := if x.phase = op.phases then s.phaseWrites i die else s
      let bound := match op.plan with
        | some pl => pl.die die
        | none => DiePlan.none die
      let s2 := if x.phase = 2 ∧ op.phases = 3 then s1.bump 0x714008 bound.tRes else s1
      let s3 := if op.od.kind = .conv ∧ x.phase = 1 then s2.bump 0x715002 bound.tRebind else s2
      let s4 := s3.onOp i fun op => op.putDie die { op.die die with expiredAt := some s.cycle }
      if x.phase = op.phases ∧ !x.lapDone then .next s4 else .next (s4.arrive i die)

/-- A switch takes the arrivals that have reached it (R121). -/
def execBarrierArrivalReceive (die : Nat) (s : State) : Out :=
  match s.findOp (fun op => op.barrier.flights.any fun f => decide (f.dst = die) && decide (f.due ≤ s.cycle)) with
  | none => .next s
  | some i =>
    .next (s.onOp i fun op =>
      let due := op.barrier.flights.filter fun f => f.dst = die ∧ f.due ≤ s.cycle
      let op1 := { op with barrier := { op.barrier with flights := op.barrier.flights.filter fun f => !(f.dst = die ∧ f.due ≤ s.cycle) } }
      due.foldl (fun op f => op.combine s.cycle die f.count f.maxima) op1)

/-- The beats of a partial block of 256 elements of 4 bytes (R119, R251). -/
def slotBeats : Nat := 16

/-- The last die has closed: the collector slots not yet counted are, a mode change is no longer pending, and requested
fences take effect (R131, R206, R419). -/
def State.allClosed (s : State) (i : Nat) : State :=
  let links := match (s.op i).plan with
    | some pl => pl.collLinks.length
    | none => 0
  let left := links - (s.op i).slotsUsed.length
  let s1 := ((s.bump 0x713004 left).countBeats slotBeats left 0 false).onOp i fun op =>
    { op with slotsUsed := List.range links, counts := { op.counts with collSlots := op.counts.collSlots + left } }
  let s2 := (List.range 20).foldl State.closeEffects s1
  ({ s2 with mem := { s2.mem with eccPending := false } }).settleFence

/-- A die goes on from a barrier whose release it has: into its next phase, or, after the last, to the close (R169, R171).
CYCLES is taken on the die ranked 0 (R244). -/
def State.advance (s : State) (i die : Nat) : State :=
  let op := s.op i
  let x := op.die die
  if x.phase < op.phases then s.beginPhase i die (x.phase + 1)
  else
    let lens := match op.plan with
      | some pl => (pl.die die).lens
      | none => []
    let s1 := if die = op.die0 then s.opCount i fun c => { c with cycles := s.cycle - x.lastAt } else s
    let s2 := (s1.closeDie i die).noteClosed die x.lastAt lens
    if (s2.op i).closed then s2.allClosed i else s2

/-- A die that has its release goes on where nothing keeps it: no hold, and in interactive mode the nominal release of a
later barrier has come (R169, R174). -/
def State.proceed (s : State) (i die : Nat) : State :=
  let op := s.op i
  if (op.die die).releaseAt.isNone ∨ s.held die ∨ (!op.driven die ∧ s.cycle < op.nominal die) then s else s.advance i die

/-- The forecast that the die ranked 0 makes at the first release (R234). -/
def State.forecast (s : State) (i : Nat) : State :=
  let op := s.op i
  match op.plan with
  | none => s
  | some pl =>
    let later := op.phases - 1
    let cyc := listSum ((List.range later).map fun p => op.gmax.getD (p + 1) 0) + later * (26 * pl.depth + (if (pl.die op.die0).interactive then (pl.die op.die0).slack else 0))
    let done := s.tick + ceilDiv cyc (tickCycles (s.get 0x200009))
    let limit := op.tTaken + op.od.deadline
    if op.od.deadline = 0 ∨ done ≤ limit then s
    else
      let s1 := (s.bump 0x71700A 1).onOp i fun op => { op with forecast := true }
      s1.event 4 1 255 0 (leBytes 4 op.od.tag ++ leBytes 4 (done - limit) ++ leBytes 8 op.tTaken)

/-- The slip of a later barrier in interactive mode (R170). -/
def State.countSlip (s : State) (i die : Nat) : State :=
  let op := s.op i
  let nu := op.nominal die
  if op.driven die ∨ s.cycle ≤ nu then s
  else
    let s1 := (s.bump 0x715008 1).bump 0x715009 (s.cycle - nu)
    if die = op.die0 then s1.opCount i fun c => { c with slips := c.slips + 1, slipCyc := c.slipCyc + (s.cycle - nu) } else s1

/-- The release of the open barrier reaches a die (R167 to R171, R175, R234). -/
def execBarrierReleaseArrival (die : Nat) (s : State) : Out :=
  match s.opAt die .arrived with
  | none => .next s
  | some i =>
    let op := s.op i
    let x := op.die die
    match op.releaseDue die x.phase with
    | none => .next s
    | some due =>
      if s.cycle < due ∨ x.releaseAt.isSome then .next s
      else
        let s1 := (s.applyClockOn die op.active).onOp i fun op => op.putDie die { op.die die with releaseAt := some s.cycle }
        let s2 := if die = op.die0 ∧ x.phase = 1 then s1.forecast i else s1
        .next ((s2.countSlip i die).proceed i die).settle

/-- The nominal release comes on a die whose release has arrived (R169). -/
def execNominalRelease (die : Nat) (s : State) : Out :=
  match s.opAt die .arrived with
  | none => .next s
  | some i => .next (s.proceed i die).settle

/-- The completion record of the oldest operation (R27, R244): of one that ran its phases, once every die has closed and,
in synchronous mirror mode, the twin has applied its writes (R304); of one that ran none, after the cycle in which its
cause was found. -/
def execCompletionRecordWrite (s : State) : Out :=
  match s.arr.ops with
  | [] => .next s
  | op :: _ =>
    match op.noPhase with
    | some r => if s.cycle ≤ op.foundAt then .next s else .next (s.completeOp r.1 r.2 (r.1 = 1 || op.poisoned)).settleFence
    | none =>
      if !op.closed || s.mirrorWait op.mirSeq then .next s
      else .next (s.completeOp (if op.poisoned then 1 else 0) 0 op.poisoned).settleFence

/-! ## Laps -/

/-- The steps of a lap: with one active die, the one in which it copies its own shard (R178, R179). -/
def lapSteps (n : Nat) : Nat := max (n - 1) 1

/-- The lap a die is in, its number of steps done, and s of R178: the laps of an operation run one after the other. -/
def OpCtx.lapNow (op : OpCtx) (d : Nat) : Option (LapRec × Nat × Nat) :=
  let n := op.active.length
  match op.plan with
  | none => none
  | some pl =>
    let k := (op.die d).lapStep
    (pl.laps[k / lapSteps n]?).map fun l => (l, k % lapSteps n, ceilDiv (ceilDiv l.z n) 64 * 64)

/-- The bytes of the shard of ring position `p`: their place in the image and their number (R178). -/
def shardOf (z size p : Nat) : Nat × Nat := (p * size, min ((p + 1) * size) z - min (p * size) z)

/-- The first `k` shards that a die sent have reached its successor. -/
def DieOp.sentBy (x : DieOp) (k cycle : Nat) : Bool :=
  decide (k = 0) || (match x.lapDue[k - 1]? with
    | some due => decide (due ≤ cycle)
    | none => false)

/-- A run of bytes copied from one die's scratchpad to another's, line by line with their markers (R178, R406). -/
def State.lapCopy (s : State) (i sender taker src dst n : Nat) : State :=
  let w := s.window (s.op i).od.task
  let r := s.streamRead w sender src n (s.op i).counts
  let x := (piecesOf dst n).foldl (fun (acc : State × Counts) p =>
    let part := (r.1.drop (p.1 - dst)).take p.2
    acc.1.taskWriteLine w taker p.1 (List.replicate p.2 true) (part.map Prod.fst) (part.any fun b => b.2) acc.2) r.2
  x.1.opCount i fun _ => x.2

/-- A lap step begins on a die: it forwards its own shard, or the one it received in the step before, to its successor;
with the first step it copies its own shard to the staging area (R178, R179). A step waits for the shard of the
predecessor. Its beats cross every link of the route, in transfers of at most 64 (R259, R268, R274). -/
def execLapStep (die : Nat) (s : State) : Out :=
  match s.findOp (fun op => op.active.contains die && !(op.die die).lapDone && 1 ≤ (op.die die).phase && (op.lapNow die).isSome) with
  | none => .next s
  | some i =>
    let op := s.op i
    match op.lapNow die with
    | none => .next s
    | some (lap, k, size) =>
      let n := op.active.length
      let prev := op.die (ringPrev op.active die)
      let mine := op.die die
      let lapNo := mine.lapStep / lapSteps n
      let ready := if k = 0 then decide (lapNo = 0) || (prev.sentBy (lapNo * lapSteps n) s.cycle && mine.sentBy (lapNo * lapSteps n) s.cycle)
        else prev.sentBy mine.lapStep s.cycle
      if !ready then .next s
      else
        let pos := ringPos op.active die
        let succ := ringNext op.active die
        let sh := shardOf lap.z size ((pos + n - k) % n)
        let s1 := if k = 0 then
            let own := shardOf lap.z size pos
            s.lapCopy i die die lap.src (lap.dst + own.1) own.2
          else s
        let sent := if n ≤ 1 then 0 else sh.2
        let s2 := if n ≤ 1 then s1 else s1.lapCopy i die succ (if k = 0 then lap.src else lap.dst + sh.1) (lap.dst + sh.1) sh.2
        let path := route op.active die succ
        let beats := ceilDiv sent 64
        let s3 := s2.countBeats beats path.1.length (ceilDiv beats 64) path.2
        let due := s.cycle + ceilDiv size 448 + (if n ≤ 1 then 0 else 12 * ringHops op.active)
        .next ((s3.bump 0x71500A sent).onOp i fun op =>
          op.putDie die { op.die die with lapStep := (op.die die).lapStep + 1, lapDue := (op.die die).lapDue ++ [due] }).settle

/-- The laps complete on a die: every shard is sent and received (R179, R180). An arrival they delayed is raised, and the
cycles of the delay are counted. -/
def execLapComplete (die : Nat) (s : State) : Out :=
  match s.findOp (fun op => op.active.contains die && !(op.die die).lapDone && 1 ≤ (op.die die).phase) with
  | none => .next s
  | some i =>
    let op := s.op i
    let total := (match op.plan with
      | some pl => pl.laps.length
      | none => 0) * lapSteps op.active.length
    let prev := op.die (ringPrev op.active die)
    let mine := op.die die
    if !(mine.sentBy total s.cycle && prev.sentBy total s.cycle) then .next s
    else
      let s1 := s.onOp i fun op => op.putDie die { op.die die with lapDone := true }
      match mine.expiredAt with
      | some c =>
        if mine.stage = .running then .next ((s1.bump 0x71500B (s.cycle - c)).arrive i die) else .next s1
      | none => .next s1

/-! ## Collector slots -/

/-- The port of a die in a direction (R17, R19). -/
def dirPort : Dir → Nat
  | .north => 0
  | .east => 1
  | .south => 2
  | .west => 3
  | .localPort => 4

/-- The collector slot that a die's port takes now: the first of the plan's that is not taken, whose link is the port's and whose
cycle of the collection phase has come (R119, R270). -/
def OpCtx.slotNow (op : OpCtx) (die port : Nat) : Option Nat :=
  match op.plan with
  | none => none
  | some pl =>
    if op.active.contains die ∧ (op.die die).stage = .running ∧ (op.die die).phase = op.phases then
      (List.range pl.collLinks.length).find? fun k =>
        let l := pl.collLinks.getD k (0, 0, 0)
        !op.slotsUsed.contains k && decide (l.1 = die) && decide (neighbour die port = some l.2.1) && decide (l.2.2 ≤ (op.die die).ran)
    else none

/-- A collector slot takes its link direction in its bound cycles: they are reserved, the holder pauses, and the slot counts (R119,
R131, R270). -/
def execCollectorSlot (die : Nat) (dir : Dir) (s : State) : Out :=
  match s.findOp (fun op => (op.slotNow die (dirPort dir)).isSome) with
  | none => .next s
  | some i =>
    if s.held die then .next s
    else
      let s1 := { s with net := { s.net with reserved := s.net.reserved.set (die * 4 + dirPort dir) (s.cycle + 4) 0 } }
      .next (((s1.bump 0x713004 1).countBeats slotBeats 1 0 false).onOp i fun op =>
        { op with slotsUsed := op.slotsUsed ++ [(op.slotNow die (dirPort dir)).getD 0],
                  counts := { op.counts with collSlots := op.counts.collSlots + 1 } })

end Sys2Proof.Machine
end

