-- ==== Sys2Proof/Machine/Hbm.lean ====
section
/-! DEFINITION. The HBM controllers: reads on the fixed-latency path, writes, write-backs, refresh and patrol scrub (R196 to
R208), and the holds of a die (R172, R173). -/

namespace Sys2Proof.Machine

/-! ## What a decode finds and where it counts -/

/-- A TAG as read with the errors of its two bytes, which follow the 72 symbols of the code (R203). -/
def tagRead (tag : U16) (err : List (Nat × Byte)) : U16 :=
  err.foldl (fun t e =>
    if e.1 = 72 then t ^^^ BitVec.setWidth 16 e.2 else if e.1 = 73 then t ^^^ BitVec.ofNat 16 (e.2.toNat * 256) else t) tag

/-- The counts of a read's record changed: those of the operation in whose phases an engine reads, or of a thread's
command (R216, R244). -/
def State.onRecord (s : State) (rq : Requester) (f : Counts → Counts) : State :=
  match rq with
  | .engine die _ =>
    match s.opBusy die with
    | some i => s.opCount i f
    | none => s
  | .stream eng thr =>
    let t := s.thread eng thr
    if t.mode = .running then s.putThread eng thr { t with counts := f t.counts } else s
  | .hub => s
  | .remote _ => s

/-- The TAG of the operation or command that made a read (R413 class 0). -/
def State.readerTag (s : State) (rq : Requester) : Nat :=
  match rq with
  | .engine die _ =>
    match s.opBusy die with
    | some i => (s.op i).od.tag
    | none => 0
  | .stream eng thr => (s.thread eng thr).tag
  | .hub => 0
  | .remote _ => 0

/-- The stack channel of an offset in a die's half: the die in the lower row has channels 16 to 31 (R196). -/
def stackChannel (die off : Nat) : Nat := hbmChannel off + (if die / 5 % 2 = 1 then 16 else 0)

/-- The line found uncorrectable is to be written back poisoned, as it was read (R207). -/
def State.oweWriteback (s : State) (line : Nat) (d : Decoded) : State :=
  { s with mem := { s.mem with writeback := s.mem.writeback.set line (d.rawData ++ d.rawDiff) [] } }

/-- A 3- or 4-symbol correction of a stack or channel counted for the day (R398). -/
def State.noteWear (s : State) (unit : Nat) : State :=
  { s with isl := { s.isl with wear := { s.isl.wear with today := s.isl.wear.today.set unit (s.isl.wear.today.get unit 0 + 1) 0 } } }

/-! ## Reads -/

/-- The channel of a place in HBM or DDR5, among those of the module's controllers: die × 16 + channel, and 320 + channel for DDR5. -/
def Place.channel : Place → Nat
  | .hbm die off => die * 16 + hbmChannel off
  | .tier c _ => 320 + c
  | _ => 0

/-- A channel has accepted a request in this cycle: it takes one at most (R198). -/
def State.channelTaken (s : State) (ch : Nat) : Bool := s.mem.accepted.get ch 0 = s.cycle + 1

/-- The entries of a channel's queue (R198). -/
def State.queueLength (s : State) (ch : Nat) : Nat := (s.mem.queued.get ch []).countP fun c => decide (s.cycle < c)

/-- Whether a channel accepts a request in this cycle: it has accepted none yet, and its queue of 32 entries has room (R198). -/
def State.channelFree (s : State) (ch : Nat) : Bool := !s.channelTaken ch && decide (s.queueLength ch < 32)

/-- A channel accepts a request, which stays in its queue for `n` cycles (R198; see the log). -/
def State.takeChannel (s : State) (ch n : Nat) : State :=
  { s with mem := { s.mem with
    accepted := s.mem.accepted.set ch (s.cycle + 1) 0
    queued := s.mem.queued.set ch (((s.mem.queued.get ch []).filter fun c => decide (s.cycle < c)) ++ [s.cycle + n]) [] } }

/-- The cycles for which a refresh still blocks the bank of a line (R201). -/
def State.refreshDelay (s : State) (addr die off : Nat) : Nat :=
  if s.mem.refresh = [] then 0
  else s.mem.refresh.get ((die * 16 + hbmChannel off) * 64 + Config.hbmBank addr % 64) 0 - s.cycle

/-- A line on its way to a requester, which it reaches after `wait` cycles; the model keeps the last one of each. -/
def State.deliverLine (s : State) (rq : Requester) (wait addr : Nat) (data : List Byte) (poison : Bool) : State :=
  { s with mem := { s.mem with delivered := (s.mem.delivered.filter fun d => d.rq ≠ rq) ++
    [{ rq := rq, arrives := s.cycle + wait, addr := addr, data := data, poison := poison }] } }

/-- A channel accepts a read: the line as every write accepted before left it, to be delivered after the time that a refresh of its bank
adds (R198, R199, R201). -/
def State.acceptRead (s : State) (die off addr : Nat) (rq : Requester) (waited : Nat) (reply : Option (Nat × Nat)) : State :=
  let delay := s.refreshDelay addr die off
  let r : HbmRead := { id := s.mem.nextRead, addr := addr, rq := rq, acceptedAt := s.cycle, waited := waited,
                       delay := delay, data := s.bytesAt (addr / 64 * 64) 64,
                       diff := s.diffAt (addr / 64), tag := s.mem.tag.get (addr / 64) 0, stale := false, reply := reply, result := none }
  let s1 := s.takeChannel (die * 16 + hbmChannel off) (64 + delay)
  { s1 with mem := { s1.mem with reads := s1.mem.reads ++ [r], nextRead := s1.mem.nextRead + 1 } }

/-- A controller port accepts a read into its channel queue (R198). An address where no HBM line lies reads as zeros (R187). -/
def execHbmReadAccept (addr : Nat) (rq : Requester) (waited : Nat) (s : State) : Out :=
  if !s.railsUp then .next s
  else match s.place addr with
  | .hbm die off =>
    if s.channelFree (die * 16 + hbmChannel off) = false then .next s else .next (s.acceptRead die off addr rq waited none)
  | _ => .next ((s.countUnmappedRead).deliverLine rq 0 addr (List.replicate 64 0) false)

/-- The counter of lines found uncorrectable in the memory of a place (R216). -/
def Place.uncorrCounter (p : Place) : Nat := if p.isTier then 0x71600D else 0x716003

/-- The error record of a line found uncorrectable: HBM or DDR5, the die and the channel (R413 class 0). -/
def State.uncorrRecord (s : State) (p : Place) (data : List Byte) : State :=
  match p with
  | .hbm die off => s.event 0 1 die (stackChannel die off) data
  | .tier c _ => s.event 0 2 (22 + c / 4) (c % 4) data
  | _ => s

/-- What the decode of a line counts, records and starts (R199, R205, R207, R212): the tag first, then an uncorrectable line. The
poison write-back is owed unless a write to the line has been accepted since the read. -/
def State.lineDecoded (s : State) (p : Place) (addr : Nat) (rq : Requester) (tag : U16) (d : Decoded) (stale : Bool) : State :=
  let s1 := if tag ≠ 0 ∧ tag ≠ 0xFFFF then s.bump 0x71600F 1 else s
  if tagPoisoned tag then (s1.bump 0x716004 1).onRecord rq fun c => { c with poisonRd := c.poisonRd + 1 }
  else match d.changed with
    | none =>
      let s2 := (s1.bump p.uncorrCounter 1).onRecord rq fun c => { c with uncorr := c.uncorr + 1 }
      (if stale then s2 else s2.oweWriteback (addr / 64) d).uncorrRecord p (leBytes 8 addr ++ leBytes 4 (s.readerTag rq))
    | some _ => s1

/-- A correction of `n` symbols counted (R205, R216, R398). -/
def State.countCorrection (s : State) (p : Place) (n : Nat) : State :=
  match p with
  | .hbm die _ => if n = 0 then s else if n ≤ 2 then s.bump 0x716001 1 else (s.bump 0x716002 1).noteWear (dieStack die)
  | .tier c _ => if n = 0 then s else if n ≤ 2 then s.bump 0x71600B 1 else (s.bump 0x71600C 1).noteWear (10 + c)
  | _ => s

/-- Syndromes and tag of a read are decoded 72 cycles after its acceptance: a correction of 3 symbols, or of 4 in strong
mode, raises the ECC hold of the owning die (R172, R199, R200, R205). -/
def execHbmReadDecode (id : Nat) (err : List (Nat × Byte)) (s : State) : Out :=
  match s.mem.reads.find? (fun r => r.id = id) with
  | none => .next s
  | some r =>
    match s.place r.addr with
    | .hbm die off =>
      if r.result.isSome ∨ s.cycle < r.acceptedAt + 72 + r.delay then .next s
      else
        let d := decodeWord (s.radius (.hbm die off)) r.data r.diff err
        let tag := tagRead r.tag err
        let n := d.changed.getD 0
        let poison := tagPoisoned tag || d.changed.isNone
        let s1 : State := { s with mem := { s.mem with reads := s.mem.reads.map fun x =>
          if x.id = id then { x with result := some (d.data, poison, n) } else x } }
        let s2 := s1.lineDecoded (.hbm die off) r.addr r.rq tag d r.stale
        .next (if 3 ≤ n then s2.eccHold die else s2)
    | _ => .next { s with mem := { s.mem with reads := s.mem.reads.filter fun x => x.id ≠ id } }

/-- The line is delivered at cycle 84, or at 92 after a correction of 3 or 4 symbols, with its marker; the correction and
a late delivery count (R199, R201, R205). A line read for another die goes on its way as a response (R253). -/
def execHbmReadDeliver (id : Nat) (s : State) : Out :=
  match s.mem.reads.find? (fun r => r.id = id) with
  | none => .next s
  | some r =>
    match r.result with
    | none => .next s
    | some (data, poison, n) =>
      if s.cycle < r.acceptedAt + (if 3 ≤ n then 92 else 84) + r.delay then .next s
      else
        let s1 : State := { s with mem := { s.mem with reads := s.mem.reads.filter fun x => x.id ≠ id } }
        let s2 := s1.countCorrection (.hbm (r.addr / 0x800000000) (r.addr % 0x800000000)) n
        let late := r.waited + r.delay
        let s3 := if late = 0 then s2 else (s2.bump 0x716005 1).bump 0x716006 late
        let s4 := s3.deliverLine r.rq 0 r.addr data poison
        .next (match r.reply with
          | some x => s4.owe { die := r.addr / 0x800000000, due := s.cycle, dst := x.1, prio := x.2, addr := r.addr, beat := { data := data, poison := poison } }
          | none => s4)

/-! ## Holds -/

/-- A die that nothing holds any longer goes on from a barrier whose release it has (R174). -/
def State.resumeDie (s : State) (die : Nat) : State :=
  match s.opAt die .arrived with
  | none => s
  | some i => (s.proceed i die).settle

/-- An ECC hold has ended, 8 cycles after the latest request (R172). -/
def execHoldEnd (die : Nat) (s : State) : Out :=
  if s.cycle < (s.hold die).eccUntil then .next s
  else .next ((s.putHold die { s.hold die with eccFrom := 0, eccUntil := 0 }).resumeDie die)

/-- A line that a die's scoreboard marks pending (R228). -/
def State.linePending (s : State) (die line : Nat) : Bool := s.streams.board.any fun m => decide (m.key / 64 = die) && decide (m.line = line)

/-- A unit reaches its scheduled cycle for an operand that is not in place (R173); a line of the die's scratchpad that it reads holds it
while the line is pending (R228). -/
def execSupplyHoldStart (h : HoldStart) (s : State) : Out :=
  if (s.opBusy h.die).isNone then .next s
  else match h.line with
    | none => .next (s.supplyHold h.die)
    | some l =>
      if s.linePending h.die l then
        let s1 := s.supplyHold h.die
        .next (s1.putHold h.die { s1.hold h.die with awaits := l :: (s1.hold h.die).awaits })
      else .next s

/-- The operand arrives, and the supply hold ends; one for pending lines stands until their marks are clear (R173, R228). -/
def execSupplyHoldEnd (die : Nat) (s : State) : Out :=
  if (s.hold die).awaits.any fun l => s.linePending die l then .next s
  else .next ((s.putHold die { s.hold die with supply := false, awaits := [] }).resumeDie die)

/-! ## Writes -/

/-- A whole line is written; the tag takes the marker of the data (R207). An address where no HBM line lies is not
written (R187). -/
def execHbmWriteAccept (addr : Nat) (data : List Byte) (poison : Bool) (s : State) : Out :=
  if !s.railsUp then .next s
  else match s.place addr with
  | .hbm die off =>
    let ch := die * 16 + hbmChannel off
    if s.channelFree ch = false then .next s
    else .next ((s.takeChannel ch 64).writeLine (addr / 64 * 64) allBytes (fit 64 data) poison).settle
  | _ => .next s.countUnmappedWrite

/-- The 64 byte enables of a mask: bit i for byte i. -/
def enableBits (m : U64) : List Bool := (List.range 64).map fun i => bit m.toNat i

/-- The read, merge and write of a line (R202): the line read counts as any other read does but raises no hold; read uncorrectable
or with a poison tag it stays poisoned, with fresh check bytes. -/
def State.mergeLine (s : State) (p : Place) (l : Nat) (enable : U64) (data : List Byte) (poison : Bool) (rq : Requester)
    (err : List (Nat × Byte)) : State :=
  let d := decodeWord (s.radius p) (s.bytesAt (l * 64) 64) (s.diffAt l) err
  let tag := tagRead (s.mem.tag.get l 0) err
  let bad := tagPoisoned tag || d.changed.isNone || poison
  let s1 := (s.lineDecoded p (l * 64) rq tag d true).countCorrection p (d.changed.getD 0)
  let s2 := (((s1.dropWritebacks l).putBytes (l * 64) allBytes d.data).putBytes (l * 64) (enableBits enable) (fit 64 data)).putDiff l []
  ((s2.putTag l (tagOf bad)).bump 0x716007 1).capture (l * 64) bad

/-- A write that enables fewer than 64 bytes of an HBM or DDR5 line; it takes two line times of its channel (R202). -/
def execReadModifyWrite (addr : Nat) (enable : U64) (data : List Byte) (poison : Bool) (r : MergeRead) (s : State) : Out :=
  if !s.railsUp then .next s
  else match s.place addr with
  | .hbm die off =>
    let ch := die * 16 + hbmChannel off
    if s.channelFree ch = false then .next s
    else .next ((s.takeChannel ch 128).mergeLine (.hbm die off) (addr / 64) enable data poison r.rq r.err).settle
  | .tier c off =>
    if s.channelTaken (320 + c) then .next s
    else .next ((s.takeChannel (320 + c) 1).mergeLine (.tier c off) (addr / 64) enable data poison r.rq r.err).settle
  | _ => .next s.countUnmappedWrite

/-- A line found uncorrectable is written back with TAG 0xFFFF and its data and check bytes as read (R207). -/
def execPoisonWriteback (addr : Nat) (s : State) : Out :=
  let l := addr / 64
  match s.mem.writeback.get l [] with
  | [] => .next s
  | raw =>
    let s1 : State := { s with mem := { s.mem with writeback := s.mem.writeback.erase l } }
    .next ((((s1.putBytes (l * 64) allBytes (raw.take 64)).putDiff l (fit 8 (raw.drop 64))).putTag l 0xFFFF).capture (l * 64) true).settle

/-! ## Refresh and scrub -/

/-- A per-bank refresh blocks its bank for at most 280 cycles (R201). -/
def execHbmRefresh (die channel bank cycles : Nat) (s : State) : Out :=
  if !s.railsUp ∨ s.gone die then .next s
  else .next { s with mem := { s.mem with
    refresh := s.mem.refresh.set ((die * 16 + channel) * 64 + bank) (s.cycle + min cycles 280) 0 } }

/-- A patrol read's result: a corrected line is to be written back with its tag unchanged, an uncorrectable one with TAG
0xFFFF (R208). -/
def State.oweScrub (s : State) (line : Nat) (tag : U16) (d : Decoded) : State :=
  match d.changed with
  | none =>
    if tagPoisoned tag then s
    else { s with mem := { s.mem with scrub := s.mem.scrub.set line (d.rawData ++ d.rawDiff, true) ([], false) } }
  | some 0 => s
  | some _ => { s with mem := { s.mem with scrub := s.mem.scrub.set line (d.data ++ List.replicate 8 0, false) ([], false) } }

/-- A patrol read of a line: what it finds counts like any other read's, without a hold, and its write-back is the scrub's own (R200,
R208). -/
def State.scrubLine (s : State) (p : Place) (l : Nat) (err : List (Nat × Byte)) : State :=
  let d := decodeWord (s.radius p) (s.bytesAt (l * 64) 64) (s.diffAt l) err
  let tag := tagRead (s.mem.tag.get l 0) err
  (((s.bump 0x716010 1).lineDecoded p (l * 64) .hub tag d true).countCorrection p (d.changed.getD 0)).oweScrub l tag d

/-- The patrol scrubber reads a line in a cycle in which its channel has no queued request; a period of 0 stops it (R208). -/
def execPatrolScrubRead (addr : Nat) (err : List (Nat × Byte)) (s : State) : Out :=
  if !s.railsUp then .next s
  else match s.place addr with
    | .hbm die off =>
      let ch := die * 16 + hbmChannel off
      if s.get 0x400003 = 0 ∨ s.channelTaken ch ∨ s.queueLength ch ≠ 0 then .next s else .next (s.scrubLine (.hbm die off) (addr / 64) err)
    | .tier c off =>
      if s.get 0x400004 = 0 ∨ s.channelTaken (320 + c) then .next s else .next (s.scrubLine (.tier c off) (addr / 64) err)
    | _ => .next s

/-- The write-back of a scrub read, where no write to the line has cancelled it (R208). -/
def execScrubWriteback (addr : Nat) (s : State) : Out :=
  let l := addr / 64
  match s.mem.scrub.get l ([], false) with
  | ([], _) => .next s
  | (raw, bad) =>
    let tag := if bad then 0xFFFF else s.mem.tag.get l 0
    let s1 : State := { s with mem := { s.mem with scrub := s.mem.scrub.erase l } }
    .next ((((s1.putBytes (l * 64) allBytes (raw.take 64)).putDiff l (fit 8 (raw.drop 64))).putTag l tag).capture (l * 64)
      (tagPoisoned tag)).settle

end Sys2Proof.Machine
end

