-- ==== Sys2Proof/Machine/Tier.lean ====
section
/-! DEFINITION. The scratchpad banks (R191 to R194), the DDR5 tier (R209 to R214), the decoder modes (R206), the fills at
power-up (R197, R210) and the task windows (R189). -/

namespace Sys2Proof.Machine

/-! ## The DDR5 tier -/

/-- A tier die reads a DDR5 line and decodes it: no fixed latency and no hold (R205, R207, R212). -/
def execTierRead (addr : Nat) (rq : Requester) (err : List (Nat × Byte)) (s : State) : Out :=
  if !s.railsUp then .next s
  else match s.place addr with
  | .tier c off =>
    if s.channelTaken (320 + c) then .next s
    else
      let l := addr / 64
      let p := Place.tier c off
      let d := decodeWord (s.radius p) (s.bytesAt (l * 64) 64) (s.diffAt l) err
      let tag := tagRead (s.mem.tag.get l 0) err
      let s1 := ((s.takeChannel (320 + c) 1).lineDecoded p (l * 64) rq tag d false).countCorrection p (d.changed.getD 0)
      .next (s1.deliverLine rq 0 addr d.data (tagPoisoned tag || d.changed.isNone))
  | _ => .next ((s.countUnmappedRead).deliverLine rq 0 addr (List.replicate 64 0) false)

/-- A tier die writes a DDR5 line with fresh check bytes and the marker of the data (R203, R207). -/
def execTierWrite (addr : Nat) (data : List Byte) (poison : Bool) (s : State) : Out :=
  if !s.railsUp then .next s
  else match s.place addr with
  | .tier c _ =>
    if s.channelTaken (320 + c) then .next s
    else .next ((s.takeChannel (320 + c) 1).writeLine (addr / 64 * 64) allBytes (fit 64 data) poison).settle
  | _ => .next s.countUnmappedWrite

/-! ## Scratchpads -/

/-- A line as eight 64-bit words, and back. -/
def lineWords (l : List Byte) : List U64 := (List.range 8).map fun i => BitVec.ofNat 64 (field l (8 * i) 8)

/-- The bytes of eight words. -/
def wordsLine (ws : List U64) : List Byte := ws.flatMap fun w => leBytes 8 w.toNat

/-- A bank has performed an access in this cycle (R191). -/
def State.bankTaken (s : State) (die bank : Nat) : Bool := s.mem.spBusy.get (die * 64 + bank) 0 = s.cycle + 1

/-- A bank performs its access of this cycle. -/
def State.takeBank (s : State) (die bank : Nat) : State :=
  { s with mem := { s.mem with spBusy := s.mem.spBusy.set (die * 64 + bank) (s.cycle + 1) 0 } }

/-- One granted access of a line of a bank: a read with the errors found in its words, whose data reaches the requester 3 cycles
later, or a write under byte enables with its parity checked (R191, R192, R403). A fenced die's bank and one that is gated or filling
perform nothing (R187, R193). -/
def State.bankAccess (s : State) (rq : Requester) (die o : Nat) (wr : Option SpWrite) (errs : List WordErr) (parity : Bool) : State :=
  let a := scratchAddr die o
  if s.fenced die then
    match wr with
    | some _ => s.countUnmappedWrite
    | none => s.countUnmappedRead.deliverLine rq 3 a (List.replicate 64 0) false
  else if s.bankAwake die (spBank o) = false then
    match wr with
    | some _ => s.bump 0x716008 1
    | none => (s.bump 0x716008 1).deliverLine rq 3 a (List.replicate 64 0) false
  else
    let s0 := s.takeBank die (spBank o)
    match wr with
    | some w =>
      let s1 := if parity then s0.parityError die 1 a else s0
      s1.writeLine a (enableBits w.enable) (fit 64 w.data) (w.poison || parity)
    | none =>
      let rd := wordsRead (lineWords (s0.bytesAt a 64)) errs
      let s1 := s0.countWords rd.2.1 rd.2.2
      let s2 := if rd.2.2 then s1.putFlag (a / 64) true else s1
      s2.deliverLine rq 3 a (wordsLine rd.1) (majority (s0.mem.spFlag.get (a / 64) 0) || rd.2.2)

/-- A scratchpad bank grants an access of a line, at most one in a cycle (R191). -/
def execScratchpadAccess (die off : Nat) (wr : Option SpWrite) (errs : List WordErr) (parity : Bool) (s : State) : Out :=
  let o := off % 0x2000000 / 64 * 64
  if !s.railsUp ∨ s.bankTaken die (spBank o) then .next s
  else .next (s.bankAccess (.engine die 40) die o wr errs parity)

/-- A write of a die's bank enable mask: it takes effect at the close of the operation in progress, or at once where none
is; a die that is powered down takes it at power-up (R193, R346). -/
def State.writeSpEnable (s : State) (die : Nat) (mask : U64) : State :=
  let s1 := s.put (0x402001 + die) mask.toNat
  if !s.railsUp then s1
  else if s.arr.ops.any OpCtx.inProgress then { s1 with mem := { s1.mem with spPending := SMap.insert s1.mem.spPending die mask } }
  else s1.applyBanks die mask

/-- A write to 4020 (R193). -/
def execSpEnableWrite (die : Nat) (mask : U64) (s : State) : Out :=
  s.objectWritten fun s => s.writeSpEnable die mask

/-- The readiness bit of a compute die where its banks are filled (R394). -/
def State.readyDie (s : State) (die : Nat) : State :=
  if s.railsUp ∧ !s.fenced die ∧ s.get (0x402001 + die) = s.get (0x402201 + die) then s.setReady [(24 + die, true)] else s

/-- A bank completes its fill of clean zero lines 8,392 cycles after it was enabled (R193). -/
def execSpBankFillDone (die bank : Nat) (s : State) : Out :=
  match s.mem.spFill.get (die * 64 + bank) 0 with
  | 0 => .next s
  | c + 1 =>
    if s.cycle < c + 8392 then .next s
    else
      let s1 : State := { s with mem := { s.mem with spFill := s.mem.spFill.erase (die * 64 + bank) } }
      .next ((s1.put (0x402201 + die) (maskOf 64 fun b => decide (b = bank) || s.bankAwake die b)).readyDie die)

/-! ## Modes -/

/-- A write of HBM_ECC_MODE: on each die at the close of the operation in progress, or at once (R206). -/
def State.writeHbmMode (s : State) (v : Byte) : State :=
  let s1 := s.put 0x400001 v.toNat
  if s.arr.ops.any OpCtx.inProgress then { s1 with mem := { s1.mem with eccPending := true } }
  else (List.range 20).foldl (fun s d =>
    { s with mem := { s.mem with eccMode := s.mem.eccMode.set d (if v = 1 then 1 else 0) 0 } }) s1

/-- A write to 4000:01 (R206). -/
def execHbmEccModeWrite (v : Byte) (s : State) : Out := s.objectWritten fun s => s.writeHbmMode v

/-- A write to 4000:02: from the next line each tier die reads (R206). -/
def State.writeDdrMode (s : State) (v : Byte) : State := s.put 0x400002 v.toNat

/-- A write to 4000:02 (R206). -/
def execDdrEccModeWrite (v : Byte) (s : State) : Out := s.objectWritten fun s => s.writeDdrMode v

/-! ## Fills -/

/-- An HBM controller has filled its half; the stack's bit sets once the halves of its active dies are filled (R197,
R394). -/
def execHbmFillDone (die : Nat) (s : State) : Out :=
  if !s.railsUp ∨ s.gone die ∨ bit s.mem.filled.toNat die then .next s
  else
    let filled := s.mem.filled.toNat + 2 ^ die
    let s1 : State := { s with mem := { s.mem with filled := BitVec.ofNat 20 filled } }
    let k := dieStack die
    if (stackDies k).all fun d => s.gone d || bit filled d then .next (s1.setReady [(14 + k, true)]) else .next s1

/-- A channel report with another STATE. -/
def State.putDdrState (s : State) (c st : Nat) : State :=
  let v := s.get (0x404001 + c)
  s.put (0x404001 + c) (v % 2 ^ 24 + st * 2 ^ 24)

/-- Channels shown as interleaved: bit 1 of their objects (R214). -/
def State.markInterleaved (s : State) (l : List Nat) : State :=
  l.foldl (fun s c => s.put (0x404001 + c) (s.get (0x404001 + c) / 4 * 4 + 2 + s.get (0x404001 + c) % 2)) s

/-- The layout of tier die `k`, chosen where none of its channels is still coming up: interleaved unless TIER_MAP asks for the linear
one, other values reading as 0 (R211, R215). -/
def State.chooseLayout (s : State) (k : Nat) : State :=
  if ((List.range 4).map fun i => 4 * k + i).any fun c => s.ddrState c = 1 ∨ s.ddrState c = 2 then s
  else
    let ready := s.readyChannels k
    let cap := s.tierCap (ready.headD 0)
    let il := s.mem.tierMap.get k 0 ≠ 1 ∧ (ready.length = 2 ∨ ready.length = 4) ∧ ready.all fun c => s.tierCap c = cap
    let s1 : State := { s with mem := { s.mem with
      tier := s.mem.tier.set k { interleaved := decide il, channels := ready } { interleaved := false, channels := [] } } }
    if il then s1.markInterleaved ready else s1

/-- A DDR5 channel completes its fill: STATE 3, its readiness bit, and after the die's last fitted channel the layout (R210,
R211). -/
def execDdrFillDone (channel : Nat) (s : State) : Out :=
  if !s.railsUp ∨ s.ddrState channel ≠ 2 ∨ s.fenced (22 + channel / 4) then .next s
  else .next (((s.putDdrState channel 3).setReady [(44 + channel, true)]).chooseLayout (channel / 4))

/-! ## Task windows -/

/-- Whether an operation of a task has been issued and has not completed (R189). -/
def State.taskBusy (s : State) (t : Nat) : Bool := s.arr.ops.any fun op => op.od.task % 256 = t

/-- The width in bits of a field of a window record (R189). -/
def windowBits (fld : Nat) : Nat := if fld ≤ 2 then 64 else if fld ≤ 4 then 32 else 16

/-- A write to a task's window record, refused in state with state 6 while the task is busy (R189, R350): the state, and
the refusal. -/
def State.writeWindow (s : State) (t fld v : Nat) : State × Bool :=
  if s.taskBusy t then (s.bump 0x717005 1, true)
  else (s.put ((0x4100 + t) * 256 + fld) (v % 2 ^ windowBits fld), false)

/-- A write to a task's window record (R189). -/
def execTaskWindowWrite (task fld : Nat) (v : U64) (s : State) : Out :=
  s.objectWritten fun s => (s.writeWindow task fld v.toNat).1

end Sys2Proof.Machine
end

