-- ==== Sys2Proof/Machine/Hub.lean ====
section
/-! DEFINITION. The hub complex: fabric send slots (R313), the endpoint's BARs and windows (R320 to R325, R430, R433), the root
ports (R326, R432), interrupt vectors (R316, R317), the watchdog (R319) and load faults (R315). -/

namespace Sys2Proof.Machine

/-- The endpoint replaced. -/
def State.putEp (s : State) (e : Endpoint) : State := { s with hub := { s.hub with ep := e } }

/-- A completion returned to the front-end or to a device: data, EP, Unsupported Request; the model keeps the last 16. -/
def State.completion (s : State) (data : List Byte) (ep ur : Bool) : State :=
  { s with hub := { s.hub with completions := ((data, ep, ur) :: s.hub.completions).take 16 } }

/-! ## Send slots -/

/-- DOORBELL of a send slot written: the message it describes is sent with a fresh TXTAG (R313). -/
def execSendSlotDoorbell (slot : Nat) (f : SlotFields) (s : State) : Out :=
  let x := s.slot slot
  if !s.railsUp ∨ x.doorbell = 1 then .next s
  else if f.mtype < 3 ∨ 5 < f.mtype then .next (s.putSlot slot { x with doorbell := 3 })
  else
    let t := s.takeTag
    let dst := f.dst % 4096
    let n := min (f.len % 65536) ((msgLimit f.mtype).getD 0)
    let m : Msg := { mtype := f.mtype, dn := false, poison := [], dst := dst, src := s.devId, len := n,
                     addr := if f.mtype = 5 ∧ dst = 0xFFF then f.route % 2 ^ 52 else 0, txtag := t.1, hops := 0,
                     arg := if f.mtype = 5 ∧ dst ≠ 0xFFF then 0 else f.arg, data := fit n f.data }
    let y : SendSlot := { doorbell := 1, mtype := f.mtype, result := x.result, rsp := x.rsp, txtag := t.1, sentAt := s.tick }
    .next ((t.2.putSlot slot y).sendMsg m).settle

/-- No reply to an FMP message has arrived 1 ms after the send (R313). -/
def execSendSlotTimeout (slot : Nat) (s : State) : Out :=
  let x := s.slot slot
  if x.doorbell ≠ 1 ∨ x.mtype ≠ 5 ∨ s.tick < x.sentAt + 12500 then .next s
  else .next (s.putSlot slot { x with doorbell := 3, result := 0 })

/-! ## BAR0 -/

/-- What lies at a place of the first 16 MiB of the hub complex range (R310); a part that its table does not list is unmapped. -/
inductive HubPart where
  | context (ring off : Nat)
  | push (ring off : Nat)
  | pop (ring off : Nat)
  | sync (obj off : Nat)
  | lace (eng k off : Nat)
  | vector (v off : Nat)
  | none
deriving DecidableEq, Repr

/-- The part at an offset below 16 MiB (R310). -/
def hubPart (off : Nat) : HubPart :=
  if off < 0x80000 then .context (off / 64) (off % 64)
  else if 0x100000 ≤ off ∧ off < 0x300000 then
    let n := (off - 0x100000) / 256
    if off % 256 < 128 then .push n (off % 128) else .pop n (off % 128)
  else if 0x400000 ≤ off ∧ off < 0x440000 then .sync ((off - 0x400000) / 16) (off % 16)
  else if 0x500000 ≤ off ∧ off < 0x501600 then
    let l := (off - 0x500000) / 16
    .lace (l / 16) (l % 16) (off % 16)
  else if 0x600000 ≤ off ∧ off < 0x610000 then .vector ((off - 0x600000) / 16) (off % 16)
  else .none

/-- Whether the front-end reaches a part through BAR0: ring 0 and objects 0 to 15 are never reached (R322). -/
def State.frontReaches (s : State) (p : HubPart) : Bool :=
  let ringOk := fun n => decide (n ≠ 0) && decide (s.get 0x110101 ≤ n) && decide (n ≤ s.get 0x110102)
  match p with
  | .context n _ => ringOk n
  | .push n _ => ringOk n
  | .pop n _ => ringOk n
  | .sync k _ => decide (16 ≤ k) && decide (s.get 0x110103 ≤ k) && decide (k ≤ s.get 0x110104)
  | _ => false

/-- The part that a BAR0 access reaches, none where it is denied (R322). -/
def State.bar0Target (s : State) (off : Nat) : HubPart := if s.frontReaches (hubPart off) then hubPart off else .none

/-- A write of 4 or 8 bytes into a ring's context (R235). -/
def State.contextWrite (s : State) (n off len v : Nat) : State :=
  let r := s.ring n
  let half := fun (x : Nat) => if len = 8 then v else if off % 8 = 0 then x / 2 ^ 32 * 2 ^ 32 + v % 2 ^ 32 else x % 2 ^ 32 + v % 2 ^ 32 * 2 ^ 32
  match off with
  | 0x00 => s.ringField n .base (half r.base.toNat)
  | 0x04 => s.ringField n .base (half r.base.toNat)
  | 0x08 =>
    let s1 := ((s.ringField n .type (v % 256)).ringField n .order (v / 2 ^ 8 % 256)).ringField n .esize (v / 2 ^ 16 % 256)
    if len = 8 then (s1.ringField n .sync (v / 2 ^ 32 % 2 ^ 16)).ringField n .irq (v / 2 ^ 48) else s1
  | 0x0C => (s.ringField n .sync (v % 2 ^ 16)).ringField n .irq (v / 2 ^ 16 % 2 ^ 16)
  | 0x10 => s.ringIndex n .pi (BitVec.ofNat 32 v)
  | 0x18 => s.ringIndex n .ci (BitVec.ofNat 32 v)
  | 0x20 => s.ringField n .status (v % 2 ^ 32)
  | _ => s

/-- A read of a POP window: one at its start pops the entry, and the others show the rest of the entry popped last (see the
log; R239). -/
def State.popRead (s : State) (n off len : Nat) : List Byte × State :=
  if off = 0 then
    let x := s.ringPop n
    (slice x.1 0 len, x.2)
  else (slice (fit 128 (s.ring n).lastPop) off len, s)

/-- The 16 bytes of a vector's entry (R316). -/
def vectorBytes (e : Vector) : List Byte :=
  leBytes 1 (e.dest.toNat % 4) ++ leBytes 1 (e.core.toNat % 16) ++ leBytes 2 (e.eiid.toNat % 2048) ++ leBytes 2 (e.msix.toNat % 2048) ++
    leBytes 1 (if e.pend then 1 else 0) ++ List.replicate 9 0

/-- A write of 4 or 8 bytes into a vector's entry: PEND and the reserved bits ignore it (R7, R316). -/
def Vector.write (e : Vector) (off len v : Nat) : Vector :=
  let low := fun (e : Vector) => { e with dest := BitVec.ofNat 8 (v % 4), core := BitVec.ofNat 8 (v / 2 ^ 8 % 16), eiid := BitVec.ofNat 16 (v / 2 ^ 16 % 2048) }
  if off = 0 then (if len = 8 then { low e with msix := BitVec.ofNat 16 (v / 2 ^ 32 % 2048) } else low e)
  else if off = 4 then { e with msix := BitVec.ofNat 16 (v % 2048) }
  else e

/-- An access to the first 16 MiB that is not naturally aligned or not of 4 or 8 bytes (R311). -/
def badWindow (off len : Nat) : Bool := !(decide (len = 4) || decide (len = 8)) || decide (off % len ≠ 0)

/-- An aligned access of 4 or 8 bytes to a part of the first 16 MiB by a hub core or the endpoint: what it reads, and the state (R310). -/
def State.windowAccess (s : State) (w : RingWriter) (p : HubPart) (len : Nat) (wr : Option U64) : List Byte × State :=
  let zero := List.replicate len 0
  match p, wr with
  | .context n o, none =>
    let s1 := if 0x10 ≤ o ∧ o < 0x20 then s.ringCheck n else s
    (slice (ringContext n (s1.ring n)) o len, s1)
  | .context n o, some v => (zero, s.contextWrite n o len v.toNat)
  | .push n o, some v => (zero, s.pushStore w n o len v.toNat)
  | .push _ _, none => (zero, s)
  | .pop n o, none => s.popRead n o len
  | .pop _ _, some _ => (zero, s)
  | .sync k o, none => (slice (leBytes 8 (s.count k) ++ leBytes 8 0) o len, s)
  | .sync k o, some v =>
    let c := s.count k
    let w := v.toNat % 2 ^ (8 * len)
    let set := if len = 8 then w else if o = 0 then c / 2 ^ 32 * 2 ^ 32 + w else c % 2 ^ 32 + w * 2 ^ 32
    (zero, if o < 8 then s.syncSet k set else s.syncWindowAdd k (if o = 12 then w * 2 ^ 32 else w))
  | .lace e k o, none =>
    if o = 0 then
      let x := s.lacePop e k
      (fit len (leBytes 4 x.1.toNat), x.2)
    else (slice (leBytes 8 0 ++ leBytes 8 (laceStatus (s.lace e k))) o len, s)
  | .lace e k o, some v =>
    (zero, if o = 0 then s.lacePush e k (BitVec.ofNat 32 v.toNat) else if o = 8 then s.laceClear e k v.toNat else s)
  | .vector v o, none => (slice (vectorBytes (s.vector v)) o len, s)
  | .vector v o, some x => (zero, s.putVector v ((s.vector v).write o len x.toNat))
  | .none, none => (zero, s.countUnmappedRead)
  | .none, some _ => (zero, s.countUnmappedWrite)

/-- A BAR0 access performed (R311, R322): what it reads, and the state. -/
def State.bar0 (s : State) (off len : Nat) (wr : Option U64) : List Byte × State :=
  let zero := List.replicate len 0
  let s0 := if badWindow off len then s.bump 0x71600E 1 else s
  match s.bar0Target off with
  | .none => (zero, s0.bump 0x71A00A 1)
  | p => if badWindow off len then (zero, s0) else s0.windowAccess .endpoint p len wr

/-- A BAR0 access, with its completion where it reads. -/
def State.serveBar0 (s : State) (off len : Nat) (wr : Option U64) : State :=
  let x := s.bar0 off len wr
  (if wr.isNone then x.2.completion x.1 false false else x.2).settle

/-- A front-end access through BAR0 (R322): it reaches the module only while the link is in DL_Active (R430). -/
def execBar0Access (off len : Nat) (wr : Option U64) (s : State) : Out :=
  if !s.hub.ep.dlActive then .next s else .next (s.access (.bar0 off len wr) fun s => s.serveBar0 off len wr)

/-! ## Inbound windows -/

/-- The physical address at which the inbound windows from index `first` on admit byte `x`: the first whose range holds it and
whose RIGHTS allow the access (R323). -/
def State.inbound (s : State) (first n right x : Nat) : Option Nat :=
  ((List.range n).map fun w => (first + w) * 256).findSome? fun k =>
    let off := s.get (k + 1) / 4096 * 4096
    if off ≤ x ∧ x < off + s.get (k + 2) ∧ bit (s.get (k + 4)) right then
      some ((s.get (k + 3) / 4096 * 4096 + (x - off)) % 2 ^ 52)
    else none

/-- A read through inbound windows: the bytes, whether a line was poisoned, the bytes no window admits, and the counts. -/
def State.inboundRead (s : State) (first n x len : Nat) : List Byte × Bool × Nat × State :=
  let at' := (List.range len).map fun i => s.inbound first n 0 (x + i)
  let lines := dedup (at'.filterMap fun a => a.map fun p => p / 64 * 64)
  let reads := lines.map fun l => (l, s.lineAt l)
  let byte := fun (a : Option Nat) =>
    match a with
    | none => 0
    | some p => match reads.find? fun r => r.1 = p / 64 * 64 with
      | some r => r.2.data.getD (p % 64) 0
      | none => 0
  (at'.map byte, reads.any fun r => r.2.poison, at'.countP Option.isNone, reads.foldl (fun s r => s.countLine r.2) s)

/-- A write through inbound windows: the bytes no window admits, and the state. -/
def State.inboundWrite (s : State) (first n x : Nat) (data : List Byte) (poison : Bool) : Nat × State :=
  let at' := (List.range data.length).map fun i => s.inbound first n 1 (x + i)
  let lines := dedup (at'.filterMap fun a => a.map fun p => p / 64 * 64)
  let put := fun (s : State) (l : Nat) =>
    match s.place l with
    | .unmapped => s.countUnmappedWrite
    | .hub _ => s.countUnmappedWrite
    | _ =>
      let hit := fun j => (List.zip at' data).findSome? fun y => if y.1 = some (l + j) then some y.2 else none
      s.writeLine l ((List.range 64).map fun j => (hit j).isSome) ((List.range 64).map fun j => (hit j).getD 0) poison
  (at'.countP Option.isNone, lines.foldl put s)

/-- A BAR2 access performed (R323): its completion, and the counts of clipped and poisoned accesses. -/
def State.serveBar2 (s : State) (off len : Nat) (wr : Option (List Byte × Bool)) : State :=
  match wr with
  | none =>
    let r := s.inboundRead 0x1110 16 off len
    let s1 := if r.2.2.1 ≠ 0 then r.2.2.2.bump 0x71A001 1 else r.2.2.2
    (if r.2.1 then s1.bump 0x71A003 1 else s1).completion r.1 r.2.1 false
  | some (data, ep) =>
    let w := s.inboundWrite 0x1110 16 off (fit len data) ep
    let s1 := if w.1 ≠ 0 then w.2.bump 0x71A001 1 else w.2
    (if ep then s1.bump 0x71A004 1 else s1).settle

/-- A front-end access through BAR2 (R321, R323): inside the BAR, with the link in DL_Active. -/
def execBar2Access (off len : Nat) (wr : Option (List Byte × Bool)) (s : State) : Out :=
  if !s.hub.ep.dlActive ∨ 2 ^ s.hub.ep.barLog2 < off + len then .next s
  else .next (s.access (.bar2 off len wr) fun s => s.serveBar2 off len wr)

/-- A hub core's access `y` bytes into the outbound window: a memory TLP while the front-end has enabled bus mastering, else a read of zero
or a write dropped (R325). `reply` is what the front-end answers to a read. -/
def State.outbound (s : State) (y len : Nat) (wr : Option (List Byte)) (reply : List Byte) : State :=
  if !s.hub.ep.busMaster then (if wr.isNone then s.returned (List.replicate len 0) else s)
  else
    let a := (s.get 0x110002 / 4096 * 4096 + y) % 2 ^ 64
    let tlp := match wr with
      | some d => (a, fit len d, true)
      | none => (a, [], false)
    let s1 : State := { s with hub := { s.hub with tlps := (tlp :: s.hub.tlps).take 16 } }
    if wr.isNone then s1.returned (fit len reply) else s1

/-- A hub core's access to the configuration or memory space behind a root port: a TLP of that port while its link is in DL_Active; a read
is answered by the device's `reply`, and with the link down by a value the spec does not state (R310, R326). -/
def State.rootAccess (s : State) (q : Nat) (config : Bool) (a len : Nat) (wr : Option (List Byte)) (reply : List Byte) : State :=
  if bit (s.get 0x201001) (4 + q) then
    let tlp : RpTlp := { port := q, config := config, addr := a, data := (wr.map (fit len)).getD [], write := wr.isSome }
    let s1 : State := { s with hub := { s.hub with rpTlps := (tlp :: s.hub.rpTlps).take 16 } }
    if wr.isNone then s1.returned (fit len reply) else s1
  else if wr.isNone then s.draw.2.returned (freeBytes s.draw.1 len)
  else s

/-- A hub core's access to the first 16 MiB (R310, R311): a bad one reads zero, is ignored and counts. -/
def State.serveWindow (s : State) (core off len : Nat) (wr : Option U64) : State :=
  let x := if badWindow off len then (List.replicate len 0, s.bump 0x71600E 1) else s.windowAccess (.core core) (hubPart off) len wr
  (if wr.isNone then x.2.returned x.1 else x.2).settle

/-- A write that wakes the module: to a ring's PUSH window or PI, or to a synchronization object (R379). -/
def windowWakes (off len : Nat) (wr : Option U64) : Bool :=
  wr.isSome && !badWindow off len && match hubPart off with
    | .push _ _ => true
    | .context _ o => decide (o = 0x10)
    | .sync _ _ => true
    | _ => false

/-- A signal to a core's IMSIC or to the front-end; the model keeps the last 16. -/
def State.signal (s : State) (x : Signal) : State := { s with hub := { s.hub with signals := (x :: s.hub.signals).take 16 } }

/-- A device's request performed (R326): one that no window admits completes with Unsupported Request. `msi` names the core and identity
of a write that is an interrupt: it goes to that core's IMSIC. -/
def State.serveRootPort (s : State) (q addr len : Nat) (wr : Option (List Byte)) (msi : Option (Nat × Nat)) : State :=
  let first := 0x1130 + 8 * q
  let right := if wr.isSome then 1 else 0
  if wr.isSome ∧ msi.isSome then (match msi with
    | some x => s.signal (.msi x.1 x.2)
    | none => s)
  else if len ≠ 0 ∧ (List.range len).all (fun i => (s.inbound first 8 right (addr + i)).isNone) then
    (s.bump 0x71A002 1).completion [] false true
  else match wr with
    | none =>
      let r := s.inboundRead first 8 addr len
      (if r.2.1 then r.2.2.2.bump 0x71A003 1 else r.2.2.2).completion r.1 r.2.1 false
    | some data => (s.inboundWrite first 8 addr (fit len data) false).2.settle

/-- A device's request on a root port whose link is in DL_Active (R326). -/
def execRootPortRequest (q addr len : Nat) (ask : DeviceAsk) (s : State) : Out :=
  if bit (s.get 0x201001) (4 + q) = false then .next s
  else .next (s.access (.rootPort q addr len ask.data ask.msi) fun s => s.serveRootPort q addr len ask.data ask.msi)

/-! ## The endpoint's link and function -/

/-- The BAR2 size that 1100:01 asks for (R339). -/
def State.barSize (s : State) : Nat :=
  let v := s.get 0x110001
  if 30 ≤ v ∧ v ≤ 39 then v else 36

/-- PERST_N asserted: the endpoint alone is reset (R430, R433); requests that wait to be performed are discarded. -/
def execPerstNAssert (s : State) : Out :=
  let keep := s.isl.power.heldAcc.filter fun a => match a with
    | .bar0 _ _ _ => false
    | .bar2 _ _ _ => false
    | _ => true
  let s1 := s.putEp { Endpoint.reset with barLog2 := s.barSize }
  .next (({ s1 with isl := { s1.isl with power := { s1.isl.power with heldAcc := keep } },
                    hub := { s1.hub with epPush := [] } }).setReady [(3, false)])

/-- PERST_N deasserted: training begins once the hub rails are up (R430). -/
def execPerstNDeassert (s : State) : Out :=
  .next (s.putEp { s.hub.ep with perst := false, training := s.hub.ep.training || s.railsUp })

/-- The endpoint link reaches DL_Active (R393, R430). -/
def execEndpointLinkUp (s : State) : Out :=
  let e := s.hub.ep
  if !s.railsUp ∨ e.perst ∨ !e.training then .next s
  else .next ((s.putEp { e with dlActive := true, training := false }).setReady [(3, true)])

/-- The endpoint link leaves DL_Active and trains again (R430). -/
def execEndpointLinkDown (s : State) : Out :=
  let e := s.hub.ep
  if !e.dlActive then .next s
  else .next ((s.putEp { e with dlActive := false, training := true }).setReady [(3, false)])

/-- Pending MSI-X messages that nothing holds any longer are sent (R317, R433). -/
def State.sendHeld (s : State) : State :=
  let e := s.hub.ep
  if !e.dlActive ∨ e.d3hot ∨ !e.msixEnable then s
  else
    let go := e.pba.filter fun x => !e.masked.get x.1 false
    let s1 := s.putEp { e with pba := e.pba.filter fun x => e.masked.get x.1 false }
    go.foldl (fun s x => s.signal (.msix x.1)) s1

/-- The function enters D0: WAKE_N is released and held messages are sent (R433). -/
def execEndpointD0Entry (s : State) : Out :=
  if !s.hub.ep.dlActive then .next s
  else .next (s.putEp { s.hub.ep with d3hot := false, wakeN := false }).sendHeld

/-- A configuration write of the front-end (R317, R325, R433). -/
def execEndpointConfigWrite (w : EpCfg) (s : State) : Out :=
  let e := s.hub.ep
  if !e.dlActive then .next s
  else match w with
    | .busMaster on => .next (s.putEp { e with busMaster := on })
    | .pmeEnable on => .next (s.putEp { e with pme := on })
    | .d3hot => .next (s.putEp { e with d3hot := true })
    | .msixEnable on => .next (s.putEp { e with msixEnable := on }).sendHeld
    | .msixMask n on => .next (s.putEp { e with masked := e.masked.set (n % 2048) on false }).sendHeld

/-! ## Root ports -/

/-- The root ports' reset pins as 1120:01 and the references drive them: a reset is released no earlier than 100 µs after the
reference is stable (R432). -/
def State.drivePerst (s : State) : State :=
  let stable := match s.hub.refSince with
    | some t => s.railsUp && decide (t + 1250 ≤ s.tick)
    | none => false
  let pins := maskOf 2 fun q =>
    bit (s.get 0x112001) q && (bit s.hub.rpPerst.toNat q || stable)
  { s with hub := { s.hub with rpPerst := BitVec.ofNat 2 (if s.railsUp then pins else 0) } }

/-- A write of 1120:01 (R432). -/
def State.writeRpPerst (s : State) (v : Nat) : State := (s.put 0x112001 v).drivePerst

/-- A write to 1120:01 (R432). -/
def execRpPerstWrite (v : Byte) (s : State) : Out :=
  s.objectWritten fun s => s.writeRpPerst v.toNat

/-- A root port's link reaches DL_Active once its device's reset is released (R393, R432). -/
def execRootPortLinkUp (q : Nat) (s : State) : Out :=
  if s.railsUp ∧ bit s.hub.rpPerst.toNat q then .next (s.setReady [(4 + q, true)]) else .next s

/-- A root port's link leaves DL_Active (R393). -/
def execRootPortLinkDown (q : Nat) (s : State) : Out := .next (s.setReady [(4 + q, false)])

/-! ## Vectors -/

/-- A vector is raised (R317); an uncorrectable word of its entry sets DEST to 0 first (R405). -/
def execVectorRaise (v : Nat) (ctlErr : Bool) (s : State) : Out :=
  .next (s.access (.vector v) fun s =>
    (if ctlErr then (s.putVector v { s.vector v with dest := 0 }).controlReset 24 4 v else s).raiseVector v)

/-- The MSI-X side of a delivery: discarded outside DL_Active, held where masked, disabled or in D3hot (R317, R430, R433). -/
def State.deliverMsix (s : State) (n : Nat) : State :=
  let e := s.hub.ep
  if !e.dlActive then s.bump 0x71A00B 1
  else if !e.msixEnable ∨ e.masked.get n false ∨ e.d3hot then s.putEp { e with pba := e.pba.set n true false }
  else s.signal (.msix n)

/-- A pending vector is delivered to each destination that DEST names, and PEND clears (R316, R317). -/
def execVectorDeliver (v : Nat) (s : State) : Out :=
  let e := s.vector v
  if !s.railsUp ∨ !e.pend then .next s
  else
    let s1 := s.putVector v { e with pend := false }
    let s2 := if bit e.dest.toNat 0 ∧ e.eiid.toNat % 2048 ≠ 0 then s1.signal (.msi (e.core.toNat % 16) (e.eiid.toNat % 2048)) else s1
    .next (if bit e.dest.toNat 1 then s2.deliverMsix (e.msix.toNat % 2048) else s2)

/-! ## The watchdog -/

/-- A write of WDT_KICK restarts the period and satisfies the watchdog again (R319). -/
def State.kick (s : State) : State :=
  { s with hub := { s.hub with wdtStart := s.tick, wdtHalf := false, wdtExpired := false } }

/-- A write to 2080:02 (R319). -/
def execWdtKick (_ : U32) (s : State) : Out := s.objectWritten State.kick

/-- Half the period has elapsed: vector 3 (R319). -/
def execWdtHalfPeriod (s : State) : Out :=
  let p := s.get 0x208001
  if !s.railsUp ∨ p = 0 ∨ s.hub.wdtHalf ∨ 2 * (s.tick - s.hub.wdtStart) < p then .next s
  else .next (({ s with hub := { s.hub with wdtHalf := true } }).raiseVector 3)

/-- The full period has elapsed: the watchdog is unsatisfied, with its record and count (R319). -/
def execWdtExpire (s : State) : Out :=
  let p := s.get 0x208001
  if !s.railsUp ∨ p = 0 ∨ s.hub.wdtExpired ∨ s.tick < s.hub.wdtStart + p then .next s
  else .next ((({ s with hub := { s.hub with wdtExpired := true } }).bump 0x71A009 1).event 12 1 25 0 (leBytes 4 p))

/-! ## Cores -/

/-- A hub core's load from a poisoned line takes an access fault (R315). -/
def execCorePoisonLoad (core addr : Nat) (s : State) : Out :=
  if !s.railsUp then .next s
  else
    let s1 : State := { s with hub := { s.hub with coreFaults := ((core, addr) :: s.hub.coreFaults).take 16 } }
    .next ((s1.bump 0x71A005 1).event 1 2 24 core (leBytes 8 addr))

end Sys2Proof.Machine
end

