-- ==== Sys2Proof/Machine/Reset.lean ====
section
/-! DEFINITION. The configuration record in use (R334, R335), the removal of the main rails, a module reset (R392) and an island
restart (R331, R390), as shared operations. -/

namespace Sys2Proof.Machine

/-- The bytes of an ASCII string. -/
def ascii (t : String) : List Byte := t.toList.map fun c => BitVec.ofNat 8 c.toNat

/-! ## Configuration records -/

/-- The fields of a record (R334): role 3 and cap 3 read as 0, and reserved bits are ignored (R7). -/
def parseRecord (raw : List Byte) : ConfigRecord :=
  let twin := field raw 0x1F 1
  let cap := field raw 0x1E 1 % 4
  { seq := field raw 8 4, uid := BitVec.ofNat 64 (field raw 0x10 8), fence := BitVec.ofNat 32 (field raw 0x18 4 % 2 ^ 24),
    stk := BitVec.ofNat 16 (field raw 0x1C 2 % 2 ^ 10), power := if cap = 3 then 0 else cap,
    role := if twin % 4 = 3 then 0 else twin % 4, takeover := bit twin 3, manager := bit twin 4,
    twinUid := BitVec.ofNat 64 (field raw 0x20 8), twinPorts := BitVec.ofNat 8 (field raw 0x28 1), twinMgmt := slice raw 0x30 16,
    mgmtAddr := slice raw 0x40 16, ownerKey := slice raw 0x80 1952, raw := raw }

/-- A record of full length whose MAGIC and UID match (R334, R335). -/
def recordSound (uid : Nat) (raw : List Byte) : Bool :=
  raw.length == 5389 && field raw 0 4 == 0x52474643 && field raw 0x10 8 == uid

/-- The record's signature under a key (R334). -/
def recordVerifies (key raw : List Byte) : Bool :=
  Config.mldsaVerify key (ascii "ULF-CFG") (raw.take 0x820) (slice raw 0x820 3309)

/-- No owner key: all zeros (R334). -/
def keyUnowned (key : List Byte) : Bool := key.all (· == 0)

/-- A slot that qualifies: its record verifies, under its own key or under that of the record in the other slot, and its SEQ
equals counter 1 (R335; see the log). -/
def State.slotOk (s : State) (mine other : List Byte) : Bool :=
  recordSound (s.get 0x500004) mine && field mine 8 4 == s.isl.flash.counter1.toNat &&
    (recordVerifies (slice mine 0x80 1952) mine || recordVerifies (slice other 0x80 1952) mine)

/-- The record installed in flash, if any slot qualifies (R335). -/
def State.installed (s : State) : Option (List Byte) :=
  let f := s.isl.flash
  if s.slotOk f.slotA f.slotB then some f.slotA
  else if s.slotOk f.slotB f.slotA then some f.slotB
  else none

/-- The objects whose source is the record in use take their values (R334, R335, R392, R424). -/
def State.loadConfig (s : State) (r : Option ConfigRecord) : State :=
  let s1 : State := { s with isl := { s.isl with trust := { s.isl.trust with record := r } } }
  match r with
  | none => s1
  | some r =>
    ((((((((((s1.put 0x200001 r.power).put 0x330006 r.fence.toNat).put 0x330007 r.stk.toNat).put 0x500003 (if r.manager then 1 else 0)).put
      0x510001 r.twinUid.toNat).put 0x510002 r.role).put 0x510003 r.twinPorts.toNat).put 0x51000A (if r.takeover then 1 else 0)).putBlob
      0x510004 r.twinMgmt).putBlob 0x101002 r.mgmtAddr).showTwins

/-- The owner key of the record in use; all zeros where the module is unowned. -/
def State.ownerKey (s : State) : List Byte :=
  match s.isl.trust.record with
  | some r => r.ownerKey
  | none => List.replicate 1952 0

/-! ## The rails -/

/-- The readiness bits that stay without the main rails: the management port's and the security root's (R330, R393). -/
def islandReady (v : Nat) : List (Nat × Bool) := ((List.range 52).filter fun b => 2 ≤ b && bit v b).map fun b => (b, false)

/-- A count of the present hour, at the head of the hours', raised. -/
def addNow (l : List Nat) (n : Nat) : List Nat :=
  match l with
  | [] => [n]
  | x :: rest => (x + n) :: rest

/-- The main rails removed: every die but the island is off, what it did is gone, and a power cycle counts (R392, R394, R397). -/
def State.removeRails (s : State) : State :=
  let s1 := s.setReady (islandReady (s.get 0x201001))
  let n := if s.railsUp then 1 else 0
  let w := s1.isl.wear
  { s1.bump32 0x2F2002 n with
    arr := ArrayState.reset, streams := StreamState.reset, net := NetState.reset
    isl := { s1.isl with
      rails := { s1.isl.rails with up := false, ramping := false, lostPending := [], polls := [], off := [] }
      power := { s1.isl.power with entering := none, exiting := false, heldAcc := [], capHold := 0 }
      wear := { w with powerHours := addNow w.powerHours n } } }

/-! ## Module reset -/

/-- A scalar object that a module reset leaves alone (R392): the timer, wear data, boot state and what flash keeps, supply
readings, the image's and the identity's, and the island's readiness. -/
def keepObj (n : Nat) : Bool :=
  n == 0x203001 || n / 256 == 0x2020 || (decide (0x2F00 ≤ n / 256) && decide (n / 256 ≤ 0x2FFF)) || n == 0x201001 || n == 0x100004 ||
    n == 0x500004 || n / 256 == 0x6000 || n == 0x71100C || n == 0x71B00A || n / 256 == 0x7E00

/-- A byte object that a module reset leaves alone: the link-local address and the measurements of island power-up (R336, R392). -/
def keepBlob (n : Nat) : Bool := n == 0x101001 || n == 0x610001 || n == 0x610002

/-- The ports after a reset: down, with the cages as they are. -/
def portsAfter (ports : SMap Port) : SMap Port :=
  (ports.filter fun x => x.2.cage).map fun x => (x.1, { Port.down with cage := true, lowPower := x.2.lowPower })

/-- Every open or opening session is gone (R365). -/
def FmpState.closeAll (f : FmpState) : FmpState := { f with sessions := [], transfers := [] }

/-- TIER_MAP as written for each tier die: 1 where it asks for the linear layout, other values reading as 0 (R211, R215). -/
def State.tierMaps (s : State) : SMap Nat :=
  (List.range 2).foldl (fun m k => SMap.set m k (if s.get (0x404101 + k) = 1 then 1 else 0) 0) []

/-- The module reset of R392: the rails go, every part but the island takes its reset state, and every object its default or the
value of its stored source. A record accepted since takes effect (R335). -/
def State.moduleReset (s : State) : State :=
  let s1 := s.removeRails
  let t := { s1.isl.trust with resetAt := none }
  let s2 : State :=
    { State.reset with
      cycle := s1.cycle, subTick := s1.subTick, free := s1.free, pending := s1.pending
      obj := s1.obj.filter fun x => keepObj x.1
      copy := s1.copy.filter fun x => keepObj x.1
      blob := s1.blob.filter fun x => keepBlob x.1
      mem := { MemState.reset with tierMap := s1.tierMaps }
      hub := { HubState.reset with ep := { Endpoint.reset with perst := s1.hub.ep.perst } }
      fab := { FabState.reset with ports := portsAfter s1.fab.ports }
      isl := { s1.isl with trust := t, fmp := s1.isl.fmp.closeAll, merges := [] } }
  s2.loadConfig (s2.installed.map parseRecord)

/-- Sources that hold a module reset (R389, R392, R431). -/
def State.resetHeld (s : State) : Bool := s.isl.rails.vinHold || s.isl.rails.mrstHold || s.isl.rails.trip.isSome

/-! ## Island restart -/

/-- An object that flash keeps for the life of the module (R327, R392, R395). -/
def flashObj (n : Nat) : Bool :=
  (decide (0x2F00 ≤ n / 256) && decide (n / 256 ≤ 0x2FFF)) || n == 0x600004 || n == 0x71100C || n == 0x71B00A || n / 256 == 0x7E00

/-- The island loses power: only flash, the wear data it keeps and what hangs on pins and cages remain, until it powers up again
(R331, R373, R390). -/
def State.islandRestart (s : State) : State :=
  let s1 := s.removeRails
  { State.reset with
    free := s1.free, pending := s1.pending
    obj := s1.obj.filter fun x => flashObj x.1
    hub := { HubState.reset with ep := { Endpoint.reset with perst := s1.hub.ep.perst } }
    fab := { FabState.reset with ports := portsAfter s1.fab.ports }
    isl := { Island.reset with
      flash := s1.isl.flash
      wear := { s1.isl.wear with lastMeasure := none, lastStress := 0, lastDay := 0, lastLife := 0 }
      rails := { Rails.reset with mrstHold := s1.isl.rails.mrstHold } } }

/-! ## Handles -/

/-- A refusal in state is counted (R247, R350). -/
def State.refused (s : State) : State := s.bump 0x717005 1

/-- A handle taken for work that completes later, where fewer than 4 are pending (R350, R360). -/
def State.handleFor (s : State) (work : Nat) : Option (Nat × State) :=
  let f := s.isl.fmp
  if 4 ≤ f.handles.countP (fun h => h.endedAt.isNone) then none
  else
    let h : Handle := { id := f.nextHandle, work := work, status := 3, state := 0, endedAt := none }
    some (f.nextHandle, { s with isl := { s.isl with fmp :=
      { f with handles := f.handles ++ [h], nextHandle := if f.nextHandle = 65535 then 1 else f.nextHandle + 1 } } })

/-- A handle's work has ended with a status and state (R360). -/
def State.endHandle (s : State) (id status state : Nat) : State :=
  let f := s.isl.fmp
  { s with isl := { s.isl with fmp := { f with handles := f.handles.map fun h =>
    if h.id = id then { h with status := status, state := state, endedAt := some s.tick } else h } } }

end Sys2Proof.Machine
end

