-- ==== Sys2Proof/Machine/Trust.lean ====
section
/-! DEFINITION. The root of trust (R327 to R338, R390): island power-up, images, configuration records, identity, measurements
and quotes. -/

namespace Sys2Proof.Machine

/-- The root of trust replaced. -/
def State.putTrust (s : State) (t : Trust) : State := { s with isl := { s.isl with trust := t } }

/-- The flash device replaced. -/
def State.putFlash (s : State) (f : Flash) : State := { s with isl := { s.isl with flash := f } }

/-! ## Images -/

/-- An image that the boot ROM accepts (R329): format, length, vendor key, signature and version floor. -/
def imageOk (floor : Nat) (img : List Byte) : Bool :=
  let len := field img 0x0C 4
  let key := slice img 0x20 1952
  field img 0 4 == 0x4D494655 && field img 4 1 == 1 && decide (0x15AD ≤ len) && decide (len ≤ 0x2000000) && decide (len ≤ img.length) &&
    Config.shake256 key 64 == Config.vendorRoot &&
    Config.mldsaVerify key (ascii "ULF-IMG") (img.take (len - 3309)) (slice img (len - 3309) 3309) && decide (floor ≤ field img 8 4)

/-- An image handed over for the check of R329, with a handle for its verdict: refused where the controller has none (R331,
R350, R360). The handle, and the state. -/
def State.queueImage (s : State) (img : List Byte) : Option Nat × State :=
  match s.handleFor 0 with
  | none => (none, s.refused)
  | some h => (some h.1, h.2.putTrust { h.2.isl.trust with images := h.2.isl.trust.images ++ [(img, h.1)] })

/-- A write of an image to 6200:01 (R331): its check begins. -/
def execFwImageWrite (image : List Byte) (s : State) : Out :=
  if !s.isl.trust.up then .next s else .next (s.queueImage image).2

/-- An image accepted in recovery ends it: a full restart follows (R330). -/
def State.leaveRecovery (s : State) : State :=
  if s.get 0x600001 = 2 then s.putTrust { s.isl.trust with restartAt := some s.tick } else s

/-- The oldest image that waits is judged under R329: it is written to flash, or refused as image rejected (R331). -/
def execFwImageWriteDone (s : State) : Out :=
  match s.isl.trust.images with
  | [] => .next s
  | (img, h) :: rest =>
    let s1 := s.putTrust { s.isl.trust with images := rest }
    if imageOk s.isl.flash.counter0.toNat img then
      .next ((((s1.putFlash { s1.isl.flash with image := img }).endHandle h 0 0).event 11 2 25 0
        (leBytes 4 (field img 8 4) ++ leBytes 4 0 ++ leBytes 8 (field img 0x10 8))).leaveRecovery)
    else .next ((s1.endHandle h 0x20 8).refused)

/-! ## Restart -/

/-- A write of 6200:03 begins a full restart 1 ms, which is 12,500 ticks, after its reply (R331). -/
def State.restartWrite (s : State) : State := s.putTrust { s.isl.trust with restartAt := some (s.tick + 12500) }

/-- A write to 6200:03 (R331). -/
def execRestart (_ : Byte) (s : State) : Out := if !s.isl.trust.up then .next s else .next s.restartWrite

/-- Power lost while an image that passed R329 is being written to flash leaves one that fails it (R331): the model leaves none. -/
def State.tornImage (s : State) : State :=
  match s.isl.trust.images with
  | [] => s
  | (img, _) :: _ => if imageOk s.isl.flash.counter0.toNat img then s.putFlash { s.isl.flash with image := [] } else s

/-- The full restart that a write asked for begins (R331). -/
def execFullRestart (s : State) : Out :=
  match s.isl.trust.restartAt with
  | none => .next s
  | some t => if s.tick < t then .next s else .next s.tornImage.islandRestart

/-- The 12 V auxiliary input has stayed below 10.8 V for 1 ms: the island resets itself (R390). -/
def execAuxInputLoss (s : State) : Out := .next s.tornImage.islandRestart

/-! ## Power-up -/

/-- The identity derived from the start-up pattern (R332, R333): enrolled where flash holds no helper data. -/
def State.deriveIdentity (s : State) (pattern : List Byte) : State :=
  let f := s.isl.flash
  let fresh := f.helper == []
  let helper := if fresh then Config.pufHelper pattern else f.helper
  let seed := Config.pufSeed pattern helper
  let pub := Config.mldsaPublic seed
  let digest := Config.shake256 pub 64
  let f1 := if fresh then { f with helper := helper, keyDigest := digest } else f
  let id := if f1.keyDigest ≠ digest then 2 else if f1.cert = [] then 3 else 1
  let s1 := (s.putFlash f1).putTrust { s.isl.trust with up := true, seed := seed, pubKey := pub }
  let uid := field (Config.shake256 pub 8) 0 8
  ((s1.put 0x500004 uid).put 0x600005 id).putBlob 0x101001 ([0xFE, 0x80, 0, 0, 0, 0, 0, 0] ++ leBytes 8 uid)

/-- Recovery (R330): the count kept in flash, and its event. -/
def State.enterRecovery (s : State) : State :=
  ((s.put 0x600001 2).bump32 0x600004 1).event 11 1 25 0 (leBytes 4 s.isl.flash.counter0.toNat)

/-- The image in flash starts: it is measured, and counter 0 advances where the identity is valid (R328, R329, R333, R336). -/
def State.startImage (s : State) : State :=
  let img := s.isl.flash.image
  let svn := field img 8 4
  let s1 := ((s.putTrust { s.isl.trust with running := img }).put 0x100004 (field img 0x10 8)).putBlob 0x610001 (Config.shake256 img 64)
  if s.get 0x600005 ≠ 2 ∧ s.isl.flash.counter0.toNat < svn then
    s1.putFlash { s1.isl.flash with counter0 := BitVec.ofNat 32 svn }
  else s1

/-- The measurement of the record in use (R336); with no record its value is not stated, and is free. -/
def State.measureRecord (s : State) : State :=
  match s.installed with
  | some raw => s.putBlob 0x610002 (Config.shake256 raw 64)
  | none =>
    let d := s.draw
    d.2.putBlob 0x610002 (freeBytes d.1 64)

/-- The counters of flash as objects show them (R339). -/
def State.showCounters (s : State) : State :=
  (s.put 0x600002 s.isl.flash.counter0.toNat).put 0x600003 s.isl.flash.counter1.toNat

/-- The island powers up (R329 to R336): identity, image or recovery, record, and the security root's readiness. -/
def execIslandPowerUp (pattern : List Byte) (s : State) : Out :=
  if s.isl.trust.up then .next s
  else
    let s1 := s.deriveIdentity pattern
    let s2 := if s1.get 0x600005 = 2 then s1 else s1.setReady [(1, true)]
    let s3 := if imageOk s2.isl.flash.counter0.toNat s2.isl.flash.image then s2.startImage else s2.enterRecovery
    let s4 := (s3.loadConfig (s3.installed.map parseRecord)).measureRecord
    .next s4.showCounters

/-! ## Records -/

/-- A record handed over for verification: refused at once where the identity is invalid, or where no handle is free (R333,
R335, R350, R360). The handle or the refusal's state, and the state. -/
def State.queueRecord (s : State) (raw : List Byte) : (Nat ⊕ Nat) × State :=
  if s.get 0x600005 = 2 then (.inr 10, s.refused)
  else match s.handleFor 1 with
    | none => (.inr 19, s.refused)
    | some h => (.inl h.1, h.2.putTrust { h.2.isl.trust with records := h.2.isl.trust.records ++ [(raw, h.1)] })

/-- A write of a record to 6300:01 (R335); in recovery it is refused (R330). -/
def execConfig (rec' : List Byte) (s : State) : Out :=
  s.objectWritten fun s => (s.queueRecord rec').2

/-- Whether a record is accepted (R335): MAGIC and UID, a SEQ above counter 1, and a signature under the installed owner key, or
the record's own where the module is unowned. -/
def State.recordAccepted (s : State) (raw : List Byte) : Bool :=
  let installed := match s.installed with
    | some r => slice r 0x80 1952
    | none => List.replicate 1952 0
  let key := if keyUnowned installed then slice raw 0x80 1952 else installed
  recordSound (s.get 0x500004) raw && decide (s.isl.flash.counter1.toNat < field raw 8 4) && recordVerifies key raw

/-- An accepted record goes to the slot that does not hold the installed one, and counter 1 advances to its SEQ (R335). -/
def State.installRecord (s : State) (raw : List Byte) : State :=
  let f := s.isl.flash
  let seq := field raw 8 4
  let inA := s.slotOk f.slotA f.slotB
  let f1 := if inA then { f with slotB := raw } else { f with slotA := raw }
  ((s.putFlash { f1 with counter1 := BitVec.ofNat 32 seq }).put 0x600003 seq).event 11 3 25 0 (leBytes 4 seq)

/-- The oldest record that waits is judged, against the result of the one before (R335). -/
def execConfigVerifyDone (s : State) : Out :=
  match s.isl.trust.records with
  | [] => .next s
  | (raw, h) :: rest =>
    let s1 := s.putTrust { s.isl.trust with records := rest }
    if s1.recordAccepted raw then .next ((s1.endHandle h 0 0).installRecord raw)
    else .next ((s1.endHandle h 0x20 9).refused)

/-- The vendor certificate stored while enrolment is open, or refused (R332, R350): the state, and the refusal. -/
def State.writeCert (s : State) (cert : List Byte) : State × Bool :=
  if s.get 0x600005 = 3 then ((s.putFlash { s.isl.flash with cert := cert }).put 0x600005 1, false) else (s.refused, true)

/-- A write of 6100:0A (R332). -/
def execIdCertWrite (cert : List Byte) (s : State) : Out :=
  s.objectWritten fun s => (s.writeCert cert).1

/-! ## Measurements -/

/-- A measurement added to those that wait (R337). -/
def State.queueMeasure (s : State) (m : Measure) : State := { s with hub := { s.hub with measures := s.hub.measures ++ [m] } }

/-- A write to offset 0 of the measurement window (R337). -/
def execMeasureLast (addr : Nat) (s : State) : Out := if !s.railsUp then .next s else .next (s.queueMeasure (.last addr))

/-- A digest written to the measurement window (R337). -/
def execMeasureRuntime (digest : List Byte) (s : State) : Out := if !s.railsUp then .next s else .next (s.queueMeasure (.runtime digest))

/-- A measurement object extended (R336): M becomes SHAKE256 of M and the digest. -/
def State.extend (s : State) (n : Nat) (d : List Byte) : State := s.putBlob n (Config.shake256 (s.getBlob n 64 ++ d) 64)

/-- The extension in progress completes (R336, R337): a last is read with the LEN of R153. -/
def execMeasureDone (s : State) : Out :=
  match s.hub.measures with
  | [] => .next s
  | m :: rest =>
    let s1 : State := { s with hub := { s.hub with measures := rest } }
    match m with
    | .runtime d => .next (s1.extend 0x610004 d)
    | .last a =>
      let h := s1.readPhys a 16
      let len := field h.1 8 4
      let b := h.2.2.2.readPhys a len
      .next (((b.2.2.2.extend 0x610003 (Config.shake256 b.1 64)).bump32 0x610005 1).bump 0x71A007 1)

/-! ## Quotes -/

/-- A nonce starts or restarts a quote (R338). -/
def State.startQuote (s : State) (nonce : List Byte) : State :=
  ({ s with hub := { s.hub with quoteNonce := nonce, quoteTick := s.tick } }).put 0x610008 1

/-- A write of 6100:06 (R338). -/
def execNonceWrite (nonce : List Byte) (s : State) : Out :=
  s.objectWritten fun s => s.startQuote nonce

/-- Bytes 0x000 to 0x13F of a quote (R338). -/
def State.quoteBody (s : State) : List Byte :=
  leBytes 4 0x544F5551 ++ leBytes 1 1 ++ leBytes 1 1 ++ leBytes 2 0 ++ leBytes 8 (s.get 0x500004) ++ leBytes 8 s.hub.quoteTick ++
    fit 32 s.hub.quoteNonce ++ leBytes 4 s.isl.flash.counter0.toNat ++ leBytes 4 (s.get 0x610005) ++ s.getBlob 0x610001 64 ++
    s.getBlob 0x610002 64 ++ s.getBlob 0x610003 64 ++ s.getBlob 0x610004 64

/-- The quote is signed with the identity key (R338). -/
def execQuoteSigned (s : State) : Out :=
  if s.get 0x610008 ≠ 1 then .next s
  else
    let body := s.quoteBody
    .next (((s.putBlob 0x610007 (body ++ Config.mldsaSign s.isl.trust.seed (ascii "ULF-QTE") body)).put 0x610008 2).bump 0x71A008 1)

end Sys2Proof.Machine
end

