-- ==== Sys2Proof/Machine/Dict.lean ====
section
/-! DEFINITION. The object dictionary as its paths reach it (R341 to R350): reading an object, judging an access, and what a
write does. -/

namespace Sys2Proof.Machine

/-! ## Reading -/

/-- The flash log, oldest record first (R415). -/
def State.logBytes (s : State) : List Byte :=
  let f := s.isl.flash
  (List.range f.logCount).flatMap fun i => fit 32 (f.log.get ((s.get 0x7E0002 + 32768 - f.logCount + i) % 32768) [])

/-- The value of a STR, BLOB or DOMAIN object of at most `size` bytes (R339, R372, R424). -/
def State.bytesObj (s : State) (n size : Nat) : List Byte :=
  match n with
  | 0x100002 => fit 13 Config.partNumber
  | 0x100003 => fit 12 Config.serialNumber
  | 0x610009 => fit size s.isl.trust.pubKey
  | 0x61000A => s.isl.flash.cert
  | 0x630001 => match s.isl.trust.record with
    | some r => r.raw
    | none => []
  | 0x7E0001 => s.logBytes
  | 0x620001 => []
  | _ => s.getBlob n size

/-- Whether a type code is a scalar's (R342). -/
def scalarType (t : Nat) : Bool := 1 ≤ t && t ≤ 0x0A

/-- The bytes of the object of a row as a read returns them: the 7000 range from the island's copy (R344, R346). -/
def State.objBytes (s : State) (n : Nat) (r : ObjRow) : List Byte :=
  if scalarType r.type then
    if n % 256 = 0 then leBytes r.size r.dflt
    else if 0x7000 ≤ n / 256 then leBytes r.size (s.copy.get n (BitVec.ofNat 64 r.dflt)).toNat
    else leBytes r.size (s.get n)
  else s.bytesObj n r.size

/-- Zero of an object's type (R348): an empty STR or DOMAIN, a BLOB of zeros. -/
def zeroOf (r : ObjRow) : List Byte :=
  if scalarType r.type ∨ r.type = 0x0C then List.replicate r.size 0 else []

/-! ## Rights -/

/-- Whether a path grants reads of an index (R347). -/
def pathReads (p : Path) (idx : Nat) : Bool :=
  let low := 0x1000 ≤ idx && idx < 0x8000
  let diag := 0xF000 ≤ idx
  match p with
  | .fmpPlain => low && !(0x3000 ≤ idx && idx < 0x6000)
  | .fmpSession => low || diag
  | .window => low || diag

/-- Whether a path grants writes of an object (R347, R349). -/
def State.pathWrites (s : State) (p : Path) (n : Nat) : Bool :=
  let idx := n / 256
  match p with
  | .fmpPlain =>
    n == 0x610006 || (n == 0x630001 && keyUnowned s.ownerKey) || ((n == 0x620001 || n == 0x620003) && s.get 0x600001 == 2)
  | .fmpSession => 0x1000 ≤ idx && idx < 0x7000
  | .window => (0x1100 ≤ idx && idx < 0x2000) || idx == 0x2080 || (0x3000 ≤ idx && idx < 0x6000) || n == 0x610006

/-- Whether a right allows reads, and writes (R343). -/
def Right.reads : Right → Bool
  | .wo => false
  | _ => true

/-- Whether a right allows writes. -/
def Right.writes : Right → Bool
  | .ro => false
  | .const => false
  | _ => true

/-- The row of an object that a path may read; none where the read is an access violation (R348). -/
def readable (p : Path) (n : Nat) : Option ObjRow :=
  if pathReads p (n / 256) then (objRow n).filter fun r => Right.reads r.right else none

/-- The row of an object that a path may write; none where the write is an access violation (R348). -/
def State.writable (s : State) (p : Path) (n : Nat) : Option ObjRow :=
  if s.pathWrites p n then (objRow n).filter fun r => Right.writes r.right else none

/-- An access violation counted (R348). -/
def State.violation (s : State) : State := s.bump 0x7F0001 1

/-- The present state that forbids a read (R333, R338, R350). -/
def State.readRefusal (s : State) (n : Nat) : Option Nat :=
  if n ≠ 0x610007 then none
  else if s.get 0x600005 = 2 then some 10
  else if s.get 0x610008 ≠ 2 then some 11
  else none

/-! ## Writing -/

/-- How a write ends: its status, present state and handle (R359). -/
structure Verdict where
  status : Nat
  state : Nat
  handle : Nat
deriving DecidableEq, Repr

/-- Done. -/
def Verdict.done : Verdict := { status := 0, state := 0, handle := 0 }
/-- Refused in state. -/
def Verdict.refused (st : Nat) : Verdict := { status := 0x20, state := st, handle := 0 }
/-- Invalid request. -/
def Verdict.invalid : Verdict := { status := 0x21, state := 0, handle := 0 }
/-- Pending under a handle. -/
def Verdict.pending (h : Nat) : Verdict := { status := 3, state := 0, handle := h }

/-- A write that may be refused in state. -/
def refusable (x : State × Bool) (st : Nat) : State × Verdict := (x.1, if x.2 then .refused st else .done)

/-- A write of 3300:06 or 3300:07 (R419): it fences once no operation is in progress. -/
def State.writeFence (s : State) (n v : Nat) : State := (s.put n v).settleFence

/-- A write of 2000:0B: the module reset starts 1 ms, which is 12,500 ticks, after the reply (R392). -/
def State.resetWrite (s : State) : State := s.putTrust { s.isl.trust with resetAt := some (s.tick + 12500) }

/-- A write to an object whose effect a rule of its own gives, with what it answers; none for every other object. -/
def State.specialWrite (s : State) (n : Nat) (value : List Byte) : Option (State × Verdict) :=
  let v := leNat value
  let idx := n / 256
  let sub := n % 256
  let plain := fun (x : State) => some (x, Verdict.done)
  if 0x4100 ≤ idx ∧ idx ≤ 0x41FF then some (refusable (s.writeWindow (idx - 0x4100) sub v) 6)
  else if idx = 0x4020 then plain (s.writeSpEnable (sub - 1) (BitVec.ofNat 64 v))
  else if 0x5200 ≤ idx ∧ idx ≤ 0x55FE then
    if sub = 1 then some (refusable (s.writeMcMode (idx - 0x5200) v) 12)
    else if s.mcMode (idx - 0x5200) ≠ 0 then some (s.refused, .refused 12)
    else none
  else if 0x5600 ≤ idx ∧ idx ≤ 0x560F then
    if sub = 4 then some (refusable (s.writeMirState (idx - 0x5600) v) 13)
    else if s.get (idx * 256 + 4) = 1 then some (s.refused, .refused 13)
    else none
  else match n with
    | 0x400001 => plain (s.writeHbmMode (BitVec.ofNat 8 v))
    | 0x400002 => plain (s.writeDdrMode (BitVec.ofNat 8 v))
    | 0x500301 => plain (s.writePortEnable v)
    | 0x51000A => plain (s.writeTakeover v)
    | 0x112001 => plain (s.writeRpPerst v)
    | 0x208001 => plain (s.put n v).kick
    | 0x208002 => plain s.kick
    | 0x20000B => plain s.resetWrite
    | 0x330006 => plain (s.writeFence n v)
    | 0x330007 => plain (s.writeFence n v)
    | 0x610006 => plain (s.startQuote value)
    | 0x61000A => some (refusable (s.writeCert value) 14)
    | 0x620003 => plain s.restartWrite
    | 0x620001 =>
      match s.queueImage value with
      | (some h, s1) => some (s1, .pending h)
      | (none, s1) => some (s1, .refused 19)
    | 0x630001 =>
      match s.queueRecord value with
      | (.inl h, s1) => some (s1, .pending h)
      | (.inr st, s1) => some (s1, .refused st)
    | _ => none

/-- A write that its path and right allow, of the right form (R344, R350): refused in recovery but for images (R330), else with the
effect of the object's entry, or stored. -/
def State.writeObj (s : State) (n : Nat) (r : ObjRow) (value : List Byte) : State × Verdict :=
  if s.get 0x600001 = 2 ∧ n ≠ 0x620001 ∧ n ≠ 0x620003 then (s.refused, .refused 7)
  else match s.specialWrite n value with
    | some x => x
    | none =>
      if r.type = 1 then (s.put n (if leNat value = 0 then 0 else 1), .done)
      else if scalarType r.type then (s.put n (leNat value), .done)
      else (s.putBlob n value, .done)

/-- The form of a value against its object's type (R342, R357): an exact size, or at most the limit of a STR or DOMAIN; the
certificate, whose size no entry states, has a limit too (see the log). -/
def formOk (n : Nat) (r : ObjRow) (len : Nat) : Bool :=
  if r.type = 0x0B ∨ r.type = 0x0D ∨ n = 0x61000A then decide (len ≤ r.size) else len == r.size

/-- One write of a whole value as a path makes it: first judged for access, then for form, then for state (R348, R350, R357).
`whole` where a segmented transfer or a row of its own brings a DOMAIN. -/
def State.judgeWrite (s : State) (p : Path) (n : Nat) (value : List Byte) (whole : Bool) : State × Verdict :=
  match s.writable p n with
  | none => (s.violation, .done)
  | some r =>
    if (r.type = 0x0D ∧ !whole) ∨ !formOk n r value.length then (s, .invalid) else s.writeObj n r value

/-- A write to an object by a path (R345): nothing before the island is up. -/
def execObjectWrite (path : Path) (obj : Nat) (value : List Byte) (s : State) : Out :=
  if !s.isl.trust.up then .next s else .next (s.judgeWrite path obj value false).1.settle

/-- The island's copy of the 7000 range taken from the dies (R346). -/
def State.refreshCopy (s : State) : State :=
  { s with copy := s.obj.filter fun x => decide (0x7000 ≤ x.1 / 256) && decide (x.1 / 256 ≤ 0x7FFF) }

/-- The copy's refresh of every 1 ms in Run and Poise (R346). -/
def execObjectCopyRefresh (s : State) : Out :=
  if !s.isl.trust.up ∨ 2 ≤ s.get 0x200006 then .next s else .next s.refreshCopy

/-- A write to 3300:06, or to 3300:07 (R419). -/
def execFenceRequestWrite (stk : Bool) (v : U32) (s : State) : Out :=
  s.objectWritten fun s => s.writeFence (if stk then 0x330007 else 0x330006) (if stk then v.toNat % 2 ^ 16 else v.toNat)

end Sys2Proof.Machine
end

