-- ==== Sys2Proof/Machine/Fmp.lean ====
section
/-! DEFINITION. The Fjarman Management Protocol (R351 to R369): datagrams, requests and replies, segmented transfers, handles,
sessions, the fabric, the mailboxes and heartbeats. -/

namespace Sys2Proof.Machine

/-- The FMP controller replaced. -/
def State.putFmp (s : State) (f : FmpState) : State := { s with isl := { s.isl with fmp := f } }

/-! ## Receiving -/

/-- SEQ `q` lies before the newest kept SEQ, modulo 2^32 (R362). -/
def seqStale (newest q : Nat) : Bool :=
  let d := (newest + 2 ^ 32 - q) % 2 ^ 32
  decide (0 < d) && decide (d < 2 ^ 31)

/-- The kept replies of a source, newest first (R362). -/
def State.keptOf (s : State) (src : Source) : List Reply := s.isl.fmp.kept.filter fun k => k.src = src

/-- A mailbox: DOORBELL and the reply (R367). -/
def State.mailbox (s : State) (c : Nat) : Nat × List Byte := s.isl.fmp.mailbox.get c (0, [])

/-- The state with a mailbox replaced. -/
def State.putMailbox (s : State) (c : Nat) (m : Nat × List Byte) : State :=
  s.putFmp { s.isl.fmp with mailbox := s.isl.fmp.mailbox.set c m (0, []) }

/-- A reply on its way to the source of its request (R352, R366, R367): a UDP datagram, an FMP message, or the mailbox. -/
def State.transmit (s : State) (src : Source) (tag : Nat) (bytes : List Byte) : State :=
  match src with
  | .ip _ _ => if s.mgmtUp then s.sendUdp src bytes else s
  | .device id =>
    s.sendMsg { mtype := 5, dn := false, poison := [], dst := id % 4096, src := s.devId, len := bytes.length, addr := 0, txtag := tag,
                hops := 0, arg := 0, data := bytes }
  | .route ports => s.sendMsg (s.directed ports 5 tag bytes)
  | .core c => s.putMailbox c (2, bytes)

/-- A datagram discarded without a reply (R355): a mailbox that brought it is idle again (see the log). -/
def State.discard (s : State) (src : Source) : State :=
  let s1 := s.bump 0x7F0004 1
  match src with
  | .core c => s1.putMailbox c (0, [])
  | _ => s1

/-- A twin heartbeat by datagram (R369): counted only from the address in 5100:04 and with the twin's UID. -/
def State.udpBeat (s : State) (addr : List Byte) (hb : Heartbeat) : State :=
  if addr = s.getBlob 0x510004 16 ∧ hb.uid.toNat = s.get 0x510001 then s.takeBeat hb else s.bump 0x7F0004 1

/-- The place of a request among those that arrive in one cycle: the mailboxes by core, the management port, FD0, FD1 (R351). -/
def arrivalRank (src : Source) (port : Option Nat) : Nat :=
  match src with
  | .core c => c
  | .ip _ _ => 16
  | _ => 17 + (port.getD 0) / 4

/-- A request joins the queue behind those that arrived before it, in the order of R351 among those of its cycle. -/
def State.queueRequest (s : State) (r : Request) : State :=
  let after := fun (y : Request) => y.arrived = r.arrived && decide (r.rank < y.rank)
  let q := s.isl.fmp.queue
  s.putFmp { s.isl.fmp with queue := (q.filter fun y => !after y) ++ [r] ++ q.filter after }

/-- A datagram whose header is whole (R353 to R355, R361, R362): discarded, answered from a kept reply, or queued. -/
def State.judge (s : State) (src : Source) (port : Option Nat) (tag : Nat) (bytes : List Byte) : State :=
  let op := field bytes 4 1
  let flags := field bytes 5 1
  let seq := field bytes 8 4
  let kept := s.keptOf src
  if op = 0x21 then
    match src with
    | .ip addr _ => s.udpBeat addr (readBeat (slice bytes 32 32))
    | _ => s.discard src
  else if bit flags 0 then s.discard src
  else match kept.find? fun k => k.seq = seq with
    | some k => (s.bump 0x7F0003 1).transmit src tag k.bytes
    | none =>
      let stale : Bool := match kept with
        | k :: _ => seqStale k.seq seq
        | [] => false
      if stale ∨ 16 ≤ s.isl.fmp.queue.length then s.discard src
      else
        let r : Request := { src := src, op := op, sid := field bytes 6 2, seq := seq, session := bit flags 1, token := slice bytes 16 16,
                             payload := slice bytes 32 (field bytes 14 2), tag := tag, arrived := (s.tick, s.cycle), rank := arrivalRank src port }
        s.queueRequest r

/-- A datagram at the controller (R353, R355). -/
def State.receive (s : State) (src : Source) (port : Option Nat) (tag : Nat) (bytes : List Byte) : State :=
  if bytes.length < 32 ∨ field bytes 0 2 ≠ 0x4D46 ∨ bytes.length - 32 < field bytes 14 2 then s.discard src
  else s.judge src port tag bytes

/-- Whether the controller can hear a source: the management link is up, or the main rails are (R352, R366, R367). -/
def State.hears (s : State) (src : Source) : Bool :=
  s.isl.trust.up && (match src with | .ip _ _ => s.mgmtUp | _ => s.railsUp)

/-- A datagram arrives (R352, R355): one that is fragmented, or longer than 1,280 bytes, is discarded. -/
def execFmpDatagramReceive (src : Source) (bytes : List Byte) (fragmented : Bool) (s : State) : Out :=
  if !s.hears src ∨ fragmented ∨ 1280 < bytes.length then .next s else .next (s.receive src none 0 bytes).settle

/-- An FMP message reaches this module (R296, R313, R366): a reply answers the send slot that waits for it, a request goes to the
controller. The bytes that a directed route has appended are no part of the datagram. -/
def execFabricFmp (m : Msg) (s : State) : Out :=
  if !s.railsUp then .next s
  else
    let x := s.takeMsg m
    let data := fit m.dataLen m.data
    let gram := if m.dst = 0xFFF then data.take (data.length - m.hops) else data
    if bit (field gram 5 1) 0 ∧ field gram 4 1 ≠ 0x21 then
      match (List.range 16).find? fun c => (x.2.slot c).doorbell = 1 ∧ (x.2.slot c).mtype = 5 ∧ (x.2.slot c).txtag = m.txtag with
      | some c => .next (x.2.putSlot c { x.2.slot c with doorbell := 2, result := BitVec.ofNat 32 gram.length, rsp := gram })
      | none => .next x.2
    else
      let src := if m.dst = 0xFFF then Source.route (returnRoute m x.1) else Source.device m.src
      if x.2.hears src then .next (x.2.receive src x.1 m.txtag gram).settle else .next x.2

/-- A hub core writes DOORBELL of a mailbox with the bytes of its request (R367). -/
def execMailboxDoorbell (core len : Nat) (req : List Byte) (s : State) : Out :=
  if !s.hears (.core core) ∨ (s.mailbox core).1 = 1 then .next s
  else .next ((s.putMailbox core (1, (s.mailbox core).2)).receive (.core core) none 0 (fit (min len 1280) req)).settle

/-- A HEARTBEAT datagram on the management port (R369). -/
def execHeartbeat (addr : List Byte) (hb : Heartbeat) (s : State) : Out :=
  if !s.hears (.ip addr 0) then .next s else .next (s.udpBeat addr hb).settle

/-! ## Sessions -/

/-- H of R364, applied `k` times. -/
def hashN : Nat → List Byte → List Byte
  | 0, x => x
  | k + 1, x => hashN k (Config.shake256 x 16)

/-- The number of links, 1 to 8, by which a token leads to the last accepted one (R364). -/
def tokenSteps (last t : List Byte) : Option Nat :=
  ((List.range 8).find? fun i => hashN (i + 1) t = last).map (· + 1)

/-- The sessions open, as 1010:06 shows them. -/
def State.showSessions (s : State) : State := s.put 0x101006 (s.isl.fmp.sessions.countP fun x => x.opened)

/-- A session closed, its SID free (R365). -/
def State.closeSession (s : State) (sid : Nat) : State :=
  (s.putFmp { s.isl.fmp with sessions := s.isl.fmp.sessions.filter fun x => x.sid ≠ sid }).showSessions

/-- The session of a request that claims one: open, from that source, and with a token of its chain (R364). -/
def State.claimed (s : State) (r : Request) : Option (Session × Nat) :=
  match s.isl.fmp.sessions.find? fun x => x.opened ∧ x.sid = r.sid ∧ x.src = r.src with
  | none => none
  | some x => (tokenSteps x.lastToken r.token).map fun k => (x, k)

/-- The path of a request (R347, R364): its token is used up where it is accepted; an unrecognised claim counts, and is served
without a session. -/
def State.pathOf (s : State) (r : Request) : Path × State :=
  match r.src with
  | .core _ => (.window, s)
  | _ =>
    if !r.session then (.fmpPlain, s)
    else match s.claimed r with
      | none => (.fmpPlain, s.bump 0x7F0005 1)
      | some (x, k) =>
        let y : Session := { x with lastToken := r.token, tokensLeft := x.tokensLeft - k, since := s.tick }
        (.fmpSession, s.putFmp { s.isl.fmp with sessions := s.isl.fmp.sessions.map fun z => if z.sid = x.sid then y else z })

/-- SOURCE of R363: the IPv6 address, or the device ID in the low 2 bytes. -/
def sourceBytes : Source → List Byte
  | .ip addr _ => fit 16 addr
  | .device id => fit 16 (leBytes 2 id)
  | .route _ => fit 16 (leBytes 2 0xFFF)
  | .core _ => List.replicate 16 0

/-! ## Serving -/

/-- A reply's payload, status and state. -/
structure Answer where
  payload : List Byte
  status : Nat
  state : Nat
deriving DecidableEq, Repr

/-- A reply that only reports a verdict. -/
def Verdict.answer (v : Verdict) : Answer := { payload := [], status := v.status, state := v.state }

/-- A request served (R353, R359, R362): its reply goes to its source and is kept, the last 8 for each source. -/
def State.reply (s : State) (r : Request) (a : Answer) : State :=
  let bytes := fmpDatagram r.op 1 r.sid r.seq a.status a.state a.payload
  let mine := ({ src := r.src, seq := r.seq, bytes := bytes } :: s.keptOf r.src).take 8
  let rest := s.isl.fmp.kept.filter fun k => k.src ≠ r.src
  (s.putFmp { s.isl.fmp with kept := mine ++ rest }).transmit r.src r.tag bytes

/-- The oldest request queued is served wholly, where it carries an operation of the kind asked for (R351); a session whose
tokens are used up closes (R365). -/
def State.serve (s : State) (ops : Nat → Bool) (act : Request → Path → State → Answer × State) : State :=
  match s.isl.fmp.queue with
  | [] => s
  | r :: rest =>
    if !ops r.op ∨ !s.isl.trust.up then s
    else
      let s1 := (s.putFmp { s.isl.fmp with queue := rest }).bump 0x7F0002 1
      let p := s1.pathOf r
      let x := act r p.1 p.2
      let s2 := x.2.reply r x.1
      let spent := (s2.isl.fmp.sessions.filter fun y => y.opened ∧ y.tokensLeft = 0).map fun y => y.sid
      (spent.foldl State.closeSession s2).settle

/-- Bytes padded with zeros to a multiple of 4 (R357). -/
def pad4 (b : List Byte) : List Byte := b ++ List.replicate ((4 - b.length % 4) % 4) 0

/-- The number of an object named by INDEX and SUB at offset `off` of a payload. -/
def objAt (b : List Byte) (off : Nat) : Nat := field b off 2 * 256 + field b (off + 2) 1

/-- The TYPE, verdict and value of one read (R348, R350, R357). -/
def State.readEntry (s : State) (p : Path) (n : Nat) : (Nat × Verdict × List Byte) × State :=
  match readable p n with
  | none =>
    match objRow n with
    | none => ((0, .done, []), s.violation)
    | some r => ((r.type, .done, zeroOf r), s.violation)
  | some r =>
    if r.type = 0x0D ∨ (!scalarType r.type ∧ 1024 < (s.objBytes n r).length) then ((r.type, .invalid, []), s)
    else match s.readRefusal n with
      | some st => ((r.type, .refused st, []), s.refused)
      | none => ((r.type, .done, s.objBytes n r), s)

/-- The entries of a READ from entry `i` on, with fuel (R357): it stops at an entry that the request does not contain, or whose
reply does not fit in 1,248 bytes. -/
def State.readEntries : Nat → State → Path → List Byte → Nat → Nat → List Byte → (Nat × List Byte) × State
  | 0, s, _, _, i, _, out => ((i, out), s)
  | k + 1, s, p, req, i, count, out =>
    if count ≤ i ∨ req.length < 8 + 4 * i then ((i, out), s)
    else
      let n := objAt req (4 + 4 * i)
      let x := s.readEntry p n
      let e := leBytes 2 (n / 256) ++ leBytes 1 (n % 256) ++ leBytes 1 x.1.1 ++ leBytes 1 x.1.2.1.status ++ leBytes 1 x.1.2.1.state ++
        leBytes 2 x.1.2.2.length ++ pad4 x.1.2.2
      if 1248 < 4 + out.length + e.length then ((i, out), s)
      else State.readEntries k x.2 p req (i + 1) count (out ++ e)

/-- A READ (R357). -/
def State.serveFmpRead (r : Request) (p : Path) (s : State) : Answer × State :=
  let x := State.readEntries 312 s p r.payload 0 (field r.payload 0 2) []
  ({ payload := leBytes 2 x.1.1 ++ leBytes 2 0 ++ x.1.2, status := 0, state := 0 }, x.2)

/-- An FMP READ is served (R357). -/
def execFmpRead (s : State) : Out := .next (s.serve (· == 1) State.serveFmpRead)

/-- The entries of a WRITE from byte `off` on, with fuel (R357). -/
def State.writeEntries : Nat → State → Path → List Byte → Nat → Nat → Nat → List Byte → (Nat × List Byte) × State
  | 0, s, _, _, i, _, _, out => ((i, out), s)
  | k + 1, s, p, req, i, count, off, out =>
    let len := field req (off + 4) 2
    let size := 8 + (len + 3) / 4 * 4
    if count ≤ i ∨ req.length < off + 8 ∨ req.length < off + size ∨ 1248 < 4 + out.length + 8 then ((i, out), s)
    else
      let n := objAt req off
      let x := s.judgeWrite p n (slice req (off + 8) len) false
      let e := leBytes 2 (n / 256) ++ leBytes 1 (n % 256) ++ leBytes 1 0 ++ leBytes 1 x.2.status ++ leBytes 1 x.2.state ++ leBytes 2 0
      State.writeEntries k x.1 p req (i + 1) count (off + size) (out ++ e)

/-- A WRITE (R357). -/
def State.serveFmpWrite (r : Request) (p : Path) (s : State) : Answer × State :=
  let x := State.writeEntries 156 s p r.payload 0 (field r.payload 0 2) 4 []
  ({ payload := leBytes 2 x.1.1 ++ leBytes 2 0 ++ x.1.2, status := 0, state := 0 }, x.2)

/-- An FMP WRITE is served (R357). -/
def execFmpWrite (s : State) : Out := .next (s.serve (· == 2) State.serveFmpWrite)

/-! ## Segmented transfers -/

/-- The fields of a segment's request (R358). -/
structure Seg where
  obj : Nat
  total : Nat
  offset : Nat
  len : Nat
  data : List Byte
deriving DecidableEq, Repr

/-- A segment's request; none where the payload does not hold its 16 bytes and, for a write, its data of at most 1,232. -/
def readSegment (b : List Byte) (write : Bool) : Option Seg :=
  let len := field b 12 2
  if b.length < 16 ∨ (write ∧ (1232 < len ∨ b.length < 16 + len)) then none
  else some { obj := objAt b 0, total := field b 4 4, offset := field b 8 4, len := len, data := slice b 16 len }

/-- A segment's reply (R358; see the log for its one reserved byte). -/
def segReply (n total next len handle : Nat) (data : List Byte) (v : Verdict) : Answer :=
  { payload := leBytes 2 (n / 256) ++ leBytes 1 (n % 256) ++ leBytes 1 0 ++ leBytes 4 total ++ leBytes 4 next ++ leBytes 2 len ++
      leBytes 2 handle ++ data, status := v.status, state := v.state }

/-- A READ_SEG (R358): the bytes of the value from OFFSET. -/
def State.serveReadSeg (r : Request) (p : Path) (s : State) : Answer × State :=
  match readSegment r.payload false with
  | none => (Verdict.invalid.answer, s)
  | some g =>
    let give := fun (v : List Byte) =>
      let part := (v.drop g.offset).take (min g.len 1232)
      segReply g.obj v.length (g.offset + part.length) part.length 0 part .done
    match readable p g.obj with
    | none =>
      let zero := match objRow g.obj with
        | some row => zeroOf row
        | none => []
      (give zero, s.violation)
    | some row =>
      match s.readRefusal g.obj with
      | some st => (segReply g.obj 0 g.offset 0 0 [] (.refused st), s.refused)
      | none => (give (s.objBytes g.obj row), s)

/-- A READ_SEG is served (R358). -/
def execReadSeg (s : State) : Out := .next (s.serve (· == 3) State.serveReadSeg)

/-- A source's unfinished transfer of an object. -/
def State.transfer (s : State) (src : Source) (n : Nat) : Option Transfer :=
  s.isl.fmp.transfers.find? fun t => t.src = src ∧ t.obj = n

/-- A source's unfinished transfer of an object replaced, or gone. -/
def State.putTransfer (s : State) (src : Source) (n : Nat) (t : Option Transfer) : State :=
  let rest := s.isl.fmp.transfers.filter fun x => !(x.src = src ∧ x.obj = n)
  s.putFmp { s.isl.fmp with transfers := match t with | some t => rest ++ [t] | none => rest }

/-- What a segment does to the bytes received so far (R358): where it is out of order, the offset expected; else the bytes with it. -/
def segAccept (old : Option Transfer) (g : Seg) : Nat ⊕ List Byte :=
  if g.offset = 0 then .inr g.data
  else match old with
    | none => .inl 0
    | some t => if t.total = g.total ∧ t.data.length = g.offset then .inr (t.data ++ g.data) else .inl t.data.length

/-- A WRITE_SEG (R348, R358): a violation is answered as though accepted; the segment that completes the value writes it. -/
def State.serveWriteSeg (r : Request) (p : Path) (s : State) : Answer × State :=
  match readSegment r.payload true with
  | none => (Verdict.invalid.answer, s)
  | some g =>
    match s.writable p g.obj with
    | none => (segReply g.obj g.total (g.offset + g.len) g.len 0 [] .done, s.violation)
    | some row =>
      if row.size < g.total then (segReply g.obj g.total 0 0 0 [] .invalid, s)
      else match segAccept (s.transfer r.src g.obj) g with
        | .inl next => (segReply g.obj g.total next 0 0 [] (.refused 15), s.refused)
        | .inr data =>
          if g.total < data.length then (segReply g.obj g.total g.offset 0 0 [] .invalid, s)
          else if data.length < g.total then
            (segReply g.obj g.total data.length g.len 0 [] .done,
             s.putTransfer r.src g.obj (some { src := r.src, obj := g.obj, total := g.total, data := data, since := s.tick }))
          else
            let x := (s.putTransfer r.src g.obj none).judgeWrite p g.obj data true
            (segReply g.obj g.total data.length g.len x.2.handle [] x.2, x.1)

/-- A WRITE_SEG is served (R358). -/
def execWriteSeg (s : State) : Out := .next (s.serve (· == 4) State.serveWriteSeg)

/-- A transfer with no segment for 10 s, which is 125,000,000 ticks, is discarded (R358). -/
def execSegTransferTimeout (src : Source) (obj : Nat) (s : State) : Out :=
  match s.transfer src obj with
  | none => .next s
  | some t => if s.tick < t.since + 125000000 then .next s else .next (s.putTransfer src obj none)

/-! ## Handles -/

/-- A POLL of a handle (R360). -/
def State.servePoll (r : Request) (_ : Path) (s : State) : Answer × State :=
  let id := field r.payload 0 2
  match s.isl.fmp.handles.find? fun h => h.id = id ∧ 2 ≤ r.payload.length with
  | none => (Verdict.invalid.answer, s)
  | some h => ({ payload := [], status := h.status, state := h.state }, s)

/-- A POLL is served (R360). -/
def execPoll (s : State) : Out := .next (s.serve (· == 5) State.servePoll)

/-- A handle expires 10 s after its work ended (R360). -/
def execHandleExpire (handle : Nat) (s : State) : Out :=
  .next (s.putFmp { s.isl.fmp with handles := s.isl.fmp.handles.filter fun h => !(h.id = handle ∧
    (h.endedAt.any fun t => decide (t + 125000000 ≤ s.tick))) })

/-! ## Opening and closing sessions -/

/-- The next SID that no session holds (R363): the controller takes them in turn. -/
def State.freeSid (s : State) : Nat :=
  ((List.range 65535).map fun i => (s.isl.fmp.nextSid - 1 + i) % 65535 + 1).find? (fun k => !s.isl.fmp.sessions.any fun x => x.sid = k) |>.getD 0

/-- A SESSION_OPEN (R363): an SID and a challenge, or a refusal. -/
def State.serveOpen (r : Request) (_ : Path) (s : State) : Answer × State :=
  if keyUnowned s.ownerKey then ((Verdict.refused 18).answer, s.refused)
  else if 4 ≤ s.isl.fmp.sessions.countP (fun x => x.opened) then ((Verdict.refused 16).answer, s.refused)
  else
    let sid := s.freeSid
    let f := s.isl.fmp
    let challenge := fit 32 (Config.challenge f.challenges)
    let x : Session := { sid := sid, src := r.src, challenge := challenge, opened := false, anchor := [], lastToken := [], tokensLeft := 0,
                         since := s.tick, auth := [] }
    ({ payload := leBytes 2 sid ++ leBytes 2 0 ++ challenge, status := 0, state := 0 },
     s.putFmp { f with sessions := f.sessions ++ [x], challenges := f.challenges + 1, nextSid := sid % 65535 + 1 })

/-- A SESSION_OPEN is served (R363). -/
def execSessionOpen (s : State) : Out := .next (s.serve (· == 0x10) State.serveOpen)

/-- The session replaced that has an SID. -/
def State.putSession (s : State) (x : Session) : State :=
  s.putFmp { s.isl.fmp with sessions := s.isl.fmp.sessions.map fun y => if y.sid = x.sid then x else y }

/-- A SESSION_AUTH segment (R363): with the last one the signature is verified, under a handle. -/
def State.serveAuth (r : Request) (_ : Path) (s : State) : Answer × State :=
  match readSegment r.payload true with
  | none => (Verdict.invalid.answer, s)
  | some g =>
    if keyUnowned s.ownerKey then ((Verdict.refused 18).answer, s.refused)
    else match s.isl.fmp.sessions.find? fun x => x.sid = r.sid ∧ x.src = r.src ∧ !x.opened ∧ x.auth.length < 3329 with
      | none => (segReply 0 g.total 0 0 0 [] (.refused 17), (s.bump 0x7F0005 1).refused)
      | some x =>
        if g.total ≠ 3329 then (segReply 0 g.total 0 0 0 [] .invalid, s)
        else
          let old : Transfer := { src := r.src, obj := 0, total := 3329, data := x.auth, since := 0 }
          match segAccept (some old) g with
          | .inl next => (segReply 0 3329 next 0 0 [] (.refused 15), s.refused)
          | .inr data =>
            if 3329 < data.length then (segReply 0 3329 g.offset 0 0 [] .invalid, s)
            else if data.length < 3329 then (segReply 0 3329 data.length g.len 0 [] .done, s.putSession { x with auth := data })
            else match s.handleFor (2 + r.sid) with
              | none => (segReply 0 3329 x.auth.length 0 0 [] (.refused 19), s.refused)
              | some h => (segReply 0 3329 3329 g.len h.1 [] (.pending h.1), h.2.putSession { x with auth := data })

/-- A SESSION_AUTH is served (R363). -/
def execSessionAuth (s : State) : Out := .next (s.serve (· == 0x11) State.serveAuth)

/-- The signature of a session's SESSION_AUTH verifies under the owner key in use (R363). -/
def State.authentic (s : State) (x : Session) : Bool :=
  let anchor := slice x.auth 0 16
  let n := slice x.auth 16 2
  let msg := leBytes 8 (s.get 0x500004) ++ leBytes 2 x.sid ++ x.challenge ++ anchor ++ n ++ sourceBytes x.src
  Config.mldsaVerify s.ownerKey (ascii "ULF-FMP") msg (slice x.auth 20 3309)

/-- The verification under way completes (R363): the session opens, or its SID is freed and the failure counts. -/
def execSessionAuthDone (s : State) : Out :=
  match s.isl.fmp.handles.find? fun h => 2 ≤ h.work ∧ h.endedAt.isNone with
  | none => .next s
  | some h =>
    let sid := h.work - 2
    let fail := fun (s : State) => (((s.endHandle h.id 0x20 17).bump 0x7F0005 1).refused).closeSession sid
    match s.isl.fmp.sessions.find? fun x => x.sid = sid ∧ !x.opened ∧ x.auth.length = 3329 with
    | none => .next (((s.endHandle h.id 0x20 17).bump 0x7F0005 1).refused)
    | some x =>
      if !s.authentic x then .next (fail s)
      else if 4 ≤ s.isl.fmp.sessions.countP (fun y => y.opened) then .next (((s.endHandle h.id 0x20 16).refused).closeSession sid)
      else
        let y : Session := { x with opened := true, anchor := slice x.auth 0 16, lastToken := slice x.auth 0 16, tokensLeft := field x.auth 16 2,
                                    since := s.tick, auth := [] }
        let s1 := (((s.endHandle h.id 0 0).putSession y).bump 0x7F0006 1).showSessions
        .next (if y.tokensLeft = 0 then s1.closeSession sid else s1)

/-- A SESSION_CLOSE (R365): the session that the request claims closes. -/
def State.serveClose (r : Request) (p : Path) (s : State) : Answer × State :=
  (Verdict.done.answer, if p = .fmpSession then s.closeSession r.sid else s)

/-- A SESSION_CLOSE is served (R365). -/
def execSessionClose (s : State) : Out := .next (s.serve (· == 0x12) State.serveClose)

/-- The operations that a request can carry (R356). -/
def opDefined (op : Nat) : Bool := (1 ≤ op && op ≤ 5) || (0x10 ≤ op && op ≤ 0x12)

/-- A request with an undefined OP is answered with 0x21 (R356). -/
def execFmpUndefinedOp (s : State) : Out :=
  .next (s.serve (fun op => !opDefined op) fun _ _ s => (Verdict.invalid.answer, s))

/-- A challenge not answered within 1 s, which is 12,500,000 ticks, is void (R363). -/
def execChallengeTimeout (sid : Nat) (s : State) : Out :=
  match s.isl.fmp.sessions.find? fun x => x.sid = sid ∧ !x.opened ∧ x.auth.length < 3329 with
  | none => .next s
  | some x => if s.tick < x.since + 12500000 then .next s else .next (s.closeSession sid)

/-- A session with no request for 1010:04 seconds closes; 0 reads as 60 (R365, R372). -/
def execSessionIdleTimeout (sid : Nat) (s : State) : Out :=
  let secs := if s.get 0x101004 = 0 then 60 else s.get 0x101004
  match s.isl.fmp.sessions.find? fun x => x.sid = sid ∧ x.opened with
  | none => .next s
  | some x => if s.tick < x.since + secs * 12500000 then .next s else .next (s.closeSession sid)

end Sys2Proof.Machine
end

