-- ==== Sys2Proof/Machine/Events.lean ====
section
/-! DEFINITION. Event records as commands (R368, R414). -/

namespace Sys2Proof.Machine

/-- An event record is produced (R414). -/
def execEventRecordWrite (cls code unit sub : Nat) (data : List Byte) (s : State) : Out :=
  .next (s.event (cls % 256) (code % 256) (unit % 256) (sub % 2 ^ 13) (fit 16 data))

/-- The merge window of 1,250 ticks ends, and the record is written (R414). -/
def execEventMergeExpire (cls code unit sub : Nat) (s : State) : Out :=
  match s.isl.merges.find? fun m => m.cls = cls ∧ m.code = code ∧ m.unit = unit ∧ m.sub = sub ∧ m.tick + 1250 ≤ s.tick with
  | none => .next s
  | some m =>
    let s1 : State := { s with isl := { s.isl with merges := s.isl.merges.erase m } }
    .next ((s1.ringCheck s1.eventRing).eventEmit m.cls m.code m.unit m.sub m.merged m.tick m.data)

/-- An EVENT datagram that the port could not send within 1 ms, which is 12,500 ticks, is dropped and counted (R368). -/
def execEventSendTimeout (s : State) : Out :=
  match s.isl.fmp.events with
  | [] => .next s
  | (t, _) :: rest =>
    if s.tick < t + 12500 then .next s else .next ((s.putFmp { s.isl.fmp with events := rest }).bump 0x7F0008 1)

end Sys2Proof.Machine
end

