-- ==== Sys2Proof/Machine/Accum.lean ====
section
/-! DEFINITION. The accumulator banks: a row update presented, queued or refused, and a queued one served (R107, R112,
R114). -/

namespace Sys2Proof.Machine

/-- A row update with a parity error found at the bank's input is poisoned, with its record: the sub-unit is 3, or 4 for
the collector (R402, R403). -/
def State.accParity (s : State) (die requester : Nat) (req : AccReq) (parity : Bool) : AccReq × State :=
  if parity then ({ req with poison := true }, s.parityError die (if requester = 40 then 4 else 3) 0) else (req, s)

/-- Whether a bank has accepted an update in this cycle (R107). -/
def State.accTaken (s : State) (die bank : Nat) : Bool := s.arr.accBusy.get (die * 64 + bank) 0 = s.cycle + 1

/-- The source of a requester's row updates (R263, R265). -/
def rowSource (requester : Nat) : PrioSource := if requester = 40 then .collector else .engine

/-- The request of a requester that waits at an accumulator bank, or a new one (R264). -/
def State.rowWaiter (s : State) (die bank requester : Nat) : Waiter :=
  ((s.arbiter (.accBank die bank)).waiters.find? fun w => w.port = requester).getD (s.newWaiter requester (rowSource requester) .none)

/-- A requester no longer waits at a bank: its row is accepted or queued, which wins the round (R267). -/
def State.rowWon (s : State) (die bank requester : Nat) : State :=
  s.putWaiters (.accBank die bank) ((s.arbiter (.accBank die bank)).waiters.filter fun w => w.port ≠ requester)

/-- A requester has lost a round at a bank: its row found the conflict queue full (R114, R264, R267). -/
def State.rowLost (s : State) (die bank requester : Nat) : State :=
  let w := s.rowWaiter die bank requester
  let s1 := s.countLost [w]
  s1.putWaiters (.accBank die bank) (((s1.arbiter (.accBank die bank)).waiters.filter fun w => w.port ≠ requester) ++ [w.lost])

/-- What presenting the next row of a requester's flush does (R107, R112, R114): accepted where the bank is free and nothing is queued,
placed in the conflict queue, or refused by a full one, when the flush stalls for the cycle and the request loses the round (R267). A row of a slot beyond the window reaches
no bank (R105). A pre-reducer presents one row a cycle, and its lanes must have ended the row's segment. -/
def State.presentRow (s : State) (i die requester : Nat) (errs : List WordErr) (parity : Bool) : State :=
  let ran := ((s.op i).die die).ran
  let f := (s.flushOf die requester).at ran
  match f.full with
  | [] => s
  | req :: _ =>
    if f.sentAt = s.cycle + 1 then s
    else
      let took := s.putFlush die requester (f.sent ran s.cycle true)
      match req.row with
      | none => took.accApply i die req []
      | some k =>
        let b := accBank k
        let q := s.confOf die b
        if 16 ≤ q.length then
          (((s.putFlush die requester (f.sent ran s.cycle false)).bump 0x713003 1).opCount i fun c => { c with confStall := c.confStall + 1 }).rowLost
            die b requester
        else
          let x := (took.rowWon die b requester).accParity die requester req parity
          if q = [] ∧ s.accTaken die b = false then x.2.accApply i die x.1 errs
          else (x.2.bump 0x713002 1).putConf die b (q ++ [x.1])

/-- A row update is presented to its bank by its requester (R107, R112, R114). -/
def execAccRowUpdate (die requester : Nat) (errs : List WordErr) (parity : Bool) (s : State) : Out :=
  match s.opAt die .running with
  | some i => .next (if s.held die then s else s.presentRow i die requester errs parity)
  | none => .next s

/-- A bank serves the oldest update of its conflict queue, reading its row with the errors found in it (R107, R114). -/
def execConflictQueueServe (die : Nat) (q : BankServe) (s : State) : Out :=
  match s.opAt die .running, s.confOf die q.bank with
  | some i, req :: rest =>
    if s.accTaken die q.bank then .next s
    else .next ((s.putConf die q.bank rest).accApply i die req q.errs)
  | _, _ => .next s

end Sys2Proof.Machine
end

