-- ==== Sys2Proof/Machine/Welt.lean ====
section
/-! DEFINITION. The welt network's commands: frames at a receiving port (R251 to R254, R404) and arbiters (R263 to R270). -/

namespace Sys2Proof.Machine

/-! ## Frames -/

/-- The beats of a frame after the parity check: a beat that fails it is forwarded poisoned (R252). -/
def checkedBeats (l : List Beat) (bad : List Nat) : List Beat :=
  l.zipIdx.map fun b => if bad.contains b.2 then { b.1 with poison := true } else b.1

/-- The frame of a link that a port receives now: the oldest that has arrived (R256). -/
def State.frameAt (s : State) (die port : Nat) : Option LinkFrame :=
  s.net.flying.find? fun f => decide (f.die = die) && decide (f.port = port) && decide (f.due ≤ s.cycle)

/-- A port takes a frame in this cycle: one at most (R251). -/
def State.portTaken (s : State) (die port : Nat) : Bool := s.net.taken.get (die * 5 + port) 0 = s.cycle + 1

/-- A port has taken its frame of this cycle. -/
def State.takePort (s : State) (die port : Nat) : State :=
  { s with net := { s.net with taken := s.net.taken.set (die * 5 + port) (s.cycle + 1) 0 } }

/-- A transfer whose header is uncorrectable is discarded wherever the receiving side of its link holds it, and the die that sent it is
lost with cause 4 (R404). -/
def State.dropXfer (s : State) (die port : Nat) (x : Xfer) : State :=
  let s1 := s.putBuf (x.bufKey die port) ((s.buf (x.bufKey die port)).filter fun y => y.id ≠ x.id)
  let s2 : State := { s1 with net := { s1.net with
    flying := s1.net.flying.filter fun f => !(f.die = die ∧ f.port = port ∧ f.xfer.id = x.id)
    ending := s1.net.ending.filter fun y => !(y.1 = die ∧ y.2.id = x.id) } }
  match linkPeer die port with
  | some d => s2.noteLost d 4
  | none => s2

/-- The parity errors of a frame counted and recorded, beat by beat (R252, R403). -/
def State.badBeats (s : State) (die n : Nat) : State := (List.range n).foldl (fun s _ => s.parityError die 8 0) s

/-- A frame that has crossed a link reaches its port: its parity is checked, and its beats go to the port's buffer or leave at their
destination (R252, R254, R404). -/
def State.receiveFrame (s : State) (f : LinkFrame) (bad : List Nat) (headerBad : Bool) : State :=
  let s1 : State := { s with net := { s.net with flying := s.net.flying.erase f } }
  if headerBad then s1.dropXfer f.die f.port f.xfer
  else
    let hit := bad.filter fun i => i < f.xfer.beats.length
    (s1.badBeats f.die hit.length).takeBeats f.die f.port { f.xfer with beats := checkedBeats f.xfer.beats hit }

/-- A frame at a receiving port (R251, R252, R254, R404): the one that has crossed the port's link, or, at a local port and at an edge
die's link, one that the units there send. A port that is not bonded receives none (R19), and a
fenced die's switch takes up nothing (R259). -/
def execWeltFrameReceive (die : Nat) (port : Dir) (x : FrameIn) (s : State) : Out :=
  let p := dirNumber port
  if !s.railsUp ∨ s.fenced die ∨ s.portTaken die p then .next s
  else match s.frameAt die p with
    | some f => .next ((s.takePort die p).receiveFrame f x.bad x.headerBad)
    | none =>
      match x.own, (if p = 4 then some die else linkPeer die p) with
      | some f, some src =>
        if die < 20 ∧ (p = 4 ∨ 20 ≤ src) ∧ s.fenced src = false then
          if x.headerBad then .next (if p = 4 then s else (s.takePort die p).noteLost src 4)
          else
            let hit := if p = 4 then [] else x.bad.filter fun i => i < f.beats.length
            .next (((s.takePort die p).badBeats die hit.length).enterFrame src die p { f with beats := checkedBeats f.beats hit })
        else .next s
      | _, _ => .next s

/-! ## Banks and channel ports -/

/-- A bank or channel port has accepted a request in this cycle, or can accept none: a channel's queue is full (R191, R198). -/
def State.resourceBusy (s : State) (id : ArbId) : Bool :=
  match id with
  | .spBank d b => s.bankTaken d b
  | .hbmPort d c => !s.channelFree (d * 16 + c)
  | _ => false

/-- The resource that a request is for. -/
def State.jobFits (s : State) (id : ArbId) (j : Job) : Bool :=
  let hbm := fun (d c addr : Nat) => match s.place addr with
    | .hbm x off => decide (x = d) && decide (hbmChannel off = c)
    | _ => false
  match id, j with
  | .spBank _ b, .spAccess off _ _ _ => decide (spBank (off % 0x2000000) = b)
  | .hbmPort d c, .hbmRead addr _ => hbm d c addr
  | .hbmPort d c, .hbmWrite addr _ _ => hbm d c addr
  | .hbmPort d c, .hbmMerge addr _ _ _ _ _ => hbm d c addr
  | _, _ => false

/-- What a granted request does (R191, R198, R202, R263). -/
def State.doJob (s : State) (id : ArbId) (w : Waiter) : State :=
  match id, w.job with
  | .spBank d _, .spAccess off wr errs parity =>
    let o := off % 0x2000000 / 64 * 64
    let rq := match w.reply with
      | some x => Requester.remote x.1
      | none => .engine d w.port
    let s1 := s.bankAccess rq d o wr errs parity
    match w.reply, s1.mem.delivered.find? fun x => x.rq = rq with
    | some x, some l => s1.owe { die := d, due := s.cycle + 3, dst := x.1, prio := x.2, addr := scratchAddr d o, beat := { data := l.data, poison := l.poison } }
    | _, _ => s1
  | .hbmPort d _, .hbmRead addr rq => s.acceptRead d (addr % 0x800000000) addr rq (s.cycle - w.stamp) w.reply
  | .hbmPort d c, .hbmWrite addr data poison =>
    ((s.takeChannel (d * 16 + c) 64).writeLine (addr / 64 * 64) allBytes (fit 64 data) poison).settle
  | .hbmPort d c, .hbmMerge addr enable data poison rq err =>
    ((s.takeChannel (d * 16 + c) 128).mergeLine (.hbm d (addr % 0x800000000)) (addr / 64) enable data poison rq err).settle
  | _, _ => s

/-- The contenders among requests: of each port the one of highest rank, since a unit that presents several counts as one (R263). -/
def State.contenders (s : State) (l : List Waiter) : List Waiter :=
  (dedup (l.map Waiter.port)).filterMap fun p => s.winner (l.filter fun w => w.port = p)

/-- A round among requests for a scratchpad bank or an HBM channel port: one is granted and performed, the other contenders lose (R263,
R264). Where the resource accepts nothing in this cycle no round is held. -/
def State.bankRound (s : State) (id : ArbId) (arrivals : List Waiter) : State :=
  let l := (s.arbiter id).waiters ++ arrivals
  let field := s.contenders l
  match s.winner field with
  | none => s.putWaiters id l
  | some w =>
    if s.resourceBusy id then s.putWaiters id l
    else
      let losers := field.erase w
      let s1 := (s.countLost losers).putWaiters id ((l.erase w).map fun x => if losers.contains x then x.lost else x)
      s1.doJob id w

/-- The requesters of a die whose next row is for a bank: contenders at it in this cycle (R112, R263). -/
def State.rowContenders (s : State) (i die bank : Nat) : List Waiter :=
  let ran := ((s.op i).die die).ran
  (List.range 41).filterMap fun r =>
    let f := (s.flushOf die r).at ran
    match f.full with
    | req :: _ => if f.sentAt ≠ s.cycle + 1 ∧ req.row.any (fun k => accBank k = bank) then some (s.rowWaiter die bank r) else none
    | [] => none

/-- Requests in the order of their ranks (R264). -/
def State.ranked (s : State) (l : List Waiter) : List Waiter := sortBy (fun a b => s.winner [a, b] = some a) l

/-- A round of an accumulator bank: every requester that has a row for it presents it, in rank order, so that the first is accepted and
the others enter the conflict queue or, where it is full, lose (R114, R263). -/
def State.accRound (s : State) (die bank : Nat) : State :=
  match s.opAt die .running with
  | none => s
  | some i =>
    if s.held die ∨ s.accTaken die bank then s
    else (s.ranked (s.rowContenders i die bank)).foldl (fun s w => s.presentRow i die w.port [] false) s

/-! ## Link directions and egress ports -/

/-- The direction of a welt link is reserved for a collector slot in this cycle (R270). -/
def State.slotNow (s : State) (id : ArbId) : Bool :=
  match id with
  | .weltLink d dir => decide (dir ≠ .localPort) && decide (s.cycle < s.net.reserved.get (d * 4 + dirNumber dir) 0)
  | _ => false

/-- A lane of a port may send a flit now: a message waits, the link carries data, a credit is held, fewer than 1,024 flits are
unacknowledged, and a multicast message has its context (R281, R282, R297). -/
def State.laneReady (s : State) (p l : Nat) : Bool :=
  let x := s.port p
  match x.txQueue.getD l [] with
  | [] => false
  | m :: _ =>
    s.portLinked p && x.retrainSince.isNone && decide (x.credits.getD l 0 ≠ 0) && decide (x.replay.length < 1024) &&
      (decide (l ≠ 2) || x.contexts.contains (m.dst - 0xC00) || decide (x.contexts.length < 64))

/-- The transfers at the head of the input buffers of a die that go on by a port, with their buffers: of the other four input ports (R263). -/
def State.headsFor (s : State) (die port : Nat) : List (Nat × Nat × Xfer) :=
  let active := s.activeDies
  ((List.range 5).filter fun p => p ≠ port).flatMap fun p => (portBufs die p).filterMap fun k =>
    match s.buf k with
    | x :: _ => (match x.next active die with
      | some y => if y.1 = port then some (p, k, x) else none
      | none => none)
    | [] => none

/-- The source whose priority ranks a transfer at a die: its own while it is at its source, else the one its header carries (R266). -/
def Xfer.sourceAt (x : Xfer) (die : Nat) : PrioSource := if x.src = die then x.source else .carried x.prio

/-- The request of an arbiter that a contender is, as it waits there, or new (R264). -/
def State.asWaiter (s : State) (id : ArbId) (port key xfer : Nat) (src : PrioSource) : Waiter :=
  match (s.arbiter id).waiters.find? fun w => w.port = port && w.key = key && w.xfer = xfer with
  | some w => { w with src := src }
  | none => { s.newWaiter port src .none with key := key, xfer := xfer }

/-- The contenders of a link direction, those without a credit left out, or the lanes of a port that may send (R254, R263, R280). -/
def State.linkField (s : State) (id : ArbId) : List Waiter :=
  match id with
  | .weltLink d dir =>
    match linkEnd d (dirNumber dir) with
    | none => []
    | some e =>
      if s.fenced e.1 then []
      else (s.headsFor d (dirNumber dir)).filterMap fun h =>
        if s.credits (h.2.2.bufKey e.1 e.2) = 0 then none else some (s.asWaiter id h.1 h.2.1 h.2.2.id (h.2.2.sourceAt d))
  | .egress p => ((List.range 4).filter fun l => s.laneReady p l).map fun l => s.asWaiter id l l 0 (.lane l)
  | _ => []

/-- The adds to one object that wait for one output port, with their buffers and values, become one of their sum, and each merged away
counts (R262). -/
def State.mergeTo (s : State) (k : Nat) (adds : List (Nat × U64)) : State :=
  match adds with
  | a :: b :: rest =>
    let sum := ((b :: rest).map Prod.snd).foldl (· + ·) a.2
    let s1 := (b :: rest).foldl (fun s x => s.putBuf x.1 ((s.buf x.1).drop 1)) s
    let keep := match s1.buf a.1 with
      | x :: l => { x with load := .add k sum } :: l
      | [] => []
    (s1.putBuf a.1 keep).bump 0x718007 (b :: rest).length
  | _ => s

/-- The adds at the head of the buffers of a die that wait for one output port: object, buffer and value. -/
def State.waitingAdds (s : State) (die port : Nat) : List (Nat × Nat × U64) :=
  (s.headsFor die port).filterMap fun h => match h.2.2.load with
    | .add k v => if h.2.2.more = 0 ∧ h.2.2.cls = .request then some (k, h.2.1, v) else none
    | _ => none

/-- Two or more adds to one object that wait for one output port become one of their sum (R262). -/
def State.mergeAdds (s : State) (die port : Nat) : State :=
  let adds := s.waitingAdds die port
  (dedup (adds.map Prod.fst)).foldl (fun s k => s.mergeTo k ((adds.filter fun a => a.1 = k).map Prod.snd)) s

/-- A frame of a transfer sent on a welt link, 12 cycles long, which keeps its markers; the beats leave the buffer, and with the last
of them the transfer does (R251, R252, R254, R256, R266). -/
def State.sendFrame (s : State) (die port k : Nat) (x : Xfer) : State × Bool :=
  match linkEnd die port, x.next s.activeDies die with
  | some e, some y =>
    let n := min (min 7 (s.credits (x.bufKey e.1 e.2))) x.beats.length
    let left := x.beats.drop n
    let done := decide (left = []) && decide (x.more = 0)
    let prio := s.priority (x.sourceAt die)
    let part := { x with beats := x.beats.take n, more := left.length + x.more, down := y.2, prio := prio }
    let rest := (s.buf k).drop 1
    let s1 := (if n = 0 then s else s.bump 0x718001 n).putBuf k (if done then rest else { x with beats := left } :: rest)
    if n = 0 ∧ !done then (s, false)
    else ({ s1 with net := { s1.net with flying := s1.net.flying ++ [{ die := e.1, port := e.2, due := s.cycle + 12, xfer := part }] } }, done)
  | _, _ => (s, true)

/-- What the owner of a link direction or egress port sends in a cycle, and whether its transfer or message ends with it: a frame of up
to seven beats, or a flit (R268, R279). -/
def State.sendOwner (s : State) (id : ArbId) (w : Waiter) : State × Bool :=
  match id with
  | .weltLink d dir =>
    match (s.buf w.key).head? with
    | some x => if x.id = w.xfer then s.sendFrame d (dirNumber dir) w.key x else (s, true)
    | none => (s, true)
  | .egress p =>
    let s1 := s.sendData p w.key
    (s1, decide (((s1.port p).txQueue.getD w.key []).length < ((s.port p).txQueue.getD w.key []).length) || !s.laneReady p w.key)
  | _ => (s, true)

/-- A round of a free link direction or egress port: the winner sends from the next cycle (R263, R264, R269). -/
def State.linkRound (s : State) (id : ArbId) (l : List Waiter) : State :=
  match s.winner l with
  | none => s.putArbiter { id := id, waiters := [], holder := none, round := s.cycle + 1 }
  | some w =>
    let losers := l.erase w
    (s.countLost losers).putArbiter { id := id, waiters := losers.map Waiter.lost, holder := some { w := w, since := s.cycle }, round := s.cycle + 1 }

/-- The owner's rank in a round: its priority as it stands and its age at the grant (R266, R269). -/
def State.holderRank (s : State) (id : ArbId) (w : Waiter) : Nat :=
  let src := match id with
    | .weltLink d _ => ((s.buf w.key).head?.map fun x => x.sourceAt d).getD w.src
    | _ => w.src
  s.priority src + w.age

/-- One cycle of a link direction or egress port, with the requests present: its owner sends, a round is held in the owner's last data
cycle, and a waiter that outranks the owner by more than the margin preempts it (R263, R268 to R270). -/
def State.linkCycle (s : State) (id : ArbId) : State :=
  let a := s.arbiter id
  let l := s.linkField id
  let wait := fun (s : State) (h : Option Holder) (l : List Waiter) => s.putArbiter { id := id, waiters := l, holder := h, round := s.cycle + 1 }
  match a.holder with
  | none => if s.slotNow id then wait s none l else s.linkRound id l
  | some h =>
    let others := l.filter fun x => !(x.key = h.w.key && x.xfer = h.w.xfer)
    if s.slotNow id ∨ s.cycle ≤ h.since then wait s (some h) others
    else
      let x := s.sendOwner id h.w
      if x.2 then x.1.linkRound id (x.1.linkField id)
      else
        match x.1.winner (others.filter fun y => x.1.holderRank id h.w + x.1.get 0x340005 < x.1.rank y) with
        | none => wait x.1 (some h) others
        | some y =>
          let losers := h.w :: others.erase y
          ((x.1.bump 0x718003 1).countLost losers).putArbiter
            { id := id, waiters := losers.map Waiter.lost, holder := some { w := y, since := s.cycle }, round := s.cycle + 1 }

/-- One cycle of a link direction or egress port: once in a cycle, and not at a fenced die (R259, R268). -/
def State.linkTurn (s : State) (id : ArbId) : State :=
  if (s.arbiter id).round = s.cycle + 1 then s
  else match id with
    | .weltLink d dir => if s.fenced d then s else (s.mergeAdds d (dirNumber dir)).linkCycle id
    | .egress p => (s.feedMirror p).linkCycle id
    | _ => s

/-- One cycle of an arbiter, with the requests that reach a bank or channel port in it; at an accumulator bank, a link direction and an
egress port the contenders are what waits there (R263 to R270). -/
def execArbiterGrant (arb : ArbId) (arrivals : List ArbReq) (s : State) : Out :=
  if !s.railsUp then .next s
  else
    let new := (arrivals.filter fun r => s.jobFits arb r.job).map fun r => s.newWaiter r.port r.src r.job
    match arb with
    | .weltLink _ _ => .next (s.linkTurn arb)
    | .egress _ => .next (s.linkTurn arb)
    | .accBank d b => .next (s.accRound d b)
    | .spBank _ _ => .next (s.bankRound arb new)
    | .hbmPort _ _ => .next (s.bankRound arb new)

end Sys2Proof.Machine
end

