-- ==== Sys2Proof/Machine/Power.lean ====
section
/-! DEFINITION. Power states (R376 to R382), power caps (R384 to R386), thermal throttling and trip (R387, R388), and the supplies
(R389 to R391). -/

namespace Sys2Proof.Machine

/-- The power state machine replaced. -/
def State.putPower (s : State) (p : PowerState) : State := { s with isl := { s.isl with power := p } }

/-! ## Idleness and descent -/

/-- The first seven conditions of R377. -/
def State.idle (s : State) : Bool :=
  s.arr.ops.isEmpty && (s.streams.threads.all fun x => decide (x.2.mode ≠ .running)) && decide (ringHeld (s.ring 0) = 0) &&
    s.hub.held.isEmpty && s.net.bufs.isEmpty && s.net.flying.isEmpty && s.net.answers.isEmpty && s.fab.inbox.isEmpty && s.fab.transit.isEmpty && s.isl.power.heldAcc.isEmpty

/-- No vector is pending, as Hold and every lower state need (R377). -/
def State.quiet (s : State) : Bool := s.hub.vectors.all fun x => !x.2.pend

/-- The deepest state that 2000:02 allows (R378, R400). -/
def State.deepest (s : State) : Nat :=
  let v := s.get 0x200002
  if v = 0 then 1 else min v 4

/-- The module enters Poise in a cycle in which it is idle (R378). -/
def execEnterPoise (s : State) : Out :=
  if !s.railsUp ∨ s.get 0x200006 ≠ 0 ∨ !s.idle then .next s
  else .next (((s.putPower { s.isl.power with since := s.tick }).put 0x200006 1).bump 0x711001 1)

/-- The module decides to descend to state `k` after `dwell` ticks in the state above (R377, R378). -/
def State.descend (s : State) (k dwell : Nat) : State :=
  let p := s.isl.power
  if !s.railsUp ∨ s.get 0x200006 + 1 ≠ k ∨ s.deepest < k ∨ p.entering.isSome ∨ p.exiting ∨ !s.idle ∨ !s.quiet ∨ s.tick < p.since + dwell then s
  else s.putPower { p with entering := some k }

/-- From Poise to Hold (R378). -/
def execEnterHold (s : State) : Out := .next (s.descend 2 (s.get 0x200003))

/-- From Hold to Rest (R378). -/
def execEnterRest (s : State) : Out := .next (s.descend 3 (s.get 0x200004))

/-- From Rest to Dormant (R378). -/
def execEnterDormant (s : State) : Out := .next (s.descend 4 (s.get 0x200005))

/-- The banks of a die that a mask names lose their contents and are powered down (R194). -/
def State.loseBanks (s : State) (d mask : Nat) : State :=
  let gone := fun a => 0xF0000000000 + d * 0x2000000 ≤ a && a < 0xF0000000000 + (d + 1) * 0x2000000 && bit mask (spBank (a % 0x2000000))
  let s1 := s.put (0x402201 + d) (maskOf 64 fun b => s.bankAwake d b && !bit mask b)
  { s1 with mem := { s1.mem with bytes := s1.mem.bytes.filter fun c => !gone c.1, spFlag := s1.mem.spFlag.filter fun c => !gone (c.1 * 64),
                                 spFill := s1.mem.spFill.filter fun x => !(x.1 / 64 = d ∧ bit mask (x.1 % 64)) } }

/-- Entering Rest: the enabled banks that are not pinned are switched off (R194, R378, R380). -/
def State.sleepBanks (s : State) : State :=
  (List.range 20).foldl (fun s d => s.loseBanks d (maskOf 64 fun b => !bit (s.get (0x402101 + d)) b)) s

/-- Entering Dormant: HBM and every bank lose their contents, and the bits of the hub cores, the dies and the stacks clear
(R380, R382). -/
def State.loseHbm (s : State) : State :=
  let m := s.mem
  let hbm := fun a => decide (a < 0xA000000000)
  { s with mem := { m with bytes := m.bytes.filter fun c => !hbm c.1, check := m.check.filter fun c => !hbm (c.1 * 64),
                           tag := m.tag.filter fun c => !hbm (c.1 * 64), reads := [], writeback := m.writeback.filter fun c => !hbm (c.1 * 64),
                           scrub := m.scrub.filter fun c => !hbm (c.1 * 64), filled := 0 } }

/-- The readiness bits that Dormant clears (R382). -/
def dormantBits : List (Nat × Bool) := (2, false) :: ((List.range 30).map fun i => (14 + i, false))

/-- What the entry to a state below Poise does (R378, R380, R382). -/
def State.entryWork (s : State) (k : Nat) : State :=
  if k = 3 then s.sleepBanks
  else if k = 4 then (((List.range 20).foldl (fun s d => s.loseBanks d (2 ^ 64 - 1)) s).loseHbm).setReady dormantBits
  else s

/-- The work of an entry is done: the module is in the state, and its dwell begins (R378). -/
def execStateEntryComplete (s : State) : Out :=
  let p := s.isl.power
  match p.entering with
  | none => .next s
  | some k =>
    let s1 := ((s.entryWork k).put 0x200006 k).bump (0x711000 + k) 1
    .next ((s1.putPower { s1.isl.power with entering := none, since := s.tick }).refreshCopy)

/-! ## Waking -/

/-- A held access takes effect as it would in Poise (R379). -/
def State.perform (s : State) (acc : Access) : State :=
  match acc with
  | .ringPush _ ring entry => s.ringPush ring entry
  | .ringIndex ring which v => s.ringIndex ring which v
  | .syncSet obj v => s.syncSet obj v.toNat
  | .syncAdd obj v => s.syncWindowAdd obj v.toNat
  | .vector v => s.raiseVector v
  | .bar0 off len wr => s.serveBar0 off len wr
  | .bar2 off len wr => s.serveBar2 off len wr
  | .rootPort q addr len wr msi => s.serveRootPort q addr len wr msi
  | .fabRead m => s.serveRead m
  | .fabWrite m => s.serveWrite m
  | .fabSignal m => s.serveSignal m
  | .fabRingPush m => s.serveRingPush m
  | .fabMulticast m => s.serveMulticast m
  | .mirror seq addr data poison => s.serveMirror seq addr data poison
  | .window core off len wr => s.serveWindow core off len wr

/-- A wake event (R379, R381): it ends an entry or starts the exit, and waits; in Poise and Run it costs nothing. -/
def execWakeEvent (acc : Access) (s : State) : Out := .next (s.access acc fun s => (s.perform acc).settle)

/-- Leaving a state (R194, R197, R382): lost banks are filled again, at once where the exit from Rest includes it; from Dormant
the hub cores' bit sets, and the dies and stacks follow as their fills complete. -/
def State.exitWork (s : State) : State :=
  let k := s.get 0x200006
  if k = 3 then (List.range 20).foldl (fun s d => s.put (0x402201 + d) (s.get (0x402001 + d))) s
  else if k = 4 then
    let fills := (List.range 20).flatMap fun d =>
      ((List.range 64).filter fun b => bit (s.get (0x402001 + d)) b).map fun b => (d * 64 + b, s.cycle + 1)
    let s1 : State := { s with mem := { s.mem with spFill := fills.foldl (fun m x => SMap.insert m x.1 x.2) s.mem.spFill } }
    (List.range 20).foldl (fun s d => s.readyDie d) (s1.setReady [(2, true)])
  else s

/-- The exit completes: the module is in Poise, and the accesses that waited take effect in order (R379). -/
def execExitComplete (s : State) : Out :=
  if !s.isl.power.exiting then .next s
  else
    let s1 := s.exitWork.put 0x200006 1
    let s2 := s1.putPower { s1.isl.power with exiting := false, heldAcc := [], since := s.tick }
    .next (s.isl.power.heldAcc.foldl (fun s a => (s.perform a).settle) s2)

/-! ## Caps -/

/-- The cap in mW that 2000:01 selects (R384, R400). -/
def State.cap (s : State) : Nat :=
  match s.get 0x200001 with
  | 1 => 700000
  | 2 => 540000
  | _ => 860000

/-- The mean of the newest `n` samples. -/
def meanOf (n : Nat) (l : List Nat) : Nat := listSum (l.take n) / max 1 (min n l.length)

/-- The average of the last 1 ms, which is 10 samples, exceeds 1.10 × the cap (R386). -/
def State.overLimit (s : State) : Bool := decide (11 * s.cap < 10 * meanOf 10 s.isl.power.samples)

/-- The cycles of every 64 that power holds cover: those of the cap, and 56 at 103.0 °C (R386, R387). -/
def PowerState.holdCycles (p : PowerState) : Nat := if p.hot then 56 else p.capHold

/-- The power holds in force asserted on every active die; each starts now where it was not (R386). -/
def State.assertHolds (s : State) : State :=
  let n := s.isl.power.holdCycles
  s.activeDies.foldl (fun s d =>
    let h := s.hold d
    s.putHold d { h with power := if n = 0 then none else match h.power with | some p => some (p.1, n) | none => some (s.cycle, n) }) s

/-- A sample of the input power, every 100 µs (R384, R386). -/
def execPowerSample (milliwatts : Nat) (s : State) : Out :=
  if !s.isl.trust.up then .next s
  else
    let samples := (milliwatts :: s.isl.power.samples).take 100
    let s1 := (s.putPower { s.isl.power with samples := samples }).put 0x200008 (meanOf 100 samples)
    if s1.isl.power.capHold = 0 ∧ s1.railsUp ∧ s1.overLimit then
      .next (s1.putPower { s1.isl.power with capHold := 32, holdsSince := s1.tick }).assertHolds
    else if s1.isl.power.capHold ≠ 0 ∧ meanOf 10 samples ≤ s1.cap then
      .next (s1.putPower { s1.isl.power with capHold := 0 }).assertHolds
    else .next s1

/-- The comparison at the end of every 10 ms (R385). -/
def execCapStepAdjust (s : State) : Out :=
  let p := s.isl.power
  let avg := s.get 0x200008
  if !s.railsUp ∨ s.tick < p.lastCap + 125000 then .next s
  else
    let s1 := s.putPower { p with lastCap := s.tick }
    if s.cap < avg ∧ p.capStep < 7 then
      .next (((s1.putPower { s1.isl.power with capStep := p.capStep + 1 }).bump 0x711005 1).requestClock)
    else if 100 * avg < 95 * s.cap ∧ !p.throttled then
      .next (s1.putPower { s1.isl.power with capStep := p.capStep - 1 }).requestClock
    else .next s1

/-- Power holds of 1 ms have not brought the average down: they cover 56 of every 64 cycles (R386). -/
def execPowerHoldEscalate (s : State) : Out :=
  let p := s.isl.power
  if !s.railsUp ∨ p.capHold ≠ 32 ∨ s.tick < p.holdsSince + 12500 ∨ !s.overLimit then .next s
  else .next (s.putPower { p with capHold := 56 }).assertHolds

/-! ## Junctions -/

/-- A die whose junction is reported: its rail is on, and it is not gated with the compute rails in Hold and below (R376, R387,
R396). -/
def State.powered (s : State) (d : Nat) : Bool :=
  s.railsUp && !s.isl.rails.off.contains d && (decide (20 ≤ d) || decide (s.get 0x200006 < 2))

/-- A reading of die `d` in 0.1 °C as 2040 holds it. -/
def State.tj (s : State) (d : Nat) : Int := toSigned 16 (s.get (0x204001 + d))

/-- The hottest powered die, the lower number of equals, and its reading. -/
def State.hottest (s : State) : Option (Nat × Int) :=
  ((List.range 25).filter s.powered).foldl (fun (b : Option (Nat × Int)) d =>
    match b with
    | none => some (d, s.tj d)
    | some x => if x.2 < s.tj d then some (d, s.tj d) else some x) none

/-- A thermal event record names the hottest die and its reading (R413). -/
def State.thermalEvent (s : State) (code : Nat) : State :=
  match s.hottest with
  | none => s
  | some x => s.event 7 code x.1 0 (leBytes 2 (ofSigned 16 x.2))

/-- The peak and trough of the hottest junction followed: a fall of 40 K below a peak that stood 40 K above the last trough is a
thermal cycle (R397). -/
def State.followCycle (s : State) (v : Int) : State :=
  let w := s.isl.wear
  let p := max w.peak v
  if w.trough + 400 ≤ p ∧ v ≤ p - 400 then
    { s.bump32 0x2F2001 1 with isl := { s.isl with wear := { w with trough := v, peak := v, thermalHours := addNow w.thermalHours 1 } } }
  else if p < w.trough + 400 ∧ v < w.trough then { s with isl := { s.isl with wear := { w with trough := v, peak := v } } }
  else { s with isl := { s.isl with wear := { w with peak := p } } }

/-- The readings stored: 2040, 2041, and the hottest of the second (R387, R396, R400). -/
def State.storeTj (s : State) (l : List Int) : State :=
  ((List.range 25).filter s.powered).foldl (fun s d =>
    let v := l.getD d 0
    let s1 := s.put (0x204001 + d) (ofSigned 16 v)
    let s2 := if toSigned 16 (s1.get (0x204101 + d)) < v then s1.put (0x204101 + d) (ofSigned 16 v) else s1
    let w := s2.isl.wear
    let old := w.secMax.get d none
    let new := match old with
      | none => v
      | some x => max x v
    { s2 with isl := { s2.isl with wear := { w with secMax := w.secMax.set d (some new) none } } }) s

/-- The trip of R388: the rails go, its record is written and counted, and heartbeats stop (`State.beats`). -/
def State.tripNow (s : State) : State :=
  let s1 := ((s.thermalEvent 3).bump 0x71100C 1).removeRails
  { s1 with isl := { s1.isl with rails := { s1.isl.rails with trip := some s.tick } } }

/-- The throttle enters (R387). -/
def State.enterThrottle (s : State) : State :=
  let p := s.isl.power
  let s1 := s.putPower { p with throttled := true, thermalStep := min 7 (s.get 0x200009 + 1), throttleSince := s.tick, hotSeen := false, coolSince := none }
  ((((s1.bump 0x711007 1).thermalEvent 1).raiseVector 2).requestClock)

/-- Every die reports its hottest junction, every 100 µs (R387, R388). -/
def execTjSample (deciC : List Int) (s : State) : Out :=
  if !s.railsUp then .next s
  else
    let s1 := s.storeTj deciC
    match s1.hottest with
    | none => .next s1
    | some x =>
      let v := x.2
      let s2 := s1.followCycle v
      if 1050 ≤ v then .next s2.tripNow
      else
        let p := s2.isl.power
        let cool := if v < 970 then (match p.coolSince with | some t => some t | none => some s.tick) else none
        let s3 := (s2.putPower { p with hot := decide (1030 ≤ v), hotSeen := p.hotSeen || decide (1000 ≤ v), coolSince := cool }).assertHolds
        .next (if 1000 ≤ v ∧ !p.throttled then s3.enterThrottle else s3)

/-- A further 1 ms in which a die read 100.0 °C or above raises the thermal step (R387). -/
def execThrottleStep (s : State) : Out :=
  let p := s.isl.power
  if !s.railsUp ∨ !p.throttled ∨ s.tick < p.throttleSince + 12500 then .next s
  else
    let step := if p.hotSeen then min 7 (p.thermalStep + 1) else p.thermalStep
    .next (s.putPower { p with thermalStep := step, throttleSince := s.tick, hotSeen := false }).requestClock

/-- Every die has read below 97.0 °C for 10 ms: the throttle ends (R387). -/
def execThrottleEnd (s : State) : Out :=
  let p := s.isl.power
  match p.coolSince with
  | none => .next s
  | some t =>
    if !s.railsUp ∨ !p.throttled ∨ s.tick < t + 125000 then .next s
    else .next ((((s.putPower { p with throttled := false, thermalStep := 0 }).thermalEvent 2).raiseVector 2).requestClock)

/-! ## Module resets and trips -/

/-- A source asks for a module reset: during a trip it comes at the trip's end and is the same reset (R388, R392, R431). -/
def State.askReset (s : State) : State := if s.isl.rails.trip.isSome ∨ !s.isl.trust.up then s else s.moduleReset

/-- 10 s after a trip began a module reset begins by itself (R388). -/
def execTripEnd (s : State) : Out :=
  match s.isl.rails.trip with
  | none => .next s
  | some t =>
    if s.tick < t + 125000000 then .next s
    else .next ({ s with isl := { s.isl with rails := { s.isl.rails with trip := none } } }).askReset

/-! ## Supplies -/

/-- The input voltage as it reads now, and the lowest since island power-up (R389). -/
def State.storeVin (s : State) (mv : Nat) : State :=
  (s.put 0x202001 mv).put 0x202002 (min mv (s.get 0x202002))

/-- The 54 V input is below 44.0 V: a warning (R389); heartbeats stop (`State.beats`). -/
def execVinWarn (mv : Nat) (s : State) : Out :=
  if !s.isl.trust.up then .next s
  else
    let s1 := s.storeVin mv
    if 44000 ≤ mv ∨ s1.isl.power.vinWarn then .next s1
    else .next ((((s1.putPower { s1.isl.power with vinWarn := true }).bump 0x711008 1).event 8 1 25 0 (leBytes 4 mv)).raiseVector 1)

/-- The 54 V input has been above 45.0 V for 10 ms: the warning ends (R389). -/
def execVinWarnEnd (mv : Nat) (s : State) : Out :=
  if !s.isl.trust.up then .next s
  else
    let s1 := s.storeVin mv
    if mv ≤ 45000 ∨ !s1.isl.power.vinWarn then .next s1
    else .next (((s1.putPower { s1.isl.power with vinWarn := false }).event 8 2 25 0 (leBytes 4 mv)).raiseVector 1)

/-- The 54 V input is below 40.0 V: a module reset, held (R389, R392). -/
def execVinReset (mv : Nat) (s : State) : Out :=
  if !s.isl.trust.up then .next s
  else
    let s1 := s.storeVin mv
    if 40000 ≤ mv ∨ s1.isl.rails.vinHold then .next s1
    else
      let s2 := ({ s1 with isl := { s1.isl with rails := { s1.isl.rails with vinHold := true } } }).askReset
      .next (s2.bump 0x711009 1)

/-- The 54 V input has been above 44.0 V for 10 ms: its hold ends (R389). -/
def execVinResetRelease (s : State) : Out :=
  .next { s with isl := { s.isl with rails := { s.isl.rails with vinHold := false } } }

/-- A die's rail is below 95 % of its set point (R391). -/
def execRailWarn (die mv : Nat) (s : State) : Out :=
  if !s.railsUp ∨ s.isl.rails.off.contains die then .next s
  else .next (((s.bump 0x71100A 1).event 8 3 die 0 (leBytes 4 mv)).raiseVector 1)

/-- A die's rail is below 90 %: on the hub die a module reset, on any other the die is off and lost (R391, R416). -/
def execRailReset (die : Nat) (s : State) : Out :=
  if !s.railsUp ∨ s.isl.rails.off.contains die then .next s
  else if die = 24 then .next s.askReset
  else
    let s1 := (s.bump 0x71100B 1).noteLost die 1
    .next { s1 with isl := { s1.isl with rails := { s1.isl.rails with off := s1.isl.rails.off ++ [die] } } }

/-- A die's PLL loses lock (R416). -/
def execPllLockLoss (die : Nat) (s : State) : Out :=
  if !s.railsUp then .next s else if die = 24 then .next s.askReset else .next (s.noteLost die 2)

/-- A health poll of every die (R416): three missed in a row lose it. -/
def execHealthPoll (answered : List Bool) (s : State) : Out :=
  if !s.railsUp then .next s
  else
    let missed := fun d => if answered.getD d true then 0 else s.isl.rails.polls.get d 0 + 1
    let dead := (List.range 25).filter fun d => 3 ≤ missed d
    let polls := (List.range 25).foldl (fun m d => SMap.set m d (if 3 ≤ missed d then 0 else missed d) 0) s.isl.rails.polls
    let s1 : State := { s with isl := { s.isl with rails := { s.isl.rails with polls := polls } } }
    if dead.contains 24 then .next s1.askReset else .next (dead.foldl (fun s d => s.noteLost d 3) s1)

end Sys2Proof.Machine
end

