-- ==== Sys2Proof/Machine/BringUp.lean ====
section
/-! DEFINITION. Losing units as commands (R416, R417, R421, R422), module resets (R392, R431), and bring-up: the main rails, the DDR5
channels and the management link (R210, R393, R440). -/

namespace Sys2Proof.Machine

/-! ## Lost units -/

/-- The hub die is lost by cause 4 or 5: its record, no completion record, and the module lost (R417, R422). -/
def State.loseHub (s : State) (l : List (Nat × Nat)) : State := ((s.lossRecords l).putOps []).moduleLost

/-- The dies found lost are handled in one pass (R416, R417): a stack lost by cause 6 is fenced with its dies. -/
def execDieLost (s : State) : Out :=
  match s.isl.rails.lostPending with
  | [] => .next s
  | l =>
    let s1 : State := { s with isl := { s.isl with rails := { s.isl.rails with lostPending := [] } } }
    if l.any fun x => x.1 = 24 then .next (s1.loseHub l).settle
    else
      let stks := maskOf 10 fun k => (l.any fun x => x.2 = 6 && x.1 < 20 && dieStack x.1 = k)
      .next (s1.loseUnits l stks).settle

/-- An HBM stack loses a channel: both of its dies are lost with cause 6 (R416). -/
def execHbmChannelLost (stack : Nat) (s : State) : Out :=
  if !s.railsUp then .next s else .next ((stackDies stack).foldl (fun s d => s.noteLost d 6) s)

/-- A DDR5 DIMM or channel fails: STATE 5, its readiness bit clears, and the layout stays (R394, R421). -/
def execDdrChannelFailure (channel : Nat) (s : State) : Out :=
  let st := s.ddrState channel
  if !s.railsUp ∨ ¬(1 ≤ st ∧ st ≤ 3) then .next s
  else
    let s1 := (s.putDdrState channel 5).setReady [(44 + channel, false)]
    .next (if st = 3 then s1 else s1.chooseLayout (channel / 4))

/-! ## Module reset -/

/-- A module reset (R392). -/
def execModuleReset (s : State) : Out := .next s.askReset

/-- A write to 2000:0B (R392). -/
def execModuleResetWrite (_ : Byte) (s : State) : Out := s.objectWritten State.resetWrite

/-- The delay after a write to 2000:0B is over, and the module reset begins (R392). -/
def execModuleResetDelayExpire (s : State) : Out :=
  match s.isl.trust.resetAt with
  | none => .next s
  | some t => if s.tick < t then .next s else .next (s.putTrust { s.isl.trust with resetAt := none }).askReset

/-- MRST_N is low and has been for 1 µs: a module reset, held (R431). -/
def execMrstNAssert (s : State) : Out :=
  if s.isl.rails.mrstHold then .next s
  else .next ({ s with isl := { s.isl with rails := { s.isl.rails with mrstHold := true } } }).askReset

/-- MRST_N is high: its hold ends (R431). -/
def execMrstNRelease (s : State) : Out :=
  .next { s with isl := { s.isl with rails := { s.isl.rails with mrstHold := false } } }

/-! ## The main rails -/

/-- The image has been accepted: the island is up and not in recovery (R330, R440). -/
def State.booted (s : State) : Bool := s.isl.trust.up && s.get 0x600001 == 1

/-- The sequencer begins to ramp the rails (R392, R440): once the image is accepted and the 54 V input has been good for 10 ms, which
the command's coming says, with no source holding a reset. The DIMMs fitted are found. -/
def execMainRailsRamp (slots : List (Option Dimm)) (s : State) : Out :=
  let r := s.isl.rails
  if !s.booted ∨ r.up ∨ r.ramping ∨ s.resetHeld ∨ s.isl.power.vinWarn then .next s
  else .next { s with isl := { s.isl with rails := { r with ramping := true } }, mem := { s.mem with dimms := slots } }

/-- RATE of R214 for a DIMM's rating: the highest step not above it, at most 6,400 MT/s (R209). -/
def ddrRate (mts : Nat) : Nat :=
  if mts < 4800 then 0 else if mts < 5200 then 1 else if mts < 5600 then 2 else if mts < 6000 then 3 else if mts < 6400 then 4 else 5

/-- WIDTH of R214. -/
def ddrWidth (w : Nat) : Nat := if w = 4 then 0 else if w = 8 then 1 else if w = 16 then 2 else 3

/-- A DIMM that meets the requirements of R209. -/
def dimmSupported (d : Dimm) : Bool := d.ecc8 && (d.width == 4 || d.width == 8) && decide (16 ≤ d.capGiB) && decide (4800 ≤ d.mts)

/-- What a channel reports of the devices on its DIMM (R214). -/
def dimmDevices (d : Dimm) : Nat := ddrWidth d.width * 4 + (if d.stacked then 1 else 0)

/-- The report of a channel once its slot's SPD is read: empty, unsupported, or in training (R209, R210, R214). -/
def ddrReport (slot : Option Dimm) : Nat :=
  match slot with
  | none => 0
  | some d => (if dimmSupported d then 1 else 4) * 2 ^ 24 + dimmDevices d

/-- The report of a channel once its training is done: filling at the rate of R209, or training failed (R209, R210, R214). -/
def ddrTrained (d : Dimm) : Nat :=
  if !d.trains then 5 * 2 ^ 24 + dimmDevices d
  else 2 * 2 ^ 24 + ddrRate d.mts * 2 ^ 20 + min d.capGiB 256 * 16 + dimmDevices d

/-- The DDR5 channels begin their bring-up: the SPD of each is read and the fitted ones train; a tier die with none to train has its
layout (R210, R211). -/
def State.bringUpDdr (s : State) : State :=
  let s1 := (List.range 8).foldl (fun s c => s.put (0x404001 + c) (ddrReport (s.mem.dimms.getD c none))) s
  (s1.chooseLayout 0).chooseLayout 1

/-- The training of the channels that train is over, and their fills begin (R210; see the log). -/
def State.trainDdr (s : State) : State :=
  if ((List.range 8).any fun c => decide (s.ddrState c = 1)) = false then s
  else
    let s1 := (List.range 8).foldl (fun s c =>
      match s.mem.dimms.getD c none with
      | some d => if s.ddrState c = 1 then s.put (0x404001 + c) (ddrTrained d) else s
      | none => s) s
    (s1.chooseLayout 0).chooseLayout 1

/-- The scratchpad banks at power-up: a mask that software has stored takes effect, and a die without banks to fill is ready (R193,
R346, R394). -/
def State.bringUpBanks (s : State) : State :=
  (List.range 20).foldl (fun s d =>
    let mask := s.get (0x402001 + d)
    (if mask = 2 ^ 64 - 1 then s else s.applyBanks d (BitVec.ofNat 64 mask)).readyDie d) s

/-- The main rails are up (R392, R419, R430, R432, R440): the hub cores run the hub stage, the fences of the record take effect, the
memories and dies come up, ports and the endpoint train, and the references run. -/
def State.railsOn (s : State) : State :=
  let s1 : State := { s with
    isl := { s.isl with rails := { s.isl.rails with up := true, ramping := false }, power := { s.isl.power with since := s.tick } }
    hub := { s.hub with refSince := some s.tick, wdtStart := s.tick, ep := { s.hub.ep with training := !s.hub.ep.perst, barLog2 := s.barSize } } }
  let s2 := (s1.setReady [(2, true)]).bringUpDdr
  let s3 := (s2.settleFence).bringUpBanks
  (((List.range 8).foldl State.startTraining s3).requestClock).drivePerst

/-- The main rails reach regulation (R440). -/
def execMainRailsUp (s : State) : Out :=
  if !s.isl.rails.ramping then .next s else .next s.railsOn.settle

/-! ## The management link -/

/-- The management link is up: the controller serves FMP, and the events that wait are sent (R368, R393). -/
def execMgmtLinkUp (s : State) : Out :=
  if !s.isl.trust.up then .next s
  else
    let s1 := s.setReady [(0, true)]
    .next (s1.isl.fmp.events.foldl (fun s e => s.eventOut e.2) (s1.putFmp { s1.isl.fmp with events := [] }))

/-- The management link is down (R393). -/
def execMgmtLinkDown (s : State) : Out := .next (s.setReady [(0, false)])

end Sys2Proof.Machine
end

