-- ==== Sys2Proof/Machine/FabricClock.lean ====
section
/-! DEFINITION. What the fabric dies do in time: transit between them (R276), idle flits that carry acknowledgements and credits (R279,
R282), stalls timed (R307), reports of a secondary (R303) and discovery (R288). -/

namespace Sys2Proof.Machine

/-- A linked port that owes its peer an acknowledgement or a credit sends it on an idle flit (R279, R281, R282). -/
def State.sendOwed (s : State) (p : Nat) : State :=
  let x := s.port p
  if s.portLinked p ∧ x.retrainSince = none ∧ (x.ackOwed ∨ x.nakPending ∨ x.creditsOwed.any (· ≠ 0)) then s.sendFlit p 0 0 0 [] else s

/-- The waits of a port's head messages as they stand at this tick (R307). -/
def State.watchStalls (s : State) (p : Nat) : State :=
  let x := s.port p
  let y := x.watch s.tick
  if y = x then s else s.putPort p y

/-- The messages that have crossed the grid leave by their ports (R276); where the array clock stands, they do so at the next tick. -/
def State.landTransit (s : State) (all : Bool) : State :=
  let due := s.fab.transit.filter fun x => all || decide (x.due ≤ s.cycle)
  if due = [] then s
  else
    let s1 : State := { s with fab := { s.fab with transit := s.fab.transit.filter fun x => !(all || decide (x.due ≤ s.cycle)) } }
    due.foldl (fun s x => (s.leave x.port x.msg true).getD (s.discardMsg x.msg)) s1

/-- What a tick brings at the fabric dies. -/
def State.fabricTick (s : State) : State :=
  let s1 := if 2 < s.get 0x200006 then s.landTransit true else s
  (((List.range 8).foldl (fun s p => (s.sendOwed p).watchStalls p) s1).reportMirror).discover

end Sys2Proof.Machine
end

