-- ==== Sys2Proof/Machine/Issue.lean ====
section
/-! DEFINITION. Taking entries of the issue ring (R242, R243): the shared operations, and the commands that take an
operation, a WAIT, a SIGNAL or an entry that is skipped. -/

namespace Sys2Proof.Machine

/-- Whether the hub may take an issue entry at all: the rails are up, the module is awake, no record is held, no loss
is being handled, and the module is neither demoted nor lost (R240, R306, R376, R417, R422). -/
def State.mayIssue (s : State) : Bool :=
  s.railsUp && decide (s.get 0x200006 ≤ 1) && decide (s.hub.held = []) && !s.hub.demoted && !s.hub.lost &&
    decide (s.isl.rails.lostPending = [])

/-- An issue entry (R242). -/
structure IssueEntry where
  arg : Nat
  kind : Nat
  obj : Nat
  poison : Bool
deriving DecidableEq, Repr

/-- The entry at the head of ring 0, and the state with its read counted. -/
def State.issueHead (s : State) : Option (IssueEntry × State) :=
  let r := s.ring 0
  if ringHeld r = 0 then none
  else
    let x := s.readPhys (ringSlotAddr 0 r r.ci) 16
    some ({ arg := field x.1 0 8, kind := field x.1 8 1, obj := field x.1 10 2 % 2 ^ 14, poison := x.2.1 }, x.2.2.2)

/-- CI of ring 0 advances past the entry taken (R243). -/
def State.issueAdvance (s : State) : State := s.putRing 0 ((s.ring 0).setCi ((s.ring 0).ci + 1))

/-- The hub looks at the head of the issue ring, whose indices are checked first (R241, R243). An entry for which
`take` gives a state is taken; any other stays where it is. -/
def State.takeIssue (s : State) (take : IssueEntry → State → Option State) : State :=
  if s.mayIssue then
    let s0 := s.ringCheck 0
    match s0.issueHead with
    | none => s0
    | some (x, s1) =>
      match take x s1.issueAdvance with
      | some s2 => s2
      | none => s0
  else s

/-- Every active die has begun the final phase of the operation taken last; one that runs no phase must have its record
(R243). -/
def State.finalBegun (s : State) : Bool :=
  match s.arr.ops.getLast? with
  | none => true
  | some op => op.noPhase.isNone && op.plan.isSome && op.active.all fun d =>
      decide ((op.die d).stage = .closed) ||
        ((decide ((op.die d).stage = .running) || decide ((op.die d).stage = .arrived)) && decide ((op.die d).phase = op.phases))

/-- An operation taken now from its descriptor (R25, R181, R243). -/
def State.newOp (s : State) (addr : Nat) (desc : List Byte) (poison : Bool) : OpCtx :=
  { OpCtx.blank with addr := addr, desc := desc, descPoison := poison, tTaken := s.tick, issuedAt := s.cycle, active := s.activeDies }

/-- Taking an operation entry whose descriptor is of the given kind; descriptors are aligned to 128 bytes (R66). -/
def State.takeOperation (s : State) (k : OpKind) : State :=
  s.takeIssue fun x s1 =>
    let a := x.arg % 2 ^ 52 / 128 * 128
    let d := s1.readPhys a 128
    if x.poison ∨ x.kind ≠ 1 ∨ opKind d.1 ≠ k ∨ !s1.finalBegun then none
    else some (d.2.2.2.putOps (d.2.2.2.arr.ops ++ [d.2.2.2.newOp a d.1 d.2.1]))

/-- SPMM is taken (R79, R243). -/
def execSpmm (s : State) : Out := .next (s.takeOperation .spmm)

/-- SPGEMM is taken (R79, R243). -/
def execSpgemm (s : State) : Out := .next (s.takeOperation .spgemm)

/-- SDDMM is taken (R102, R243). -/
def execSddmm (s : State) : Out := .next (s.takeOperation .sddmm)

/-- CONV is taken (R97, R243). -/
def execConv (s : State) : Out := .next (s.takeOperation .conv)

/-- GATHER is taken (R122, R243). -/
def execGather (s : State) : Out := .next (s.takeOperation .gather)

/-- SCATTER is taken (R126, R243). -/
def execScatter (s : State) : Out := .next (s.takeOperation .scatter)

/-- ELTWISE is taken (R99, R243). -/
def execEltwise (s : State) : Out := .next (s.takeOperation .eltwise)

/-- REDUCE is taken (R128, R243). -/
def execReduce (s : State) : Out := .next (s.takeOperation .reduce)

/-- SOFTMAX is taken (R129, R243). -/
def execSoftmax (s : State) : Out := .next (s.takeOperation .softmax)

/-- FORMAT-CONVERT with SUBF 0 is taken (R101, R243). -/
def execFormatConvertToBlocked (s : State) : Out := .next (s.takeOperation .toBlocked)

/-- FORMAT-CONVERT with SUBF 1 is taken (R101, R243). -/
def execFormatConvertToPlain (s : State) : Out := .next (s.takeOperation .toPlain)

/-- FORMAT-CONVERT with SUBF 2 is taken (R94, R243). -/
def execBlockTranspose (s : State) : Out := .next (s.takeOperation .blockTrans)

/-- PREDICT is taken (R132, R243). -/
def execPredict (s : State) : Out := .next (s.takeOperation .predict)

/-- TRANSPOSE-COPY is taken (R64, R243). -/
def execTransposeCopy (s : State) : Out := .next (s.takeOperation .transCopy)

/-- An operation with a reserved OPCODE is taken; its cause is found when the descriptor arrives (R27, R70). -/
def execUnknownOperation (s : State) : Out := .next (s.takeOperation .unknown)

/-- A WAIT is taken once COUNT is at least TARGET; one that names an object of the array's own at once (R243, R248). -/
def execIssueWait (s : State) : Out :=
  .next (s.takeIssue fun x s1 =>
    if x.poison ∨ x.kind ≠ 3 then none
    else if x.obj < 16 then some (s1.bump 0x71700F 1)
    else if x.arg ≤ s1.count x.obj then some s1
    else none)

/-- A SIGNAL adds VALUE to its object when it is taken (R243, R248). -/
def execIssueSignal (s : State) : Out :=
  .next (s.takeIssue fun x s1 => if x.poison ∨ x.kind ≠ 4 then none else some (s1.syncAdd x.obj x.arg))

/-- An entry of undefined KIND is skipped and counted; a poisoned entry is skipped under R408 (R242). -/
def execIssueSkipped (s : State) : Out :=
  .next (s.takeIssue fun x s1 =>
    if x.poison then some (s1.controlPoison 24 5 (ringSlotAddr 0 (s.ring 0) (s.ring 0).ci) 0)
    else if 1 ≤ x.kind ∧ x.kind ≤ 4 then none
    else some (s1.bump 0x71700B 1))

end Sys2Proof.Machine
end

