-- ==== Sys2Proof/Machine/Streams.lean ====
section
/-! DEFINITION. Stream commands (R221, R222, R246, R247), batches (R230, R231), entries (R224 to R229, R454) and passes. -/

namespace Sys2Proof.Machine

/-- A stream command (R221). -/
structure Command where
  cmd : Nat
  thr : Nat
  eng : Nat
  tag : Nat
  list : Nat
  count : Nat
  batch : Nat
  prio : Nat
  task : Nat
  cring : Nat
  sync : Nat
  persist : Bool
  sbase : Nat
  dbase : Nat
  deadline : Nat
deriving DecidableEq, Repr

/-- The command that 64 bytes give; a batch exponent of 7 is read as 6. -/
def Command.decode (b : List Byte) : Command :=
  { cmd := field b 1 1, thr := field b 2 2 % 64, eng := bits (field b 2 2) 10 6, tag := field b 4 4,
    list := field b 8 8 % 2 ^ 52 / 32 * 32, count := field b 16 4, batch := min 6 (field b 20 1 % 8), prio := field b 21 1 % 16,
    task := field b 22 1, cring := field b 24 2 % 2 ^ 13, sync := field b 26 2, persist := bit (field b 28 1) 0,
    sbase := field b 32 8 % 2 ^ 52, dbase := field b 40 8 % 2 ^ 52, deadline := field b 48 4 }

/-- The command is defined: its code and its engine exist (R221, R246). -/
def Command.valid (c : Command) : Bool := 1 ≤ c.cmd && c.cmd ≤ 4 && c.eng < 22

/-- The hub takes a stream command that satisfies `p` from the head of the issue ring and carries out `f` (R243). Commands
are aligned to 64 bytes. -/
def State.takeCommand (s : State) (p : Command → Bool) (f : Command → State → State) : State :=
  s.takeIssue fun x s1 =>
    let d := s1.readPhys (x.arg % 2 ^ 52 / 64 * 64) 64
    if x.poison ∨ x.kind ≠ 2 ∨ !p (Command.decode d.1) then none
    else some (f (Command.decode d.1) d.2.2.2)

/-- The present state that refuses a command other than QUERY; 0 where none does. A fence is judged before the
reservation (R247). -/
def State.refusal (s : State) (c : Command) : Nat :=
  let m := (s.thread c.eng c.thr).mode
  if s.fenced (engDie c.eng) then 5
  else if c.eng < 20 ∧ 62 ≤ c.thr then 4
  else if c.cmd = 1 then (if m = .running then 1 else 0)
  else if c.cmd = 2 then (if m = .running then 1 else if m = .idle then 3 else 0)
  else if m = .idle then 3 else 0

/-- A command carried out where its thread's state allows it, else refused with a record and counted (R222, R247). -/
def State.allowed (s : State) (c : Command) (f : State → State) : State :=
  if s.refusal c = 0 then f s
  else (s.bump 0x717005 1).commandRecord c.cmd c.tag c.cring c.deadline s.tick 0x20 (s.refusal c)

/-- A thread at the beginning of a pass: entry 0, nothing issued, the counts of a new pass (R222). -/
def Thread.begin (t : Thread) (cycle tick : Nat) : Thread :=
  { t with mode := .running, tTaken := tick, startedAt := cycle, next := 0, issued := [], fetching := none, stopping := [],
           bound := [], readyAt := cycle + 8, waitSince := none, stopAt := if t.retained then t.stopAt else none, mirSeq := 0, counts := Counts.zero,
           entries := if t.retained then t.entries else [], fetched := if t.retained then t.fetched else 0 }

/-- START (R222). -/
def execStart (s : State) : Out :=
  .next (s.takeCommand (fun c => c.valid && c.cmd = 1) fun c s => s.allowed c fun s =>
    let t := { Thread.reset with
      list := c.list, count := c.count, batch := c.batch, prio := c.prio, task := c.task, cring := c.cring, sync := c.sync,
      persist := c.persist, sbase := c.sbase, dbase := c.dbase, deadline := c.deadline, tag := c.tag, cmd := 1 }
    (s.putThread c.eng c.thr (t.begin s.cycle s.tick)).enterRun)

/-- REARM (R222). -/
def execRearm (s : State) : Out :=
  .next (s.takeCommand (fun c => c.valid && c.cmd = 2) fun c s => s.allowed c fun s =>
    let t := s.thread c.eng c.thr
    let t1 := { t with sbase := c.sbase, dbase := c.dbase, tag := c.tag, cring := c.cring, deadline := c.deadline, cmd := 2 }
    (s.putThread c.eng c.thr (t1.begin s.cycle s.tick)).enterRun)

/-- STOP: a running thread issues and fetches nothing more; a parked one has no entry outstanding, so its stop is complete at
once and only the STOP writes a record (R222). -/
def execStop (s : State) : Out :=
  .next (s.takeCommand (fun c => c.valid && c.cmd = 3) fun c s => s.allowed c fun s =>
    let t := s.thread c.eng c.thr
    if t.mode = .parked then (s.idleThread c.eng c.thr).commandRecord 3 c.tag c.cring c.deadline s.tick 0 0
    else s.putThread c.eng c.thr { t with stopping := t.stopping ++ [{ tag := c.tag, cring := c.cring, taken := s.tick, deadline := c.deadline }] })

/-- A stop is complete once every issued entry has completed: the ended pass's record, unsignalled, then the STOP's
(R222). -/
def execStopComplete (eng thr : Nat) (s : State) : Out :=
  let t := s.thread eng thr
  if t.stopping = [] ∨ t.issued ≠ [] ∨ t.mode = .idle ∨ s.mirrorWait t.mirSeq then .next s
  else
    let s1 := s.idleThread eng thr
    let s2 := if t.mode = .running then s1.threadRecord t 0 0 else s1
    .next (t.stopping.foldl (fun s c => s.commandRecord 3 c.tag c.cring c.deadline c.taken 0 0) s2)

/-- Whether a thread of the module's own runs: thread 62 while its die fetches metadata, thread 63 while it carries laps (R219, R247). -/
def State.ownThread (s : State) (eng thr : Nat) : Bool :=
  s.arr.ops.any fun op => op.active.contains eng &&
    (if thr = 62 then decide ((op.die eng).stage = .fetching)
     else decide ((op.die eng).stage = .running) && !(op.die eng).lapDone)

/-- The thread's state as QUERY reports it (R247). -/
def State.threadState (s : State) (eng thr : Nat) : Nat :=
  if eng < 20 ∧ 62 ≤ thr then (if s.ownThread eng thr ∧ !s.fenced eng then 1 else 3)
  else match (s.thread eng thr).mode with
    | .running => 1
    | .parked => 2
    | .idle => 3

/-- QUERY: a record at once with the thread's state (R222, R247). -/
def execQuery (s : State) : Out :=
  .next (s.takeCommand (fun c => c.valid && c.cmd = 4) fun c s => s.commandRecord 4 c.tag c.cring c.deadline s.tick 0 (s.threadState c.eng c.thr))

/-- A command with an undefined code or engine has no effect but its record (R246). -/
def execInvalidCommand (s : State) : Out :=
  .next (s.takeCommand (fun c => !c.valid) fun c s => s.commandRecord c.cmd c.tag c.cring c.deadline s.tick 0x21 0)

/-! ## Batches -/

/-- A thread requests its next batch: its first when the pass begins, each further one once half of the current batch
has issued (R230); a retained list is not fetched again (R231). -/
def execStreamBatchFetch (eng thr : Nat) (s : State) : Out :=
  let t := s.thread eng thr
  let half := 2 ^ t.batch - 2 ^ t.batch / 2
  if t.mode = .running ∧ t.stopping = [] ∧ !t.retained ∧ t.fetching = none ∧ t.fetched < t.ending ∧ (t.fetched = 0 ∨ t.fetched ≤ t.next + half) then
    .next (s.putThread eng thr { t with fetching := some s.cycle })
  else .next s

/-- The cycles that the read of a batch takes: 96 where it reads HBM (R199, R232). -/
def State.batchTime (s : State) (eng : Nat) (t : Thread) (a n : Nat) : Nat :=
  if (piecesOf a n).any fun p => match s.xlate (s.window t.task) (engDie eng) p.1 with
    | .at q => (match s.place q with
      | .hbm _ _ => true
      | _ => false)
    | _ => false
  then 96 else 0

/-- A batch of entries arrives, after the time of its read. The first line requests of the pass follow 8 cycles after its first batch
(R232). Entries in a poisoned line become entries that do nothing, and a batch that lies wholly
beyond the window ends the pass at its first entry (R230, R408). -/
def execStreamBatchLanded (eng thr : Nat) (s : State) : Out :=
  let t := s.thread eng thr
  let n := min (2 ^ t.batch) (t.ending - t.fetched)
  let a := (t.list + 32 * t.fetched) % 2 ^ 52
  if t.mode ≠ .running ∨ (t.fetching.all fun c => decide (s.cycle < c + s.batchTime eng t a (32 * n))) then .next s
  else
    let w := s.window t.task
    let lines := piecesOf a (32 * n)
    let reads := lines.map fun p => (p, s.taskLine w (engDie eng) p.1 p.2)
    let r := reads.foldl (fun (acc : State × Counts) x =>
      let s1 := acc.1.countTaskRead x.2
      let c1 := acc.2.addTaskRead x.2
      if x.2.poison then
        (s1.controlPoison (engDie eng) 6 ((x.2.phys.getD 0) / 64 * 64) t.tag,
          { c1 with poisonRd := c1.poisonRd + (if x.2.tagged then 0 else 1) })
      else (s1, c1)) (s, t.counts)
    let bytes := reads.flatMap fun x => if x.2.poison then List.replicate x.1.2 0 else x.2.bytes
    let outside := (List.range (32 * n)).all fun i => s.xlate w (engDie eng) (a + i) = .clip
    let new := (List.range n).map fun i => (t.fetched + i, slice bytes (32 * i) 32)
    .next (r.1.putThread eng thr
      { t with fetching := none, counts := r.2, readyAt := (if t.fetched = 0 then s.cycle + 8 else t.readyAt),
               stopAt := if outside then some t.fetched else t.stopAt,
               entries := if outside then t.entries else t.entries ++ new,
               fetched := if outside then t.fetched else t.fetched + n })

/-! ## Entries -/

/-- The entry whose turn it is, where it has landed. -/
def Thread.turn (t : Thread) : Option (List Byte) :=
  if t.next < t.ending then (t.entries.find? fun e => e.1 = t.next).map Prod.snd else none

/-- Whether the entry whose turn it is may issue: its AT cycle, its fence, its lace and the scoreboard (R224, R227 to R229). -/
def State.mayIssueEntry (s : State) (eng : Nat) (t : Thread) (e : Entry) : Bool :=
  decide (t.mode = .running) && decide (t.stopping = []) && (!e.fence || decide (t.issued = [])) && s.atReached eng t e &&
    (!e.pop || decide ((s.lace eng e.popLace).handles ≠ [])) && (!e.stage || s.boardRoom eng (s.stageLines eng t e)) &&
    (e.phase = 0 || 20 ≤ eng || !s.held eng)

/-- An entry issues: it pops its lace, marks its staged lines and sends its remote requests (R225, R227 to R229, R293).
`parity`: the stream engine finds a parity error in what it reads (R403). -/
def execStreamEntryIssue (eng thr : Nat) (parity : Bool) (s : State) : Out :=
  let t := s.thread eng thr
  match t.turn with
  | none => .next s
  | some b =>
    let e := Entry.decode b
    if s.mayIssueEntry eng t e then
      let l := s.lace eng e.popLace
      let h := if e.pop then (l.handles.headD 0).toNat else 0
      let s1 := if e.pop then s.putLace eng e.popLace { l with handles := l.handles.drop 1, last := l.handles.headD 0 } else s
      let lines := if e.stage then (s.stageLines eng t e).take (4096 - s.boardSize eng) else []
      let marks : List Mark := lines.map fun x => { line := x, key := eng * 64 + thr, index := t.next }
      let s2 := { s1 with streams := { s1.streams with board := s1.streams.board ++ marks } }
      let bad := parity && !e.rsrc && !e.zero
      let s3 := if bad then s2.parityError (engDie eng) 5 0 else s2
      let keep := t.persist && decide (t.count ≤ 64)
      let item : IssuedEntry :=
        { index := t.next, entry := b, handle := h, issuedAt := s.cycle, remote := 0, mcEnd := none, parity := bad,
          row := 0, off := 0, carry := [], flying := [], landedAt := s.cycle, marked := lines.length }
      let s4 := s3.putThread eng thr { t with next := t.next + 1, issued := t.issued ++ [item],
                                              entries := if keep then t.entries else t.entries.filter fun x => x.1 ≠ t.next }
      let r := s4.sendEntry eng thr t.next t e h bad
      let s5 := r.1.putThread eng thr { r.1.thread eng thr with counts := r.2 }
      .next (match e.group with
        | some g => s5.noteAppend eng thr t.next g
        | none => s5)
    else .next s

/-- The oldest issued entry completes in the cycle after its last write is visible: its marks clear, it pushes its lace and signals
(R226, R228, R229, R454). It waits for its lines to land, for its remote responses, for multicast delivery and for room on its lace; a
stopping thread's entry completes without the push, which counts. -/
def execStreamEntryComplete (eng thr : Nat) (s : State) : Out :=
  let t := s.thread eng thr
  match t.issued with
  | [] => .next s
  | x :: rest =>
    let e := Entry.decode x.entry
    let l := s.lace eng e.pushLace
    let full := e.push && decide (64 ≤ l.handles.length)
    if t.mode ≠ .running ∨ x.landed s.cycle = false ∨ (x.mcEnd.any fun m => !s.mcDelivered m) ∨ (full ∧ t.stopping = []) then .next s
    else
      let s1 := s.putThread eng thr { t with issued := rest }
      let s2 := { s1 with streams := { s1.streams with board := s1.streams.board.filter fun m => !(m.key = eng * 64 + thr ∧ m.index = x.index) } }
      let s3 := if full then s2.bump 0x717008 1
        else if e.push then s2.putLace eng e.pushLace { l with handles := l.handles ++ [BitVec.ofNat 32 e.low] }
        else s2
      .next (if e.notify then s3.syncSignal t.sync else s3).settle

/-- A pass completes with its last entry: the thread parks or becomes idle, writes its record and signals (R220, R222,
R231, R454). In synchronous mirror mode the record waits for the twin (R304). -/
def execStreamPassComplete (eng thr : Nat) (s : State) : Out :=
  let t := s.thread eng thr
  if t.mode ≠ .running ∨ t.stopping ≠ [] ∨ t.issued ≠ [] ∨ t.next < t.ending ∨ t.fetching ≠ none ∨ s.mirrorWait t.mirSeq then .next s
  else
    let s1 := s.bump 0x717004 1
    let s2 :=
      if t.persist then s1.putThread eng thr { t with mode := .parked, retained := decide (t.count ≤ 64), bound := [] }
      else s1.idleThread eng thr
    .next (s2.threadRecord t 0 t.sync)

end Sys2Proof.Machine
end

