-- ==== Sys2Proof/Machine/Clock.lean ====
section
/-! DEFINITION. What time does when no command waits (R9, R373): one cycle of the array clock, or, where that clock is stopped, one tick
of the always-on clock: phase counters run unless held (R162, R172 to R174, R386), waiting is counted (R228, R229, R240, R299), and
what follows from the time alone takes place. -/

namespace Sys2Proof.Machine

/-- The always-on timer advances by one (R373). -/
def State.countTick (s : State) : State := s.put 0x203001 (s.tick + 1)

/-! ## Dies -/

/-- What one cycle does to a die's progress in its operation: lasting and a running counter go on unless the die is held (R159, R162,
R172). -/
def DieOp.pass (x : DieOp) (held : Bool) : DieOp :=
  if held then x
  else match x.stage with
    | .lasting => { x with ran := x.ran + 1 }
    | .running => if x.counter = 0 then x else { x with counter := x.counter - 1, ran := x.ran + 1 }
    | _ => x

/-- Whether a hold stops a die in this cycle: in lasting, in a phase until its counter has expired, and at a barrier only after the
cycle in which its release came (R174, R180). -/
def DieOp.stopped (x : DieOp) (cycle : Nat) : Bool :=
  match x.stage with
  | .lasting => true
  | .running => x.expiredAt.isNone
  | .arrived => x.releaseAt.any fun r => decide (r < cycle)
  | _ => false

/-- One cycle of a die: its holds' stopped cycles are counted, at every counter concerned (R172, R173, R386). -/
def State.passDie (s : State) (d : Nat) : State :=
  match s.opHeld d with
  | none => s
  | some i =>
    let h := s.hold d
    let x := (s.op i).die d
    let one := fun (b : Bool) => if b then 1 else 0
    let ecc := one (h.ecc s.cycle && x.stopped s.cycle)
    let sup := one (h.supply && (x.stopped s.cycle || x.lateMeta s.cycle))
    let s1 := ((s.bump 0x715005 ecc).bump 0x715007 sup).bump 0x711006 (one (h.powered s.cycle && x.stopped s.cycle))
    s1.onOp i fun op => { op.putDie d (x.pass (h.any s.cycle)) with
      counts := { op.counts with holdEcc := op.counts.holdEcc + ecc, holdSup := op.counts.holdSup + sup } }

/-! ## Threads -/

/-- A thread waits for scoreboard room, and waits on a lace: to pop from an empty one before it issues, or to push to a full one before
it completes (R228, R229). -/
def State.threadWaits (s : State) (eng : Nat) (t : Thread) : Bool × Bool :=
  if t.mode ≠ .running ∨ t.stopping ≠ [] then (false, false)
  else
    let turn := match t.turn with
      | none => (false, false)
      | some b =>
        let e := Entry.decode b
        let due := (!e.fence || decide (t.issued = [])) && s.atReached eng t e
        (due && e.stage && !s.boardRoom eng (s.stageLines eng t e), due && e.pop && decide ((s.lace eng e.popLace).handles = []))
    let room := match t.requesting with
      | none => false
      | some x =>
        let e := Entry.decode x.entry
        let a := (e.row t x.handle x.row).2 + x.off
        !s.linesMarked eng t e x (a - x.carry.length) (x.carry.length + x.span e (e.row t x.handle x.row))
    let push := match t.issued with
      | [] => false
      | x :: _ =>
        let e := Entry.decode x.entry
        x.landed s.cycle && e.push && decide (64 ≤ (s.lace eng e.pushLace).handles.length)
    (turn.1 || room, turn.2 || push)

/-- The waiting cycles of every thread counted (R228, R229). -/
def State.countWaits (s : State) : State :=
  let ws := s.streams.threads.map fun x => s.threadWaits (x.1 / 64) x.2
  (s.bump 0x71700D (ws.countP fun w => w.1)).bump 0x71700E (ws.countP fun w => w.2)

/-! ## Ticks -/

/-- A lockstep sender waits for a receiver that is behind (R299). -/
def State.senderWaits (s : State) (g : Nat) : Bool :=
  s.mcMode g == 2 && (match (s.group g).queue with
    | [] => false
    | p :: _ => (s.group g).receivers.any ((s.group g).full (s.mcObj g 2) p.1.length))

/-- What a tick brings besides the timer: held records and waiting senders are counted (R240, R299), shed buffers are poisoned as they
are consumed (R300), root port resets are released in time (R432), DDR5 training comes to its end (R210), and the fabric dies do what
is due. -/
def State.tickWork (s : State) : State :=
  if !s.railsUp then s
  else
    let groups := s.fab.groups.map Prod.fst
    let s1 := (s.bump 0x71700C (if s.hub.held = [] then 0 else 1)).bump 0x71900C (groups.countP s.senderWaits)
    (((groups.foldl State.mcPoison s1).drivePerst).trainDdr).fabricTick

/-- One tick of the always-on clock (R373). -/
def State.passTick (s : State) : State := s.countTick.tickWork

/-- The dwell in Poise counts continuous idleness only (R378). -/
def State.watchIdle (s : State) : State :=
  if s.get 0x200006 = 1 ∧ !s.idle then s.putPower { s.isl.power with since := s.tick } else s

/-- One cycle of the array clock, with the tick that falls in it: 168 cycles at 2.1 GHz make a tick (R9, R373, R375). -/
def State.passCycle (s : State) : State :=
  let s1 := ((((List.range 20).foldl State.passDie s).countWaits.streamCycle).netCycle.landTransit false).watchIdle
  let s2 : State := { s1 with cycle := s1.cycle + 1, subTick := s1.subTick + 1 }
  if tickCycles (s.get 0x200009) ≤ s2.subTick then ({ s2 with subTick := 0 }).passTick else s2

/-- Time passes: nothing before the island is up; array cycles while that clock runs, ticks otherwise (R373, R374). -/
def State.clock (s : State) : State :=
  if !s.isl.trust.up then s
  else if s.railsUp ∧ s.get 0x200006 ≤ 2 then s.passCycle.settle
  else s.passTick.settle

end Sys2Proof.Machine
end

