-- ==== Sys2Proof/Machine/CoreAccess.lean ====
section
/-! DEFINITION. A hub core's loads and stores to the hub complex range by address (R310): the windows of its first 16 MiB (R311), the
mailboxes (R367), the fabric send slots (R313), the measurement window (R337), the root ports' spaces, and the outbound window (R325). -/

namespace Sys2Proof.Machine

/-! ## What the cores have stored -/

/-- The byte a hub core has stored at a place of the hub complex range that keeps bytes. -/
def State.coreByte (s : State) (off : Nat) : Byte := s.hub.coreBytes.get off 0

/-- Bytes that hub cores have stored. -/
def State.coreField (s : State) (off n : Nat) : List Byte := (List.range n).map fun i => s.coreByte (off + i)

/-- Bytes stored by a hub core. -/
def State.coreStore (s : State) (off : Nat) (data : List Byte) : State :=
  { s with hub := { s.hub with coreBytes := data.zipIdx.foldl (fun m x => SMap.set m (off + x.2) x.1 0) s.hub.coreBytes } }

/-! ## Send slots -/

/-- The fields of the send slot at `off` as the cores have stored them (R313). -/
def State.slotFields (s : State) (off : Nat) : SlotFields :=
  let n := fun (o k : Nat) => field (s.coreField (off + o) k) 0 k
  { mtype := n 8 1, dst := n 0x0A 2, arg := BitVec.ofNat 32 (n 0x0C 4), len := n 0x10 2, route := n 0x18 8, data := s.coreField (off + 0x100) 1280 }

/-- A byte of a send slot as a core reads it: DOORBELL, RESULT, the fields stored, and RSP (R313). -/
def State.slotByte (s : State) (base o : Nat) : Byte :=
  let c := (base - 0x2000000) / 4096
  let x := s.slot c
  if o < 4 then (leBytes 4 x.doorbell).getD o 0
  else if o < 8 then (leBytes 4 x.result.toNat).getD (o - 4) 0
  else if 0x800 ≤ o ∧ o < 0xD00 then x.rsp.getD (o - 0x800) 0
  else s.coreByte (base + o)

/-- The fields of a send slot that a core can store: not the reserved ones (R7, R313). -/
def slotWritable (o : Nat) : Bool :=
  o == 8 || (decide (0x0A ≤ o) && decide (o < 0x12)) || (decide (0x18 ≤ o) && decide (o < 0x20)) || (decide (0x100 ≤ o) && decide (o < 0x600))

/-! ## Mailboxes -/

/-- A byte of a mailbox as a core reads it: DOORBELL, RLEN, the request stored, and RSP (R367). -/
def State.mailboxByte (s : State) (base o : Nat) : Byte :=
  let m := s.mailbox ((base - 0x1000000) / 4096)
  if o < 4 then (leBytes 4 m.1).getD o 0
  else if o < 8 then (leBytes 4 m.2.length).getD (o - 4) 0
  else if 0x800 ≤ o ∧ o < 0xD00 then m.2.getD (o - 0x800) 0
  else s.coreByte (base + o)

/-! ## The access -/

/-- A store to a place that keeps bytes: of those that a test admits, the others are not kept. -/
def State.keepBytes (s : State) (base o : Nat) (data : List Byte) (ok : Nat → Bool) : State :=
  data.zipIdx.foldl (fun s x => if ok (o + x.2) then s.coreStore (base + o + x.2) [x.1] else s) s

/-- A store to the measurement window: an address at offset 0 measures the last there, and the last byte of a digest extends the runtime's
measurement (R337). -/
def State.storeMeasure (s : State) (o : Nat) (data : List Byte) : Out :=
  if o = 0 then execMeasureLast (field data 0 8) s
  else
    let base := 0x3000000
    let s1 := s.keepBytes base o data fun k => decide (0x40 ≤ k) && decide (k < 0x80)
    if o ≤ 0x7F ∧ 0x7F < o + data.length then execMeasureRuntime (s1.coreField (base + 0x40) 64) s1 else .next s1

/-- A hub core's access to the hub complex range, at an offset from its start (R310). OUTBOUND_ACCESS is its row for the outbound window;
the other parts, which have no row of their own or only one for an access already assembled, are reached by the same command (see the
log). `reply` is what the front-end or a root port's device answers to a read. A part that the table of R310 does not list is unmapped. -/
def execOutboundAccess (place : CorePlace) (len : Nat) (wr : Option (List Byte)) (reply : List Byte) (s : State) : Out :=
  let core := place.core
  let off := place.off
  let o := off % 4096
  let base := off / 4096 * 4096
  let read := fun (f : Nat → Byte) => s.returned ((List.range len).map fun i => f (o + i))
  if !s.railsUp then .next s
  else if 0x8000000000 ≤ off then .next (s.outbound (off - 0x8000000000) len wr reply)
  else if off < 0x1000000 then
    let v := wr.map fun d => BitVec.ofNat 64 (field (fit len d) 0 len)
    if windowWakes off len v then .next (s.access (.window core off len v) fun s => s.serveWindow core off len v)
    else .next (s.serveWindow core off len v)
  else if off < 0x1010000 then
    match wr with
    | none => .next (read (s.mailboxByte base))
    | some d =>
      if o = 0 then execMailboxDoorbell ((base - 0x1000000) / 4096) (field (fit len d) 0 4) (s.coreField (base + 0x100) 1280) s
      else .next (s.keepBytes base o (fit len d) fun k => decide (0x100 ≤ k) && decide (k < 0x600))
  else if 0x2000000 ≤ off ∧ off < 0x2010000 then
    match wr with
    | none => .next (read (s.slotByte base))
    | some d =>
      if o = 0 then execSendSlotDoorbell ((base - 0x2000000) / 4096) (s.slotFields base) s
      else .next (s.keepBytes base o (fit len d) slotWritable)
  else if 0x3000000 ≤ off ∧ off < 0x3001000 then
    match wr with
    | none => .next (read fun k => if k = 8 ∧ s.hub.measures ≠ [] then 1 else 0)
    | some d => s.storeMeasure o (fit len d)
  else if 0x100000000 ≤ off ∧ off < 0x110000000 then
    let a := off - 0x100000000
    .next (s.rootAccess (a / 0x8000000) true (a % 0x8000000) len wr reply)
  else if 0x1000000000 ≤ off ∧ off < 0x2000000000 then .next (s.rootAccess 0 false (off - 0x1000000000) len wr reply)
  else if 0x2000000000 ≤ off ∧ off < 0x3000000000 then .next (s.rootAccess 1 false (off - 0x2000000000) len wr reply)
  else match wr with
    | none => .next (s.countUnmappedRead.returned (List.replicate len 0))
    | some _ => .next s.countUnmappedWrite

end Sys2Proof.Machine
end

