-- ==== Sys2Proof/Machine/SidebandOps.lean ====
section
/-! DEFINITION. The I3C sideband and the status pins (R434 to R437). -/

namespace Sys2Proof.Machine

/-- The sideband replaced. -/
def State.putSide (s : State) (x : Sideband) : State := { s with isl := { s.isl with side := x } }

/-- The STATUS byte of R436. -/
def State.statusByte (s : State) : Nat :=
  (if s.get 0x330008 ≠ 0 ∨ s.get 0x330009 ≠ 0 then 1 else 0) + (if s.isl.power.vinWarn then 2 else 0) +
    (if s.isl.power.throttled then 4 else 0) + (if s.isl.rails.trip.isSome then 8 else 0) + (if s.hub.lost then 16 else 0) +
    (if s.get 0x600001 = 2 then 32 else 0)

/-- VARIANT of R436, from the last character of the part number (R3). -/
def variantByte : Byte := if Config.partNumber.getD 12 0 = 0x4E then 2 else 1

/-- The register map of R436 as it stands. -/
def State.sideMap (s : State) : List Byte :=
  let tj := match s.hottest with
    | some x => ofSigned 16 x.2
    | none => 0x8000
  leBytes 1 1 ++ [variantByte] ++ leBytes 1 (if s.railsUp then s.get 0x200006 else 0xFF) ++ leBytes 1 s.statusByte ++
    leBytes 8 (s.get 0x500004) ++ leBytes 2 tj ++ leBytes 2 ((s.get 0x200008 + 500) / 1000) ++ leBytes 8 (s.get 0x201001) ++
    leBytes 2 (s.get 0x202001 / 100) ++ leBytes 2 0 ++ leBytes 4 (s.get 0x2F0001) ++ fit 16 (fit 13 Config.partNumber) ++ List.replicate 16 0

/-- STATUS in the map of the last refresh. -/
def Sideband.status (x : Sideband) : Byte := x.map.getD 3 0

/-- STAT_N is low: the module is lost, tripped or in recovery (R434). -/
def State.statLow (s : State) : Bool := s.hub.lost || s.isl.rails.trip.isSome || decide (s.get 0x600001 = 2)

/-- SB_ALERT_N is low: STATUS is nonzero and in-band interrupts are not enabled (R434). -/
def State.alertLow (s : State) : Bool := decide (s.isl.side.status ≠ 0) && !s.isl.side.ibiEnabled

/-- The island refreshes the map; a change of STATUS raises an in-band interrupt where the module has a dynamic address and the
controller has enabled it (R436, R437). -/
def execSidebandRefresh (s : State) : Out :=
  if !s.isl.trust.up then .next s
  else
    let x := s.isl.side
    let y : Sideband := { x with map := s.sideMap }
    let raise := decide (y.status ≠ x.status) && x.dynAddr.isSome && x.ibiEnabled
    .next (s.putSide { y with ibiPending := x.ibiPending || raise })

/-- A dynamic address given to a target that has none (R435). -/
def State.takeAddress (s : State) (addr : Nat) : State :=
  if !s.isl.trust.up ∨ s.isl.side.dynAddr.isSome then s else s.putSide { s.isl.side with dynAddr := some addr }

/-- SETDASA at the static address 0x5A (R435). -/
def execSetdasa (addr : Nat) (s : State) : Out := .next (s.takeAddress addr)

/-- Dynamic address assignment (R435). -/
def execEntdaa (addr : Nat) (s : State) : Out := .next (s.takeAddress addr)

/-- The chassis controller enables in-band interrupts (R437). -/
def execEnec (s : State) : Out := if !s.isl.trust.up then .next s else .next (s.putSide { s.isl.side with ibiEnabled := true })

/-- A read transaction from an offset, which wraps from 0x3F to 0x00 (R436). -/
def execSidebandRead (off len : Nat) (s : State) : Out :=
  if !s.isl.trust.up then .next s
  else .next (s.putSide { s.isl.side with readData := (List.range len).map fun i => s.isl.side.map.getD ((off + i) % 64) 0 })

/-- The controller acknowledges the in-band interrupt, whose data byte is STATUS as it stands (R437). -/
def execIbiAck (s : State) : Out :=
  let x := s.isl.side
  if !x.ibiPending then .next s else .next (s.putSide { x with ibiPending := false, ibiData := some x.status })

end Sys2Proof.Machine
end

