-- ==== Sys2Proof/Machine/WearLife.lean ====
section
/-! DEFINITION. Wear and predicted life (R395 to R399). -/

namespace Sys2Proof.Machine

/-- The wear data replaced. -/
def State.putWear (s : State) (w : Wear) : State := { s with isl := { s.isl with wear := w } }

/-- An hour in ticks. -/
def hourTicks : Nat := 45000000000

/-- The ageing monitors of every die, measured at the first Poise of an hour: the largest shifts, in 0.01 % (R395). -/
def execAgeingMeasure (shifts : List Nat) (s : State) : Out :=
  let hour := s.tick / hourTicks
  if s.get 0x200006 ≠ 1 ∨ s.isl.wear.lastMeasure = some hour then .next s
  else
    let s1 := s.putWear { s.isl.wear with lastMeasure := some hour }
    .next ((List.range 25).foldl (fun s d => s.put (0x2F1101 + d) (shifts.getD d 0 % 2 ^ 16)) s1)

/-! ## Stress -/

/-- The largest `m` with m^100 at most `n`, by trying bits from the highest down. -/
def root100 (n : Nat) : Nat → Nat → Nat
  | 0, m => m
  | k + 1, m => root100 n k (if (m + 2 ^ k) ^ 100 ≤ n then m + 2 ^ k else m)

/-- 2^((T - 85) / 10) in units of 2^-32, rounded down, for T in 0.1 °C (R396; see the log). -/
def ageFactor (deci : Int) : Nat := root100 (2 ^ (2350 + deci).toNat) 80 0

/-- The ageing seconds of a powered die in the second that ends, where it reported a junction (R396). -/
def State.secondStress (s : State) (d : Nat) : Nat :=
  match s.isl.wear.secMax.get d none with
  | some v => if s.powered d then ageFactor v else 0
  | none => 0

/-- S_d in whole hours, as 2F10 shows it. -/
def stressHours (x : Nat) : Nat := x / (3600 * 2 ^ 32)

/-- Every second each powered die adds to its stress and duty (R396). -/
def execStressTick (s : State) : Out :=
  let w := s.isl.wear
  if s.tick < w.lastStress + 12500000 then .next s
  else
    let add := fun (m : SMap Nat) => (List.range 25).foldl (fun m d => SMap.set m d (SMap.get m d 0 + s.secondStress d) 0) m
    let s1 := s.putWear { w with stress := add w.stress, duty := add w.duty, secMax := [], lastStress := s.tick }
    .next ((List.range 25).foldl (fun s d => s.put (0x2F1001 + d) (stressHours (s1.isl.wear.stress.get d 0) % 2 ^ 32)) s1)

/-! ## Error trends -/

/-- The sum of the corrections of 30 days, and the sum weighted by 2x - 29 for day x, the newest being x = 29 (R398). -/
def daySums (l : List Nat) : Nat × Int :=
  let y := fun (x : Nat) => l.getD (29 - x) 0
  (listSum ((List.range 30).map y), (List.range 30).foldl (fun (acc : Int) (x : Nat) => acc + (2 * (x : Int) - 29) * (y x : Int)) 0)

/-- The slope of the least-squares line through 30 days, in corrections per day per day, as an FP32 value (R398). -/
def daySlope (l : List Nat) : U32 := toF32 (Val.div (Val.ofInt (daySums l).2) (Val.ofInt 4495))

/-- A day ends: its corrections are recorded and the slopes computed (R398). -/
def execDayRollover (s : State) : Out :=
  let w := s.isl.wear
  if s.tick < w.lastDay + 24 * hourTicks then .next s
  else
    let days := (List.range 18).foldl (fun m k => SMap.set m k ((w.today.get k 0 :: SMap.get m k []).take 30) []) w.days
    let s1 := s.putWear { w with days := days, today := [], lastDay := s.tick }
    .next ((List.range 18).foldl (fun s k =>
      (s.put (0x2F3001 + k) (w.today.get k 0 % 2 ^ 32)).put (0x2F3101 + k) (daySlope (days.get k [])).toNat) s1)

/-! ## Prediction -/

/-- A term of R399: a number of hours as a fraction, with its mechanism and unit. -/
structure LifeTerm where
  num : Nat
  den : Nat
  mech : Nat
  unit : Nat
deriving DecidableEq, Repr

/-- The consumed life C_d of a die in seconds at 85 °C, in units of 2^-32, times 300^4 (R396). -/
def State.consumed (s : State) (d : Nat) : Nat :=
  let x := s.isl.wear.stress.get d 0
  if x ≤ 1000 * 3600 * 2 ^ 32 then x * 300 ^ 4
  else max (x * 300 ^ 4) (60000 * 3600 * 2 ^ 32 * s.get (0x2F1101 + d) ^ 4)

/-- The duty sum of the last 168 hours of a die (R396). -/
def Wear.dutySum (w : Wear) (d : Nat) : Nat := listSum ((w.dutyHours.get d []).take 168)

/-- The finite terms of the prediction, in the order ageing, thermal cycles, power cycles, error trend (R399). -/
def State.lifeTerms (s : State) : List LifeTerm :=
  let w := s.isl.wear
  let age := (List.range 25).map fun d =>
    { num := (60000 * 3600 * 2 ^ 32 * 300 ^ 4 - s.consumed d) * 168, den := w.dutySum d * 300 ^ 4, mech := 1, unit := d : LifeTerm }
  let th : LifeTerm := { num := (20000 - s.get 0x2F2001) * 168, den := listSum (w.thermalHours.take 168), mech := 2, unit := 0 }
  let pw : LifeTerm := { num := (50000 - s.get 0x2F2002) * 168, den := listSum (w.powerHours.take 168), mech := 3, unit := 0 }
  let err := (List.range 18).map fun k =>
    let q := daySums (w.days.get k [])
    { num := (2 * (269700000 - 8990 * (q.1 : Int) - 870 * q.2)).toNat, den := (5 * q.2).toNat, mech := 4,
      unit := if k < 10 then 32 + k else 48 + (k - 10) : LifeTerm }
  (age ++ [th, pw] ++ err).filter fun t => decide (0 < t.den)

/-- The smallest term; the first of equals. -/
def leastTerm (l : List LifeTerm) : Option LifeTerm :=
  l.foldl (fun (b : Option LifeTerm) t =>
    match b with
    | none => some t
    | some x => if t.num * x.den < x.num * t.den then some t else some x) none

/-- The hour that ends joins the last 168 (R396, R397). -/
def Wear.nextHour (w : Wear) (tick : Nat) : Wear :=
  { w with
    dutyHours := (List.range 25).foldl (fun m d => SMap.set m d ((w.duty.get d 0 :: SMap.get m d []).take 168) []) w.dutyHours
    duty := [], thermalHours := (0 :: w.thermalHours).take 169, powerHours := (0 :: w.powerHours).take 169, lastLife := tick }

/-- The prediction of every hour, with its health record (R399, R413). An infinite L reads all ones and names no mechanism. -/
def execLifeRecompute (s : State) : Out :=
  if !s.isl.trust.up ∨ s.tick < s.isl.wear.lastLife + hourTicks then .next s
  else
    let w := s.isl.wear.nextHour s.tick
    let s1 := s.putWear { w with thermalHours := w.thermalHours.drop 1, powerHours := w.powerHours.drop 1 }
    let r := match leastTerm s1.lifeTerms with
      | some t => (min (t.num / t.den) 0xFFFFFFFE, t.mech, t.unit)
      | none => (0xFFFFFFFF, 0, 0)
    let s2 := (((s1.putWear w).put 0x2F0001 r.1).put 0x2F0002 r.2.1).put 0x2F0003 r.2.2
    .next (s2.event 13 1 25 0 (leBytes 4 r.1 ++ leBytes 1 r.2.1 ++ leBytes 1 r.2.2))

end Sys2Proof.Machine
end

