-- ==== Sys2Proof/Machine/Dispatch.lean ====
section
/-! DEFINITION. The dispatch: one arm per command, each a call of that command's meaning. -/

namespace Sys2Proof.Machine

def exec (i : Instr) (s : State) : Host.Outcome State Fault Refusal :=
  match i with
  | .spmm => Sys2Proof.Machine.execSpmm s
  | .spgemm => Sys2Proof.Machine.execSpgemm s
  | .sddmm => Sys2Proof.Machine.execSddmm s
  | .conv => Sys2Proof.Machine.execConv s
  | .gather => Sys2Proof.Machine.execGather s
  | .scatter => Sys2Proof.Machine.execScatter s
  | .eltwise => Sys2Proof.Machine.execEltwise s
  | .reduce => Sys2Proof.Machine.execReduce s
  | .softmax => Sys2Proof.Machine.execSoftmax s
  | .formatConvertToBlocked => Sys2Proof.Machine.execFormatConvertToBlocked s
  | .formatConvertToPlain => Sys2Proof.Machine.execFormatConvertToPlain s
  | .blockTranspose => Sys2Proof.Machine.execBlockTranspose s
  | .predict => Sys2Proof.Machine.execPredict s
  | .transposeCopy => Sys2Proof.Machine.execTransposeCopy s
  | .unknownOperation => Sys2Proof.Machine.execUnknownOperation s
  | .issueWait => Sys2Proof.Machine.execIssueWait s
  | .issueSignal => Sys2Proof.Machine.execIssueSignal s
  | .issueSkipped => Sys2Proof.Machine.execIssueSkipped s
  | .descriptorArrival die => Sys2Proof.Machine.execDescriptorArrival die s
  | .lastHeaderCheck => Sys2Proof.Machine.execLastHeaderCheck s
  | .metadataDue die opd arrived => Sys2Proof.Machine.execMetadataDue die opd arrived s
  | .lastingStart die => Sys2Proof.Machine.execLastingStart die s
  | .phaseCountersStart die => Sys2Proof.Machine.execPhaseCountersStart die s
  | .phaseCounterExpire die => Sys2Proof.Machine.execPhaseCounterExpire die s
  | .barrierArrivalReceive die => Sys2Proof.Machine.execBarrierArrivalReceive die s
  | .barrierReleaseArrival die => Sys2Proof.Machine.execBarrierReleaseArrival die s
  | .nominalRelease die => Sys2Proof.Machine.execNominalRelease die s
  | .completionRecordWrite => Sys2Proof.Machine.execCompletionRecordWrite s
  | .lapStep die => Sys2Proof.Machine.execLapStep die s
  | .lapComplete die => Sys2Proof.Machine.execLapComplete die s
  | .collectorSlot die dir => Sys2Proof.Machine.execCollectorSlot die dir s
  | .accRowUpdate die requester errs parity => Sys2Proof.Machine.execAccRowUpdate die requester errs parity s
  | .conflictQueueServe die q => Sys2Proof.Machine.execConflictQueueServe die q s
  | .hbmReadAccept addr rq waited => Sys2Proof.Machine.execHbmReadAccept addr rq waited s
  | .hbmReadDecode id err => Sys2Proof.Machine.execHbmReadDecode id err s
  | .holdEnd die => Sys2Proof.Machine.execHoldEnd die s
  | .hbmReadDeliver id => Sys2Proof.Machine.execHbmReadDeliver id s
  | .supplyHoldStart h => Sys2Proof.Machine.execSupplyHoldStart h s
  | .supplyHoldEnd die => Sys2Proof.Machine.execSupplyHoldEnd die s
  | .hbmWriteAccept addr data poison => Sys2Proof.Machine.execHbmWriteAccept addr data poison s
  | .readModifyWrite addr enable data poison r => Sys2Proof.Machine.execReadModifyWrite addr enable data poison r s
  | .poisonWriteback addr => Sys2Proof.Machine.execPoisonWriteback addr s
  | .hbmRefresh die channel bank cycles => Sys2Proof.Machine.execHbmRefresh die channel bank cycles s
  | .patrolScrubRead addr err => Sys2Proof.Machine.execPatrolScrubRead addr err s
  | .scrubWriteback addr => Sys2Proof.Machine.execScrubWriteback addr s
  | .tierRead addr rq err => Sys2Proof.Machine.execTierRead addr rq err s
  | .tierWrite addr data poison => Sys2Proof.Machine.execTierWrite addr data poison s
  | .scratchpadAccess die off wr errs parity => Sys2Proof.Machine.execScratchpadAccess die off wr errs parity s
  | .spEnableWrite die mask => Sys2Proof.Machine.execSpEnableWrite die mask s
  | .spBankFillDone die bank => Sys2Proof.Machine.execSpBankFillDone die bank s
  | .hbmEccModeWrite v => Sys2Proof.Machine.execHbmEccModeWrite v s
  | .ddrEccModeWrite v => Sys2Proof.Machine.execDdrEccModeWrite v s
  | .hbmFillDone die => Sys2Proof.Machine.execHbmFillDone die s
  | .ddrFillDone channel => Sys2Proof.Machine.execDdrFillDone channel s
  | .taskWindowWrite task field v => Sys2Proof.Machine.execTaskWindowWrite task field v s
  | .start => Sys2Proof.Machine.execStart s
  | .rearm => Sys2Proof.Machine.execRearm s
  | .stop => Sys2Proof.Machine.execStop s
  | .stopComplete eng thr => Sys2Proof.Machine.execStopComplete eng thr s
  | .query => Sys2Proof.Machine.execQuery s
  | .invalidCommand => Sys2Proof.Machine.execInvalidCommand s
  | .streamBatchFetch eng thr => Sys2Proof.Machine.execStreamBatchFetch eng thr s
  | .streamBatchLanded eng thr => Sys2Proof.Machine.execStreamBatchLanded eng thr s
  | .streamEntryIssue eng thr parity => Sys2Proof.Machine.execStreamEntryIssue eng thr parity s
  | .streamEntryComplete eng thr => Sys2Proof.Machine.execStreamEntryComplete eng thr s
  | .streamPassComplete eng thr => Sys2Proof.Machine.execStreamPassComplete eng thr s
  | .laceWindowPush eng lace h => Sys2Proof.Machine.execLaceWindowPush eng lace h s
  | .laceWindowPop eng lace ctlErr => Sys2Proof.Machine.execLaceWindowPop eng lace ctlErr s
  | .laceStatusWrite eng lace v => Sys2Proof.Machine.execLaceStatusWrite eng lace v s
  | .ringPushWindow w ring entry ctlErr => Sys2Proof.Machine.execRingPushWindow w ring entry ctlErr s
  | .ringPopWindow ring ctlErr => Sys2Proof.Machine.execRingPopWindow ring ctlErr s
  | .ringIndexWrite ring which v => Sys2Proof.Machine.execRingIndexWrite ring which v s
  | .ringStatusWrite ring field v => Sys2Proof.Machine.execRingStatusWrite ring field v s
  | .syncWindowSet obj v => Sys2Proof.Machine.execSyncWindowSet obj v s
  | .syncWindowAdd obj v ctlErr => Sys2Proof.Machine.execSyncWindowAdd obj v ctlErr s
  | .syncAddArrival adds waiting => Sys2Proof.Machine.execSyncAddArrival adds waiting s
  | .weltFrameReceive die port f => Sys2Proof.Machine.execWeltFrameReceive die port f s
  | .arbiterGrant arb arrivals => Sys2Proof.Machine.execArbiterGrant arb arrivals s
  | .phyTrainingComplete port => Sys2Proof.Machine.execPhyTrainingComplete port s
  | .helloSend port => Sys2Proof.Machine.execHelloSend port s
  | .helloReceive port rec intact => Sys2Proof.Machine.execHelloReceive port rec intact s
  | .flitReceive port flit fecCorrected fecUncorrectable => Sys2Proof.Machine.execFlitReceive port flit fecCorrected fecUncorrectable s
  | .replayTimeout port => Sys2Proof.Machine.execReplayTimeout port s
  | .retrainDone port => Sys2Proof.Machine.execRetrainDone port s
  | .retrainTimeout port => Sys2Proof.Machine.execRetrainTimeout port s
  | .pluggableInsert port deciwatts => Sys2Proof.Machine.execPluggableInsert port deciwatts s
  | .pluggableRemove port => Sys2Proof.Machine.execPluggableRemove port s
  | .portEnableWrite v => Sys2Proof.Machine.execPortEnableWrite v s
  | .messageForward ingress m => Sys2Proof.Machine.execMessageForward ingress m s
  | .fabricRead m => Sys2Proof.Machine.execFabricRead m s
  | .fabricWrite m => Sys2Proof.Machine.execFabricWrite m s
  | .fabricSignal m => Sys2Proof.Machine.execFabricSignal m s
  | .fabricRingPush m => Sys2Proof.Machine.execFabricRingPush m s
  | .fabricFmp m => Sys2Proof.Machine.execFabricFmp m s
  | .readData m => Sys2Proof.Machine.execReadData m s
  | .fabricAck m => Sys2Proof.Machine.execFabricAck m s
  | .probe m => Sys2Proof.Machine.execProbe m s
  | .probeReply m info => Sys2Proof.Machine.execProbeReply m info s
  | .setId id => Sys2Proof.Machine.execSetId id s
  | .setRoute up down trees near => Sys2Proof.Machine.execSetRoute up down trees near s
  | .sweepEnd => Sys2Proof.Machine.execSweepEnd s
  | .linkEvent uid port state => Sys2Proof.Machine.execLinkEvent uid port state s
  | .mcData m => Sys2Proof.Machine.execMcData m s
  | .mcAck g receiver delivered consumed => Sys2Proof.Machine.execMcAck g receiver delivered consumed s
  | .mcAckReport g => Sys2Proof.Machine.execMcAckReport g s
  | .mcCtlShed g off => Sys2Proof.Machine.execMcCtlShed g off s
  | .mcCtlRejoin g receiver => Sys2Proof.Machine.execMcCtlRejoin g receiver s
  | .mcCtlAdmit g off => Sys2Proof.Machine.execMcCtlAdmit g off s
  | .mcCtlRemove g => Sys2Proof.Machine.execMcCtlRemove g s
  | .mcRejoinAdmit g receiver => Sys2Proof.Machine.execMcRejoinAdmit g receiver s
  | .mcBehindTimeout g receiver => Sys2Proof.Machine.execMcBehindTimeout g receiver s
  | .mcModeDisable g => Sys2Proof.Machine.execMcModeDisable g s
  | .mcModeSet g v => Sys2Proof.Machine.execMcModeSet g v s
  | .mcRejoin g => Sys2Proof.Machine.execMcRejoin g s
  | .egressStallTimeout port vl => Sys2Proof.Machine.execEgressStallTimeout port vl s
  | .heartbeatSend => Sys2Proof.Machine.execHeartbeatSend s
  | .heartbeatReceive port hb => Sys2Proof.Machine.execHeartbeatReceive port hb s
  | .twinLost => Sys2Proof.Machine.execTwinLost s
  | .takeoverEnWrite v => Sys2Proof.Machine.execTakeoverEnWrite v s
  | .mirWrite seq addr data poison => Sys2Proof.Machine.execMirWrite seq addr data poison s
  | .mirAck applied => Sys2Proof.Machine.execMirAck applied s
  | .mirStateWrite region v => Sys2Proof.Machine.execMirStateWrite region v s
  | .sendSlotDoorbell slot f => Sys2Proof.Machine.execSendSlotDoorbell slot f s
  | .sendSlotTimeout slot => Sys2Proof.Machine.execSendSlotTimeout slot s
  | .bar0Access off len wr => Sys2Proof.Machine.execBar0Access off len wr s
  | .bar2Access off len wr => Sys2Proof.Machine.execBar2Access off len wr s
  | .outboundAccess place len wr reply => Sys2Proof.Machine.execOutboundAccess place len wr reply s
  | .rootPortRequest q addr len ask => Sys2Proof.Machine.execRootPortRequest q addr len ask s
  | .perstNAssert => Sys2Proof.Machine.execPerstNAssert s
  | .perstNDeassert => Sys2Proof.Machine.execPerstNDeassert s
  | .endpointLinkUp => Sys2Proof.Machine.execEndpointLinkUp s
  | .endpointD0Entry => Sys2Proof.Machine.execEndpointD0Entry s
  | .rpPerstWrite v => Sys2Proof.Machine.execRpPerstWrite v s
  | .vectorRaise v ctlErr => Sys2Proof.Machine.execVectorRaise v ctlErr s
  | .vectorDeliver v => Sys2Proof.Machine.execVectorDeliver v s
  | .wdtKick v => Sys2Proof.Machine.execWdtKick v s
  | .wdtHalfPeriod => Sys2Proof.Machine.execWdtHalfPeriod s
  | .wdtExpire => Sys2Proof.Machine.execWdtExpire s
  | .corePoisonLoad core addr => Sys2Proof.Machine.execCorePoisonLoad core addr s
  | .measureLast addr => Sys2Proof.Machine.execMeasureLast addr s
  | .measureRuntime digest => Sys2Proof.Machine.execMeasureRuntime digest s
  | .measureDone => Sys2Proof.Machine.execMeasureDone s
  | .nonceWrite nonce => Sys2Proof.Machine.execNonceWrite nonce s
  | .quoteSigned => Sys2Proof.Machine.execQuoteSigned s
  | .fwImageWrite image => Sys2Proof.Machine.execFwImageWrite image s
  | .fwImageWriteDone => Sys2Proof.Machine.execFwImageWriteDone s
  | .restart v => Sys2Proof.Machine.execRestart v s
  | .fullRestart => Sys2Proof.Machine.execFullRestart s
  | .config rec => Sys2Proof.Machine.execConfig rec s
  | .configVerifyDone => Sys2Proof.Machine.execConfigVerifyDone s
  | .idCertWrite cert => Sys2Proof.Machine.execIdCertWrite cert s
  | .islandPowerUp pattern => Sys2Proof.Machine.execIslandPowerUp pattern s
  | .auxInputLoss => Sys2Proof.Machine.execAuxInputLoss s
  | .fmpDatagramReceive src bytes fragmented => Sys2Proof.Machine.execFmpDatagramReceive src bytes fragmented s
  | .fmpRead => Sys2Proof.Machine.execFmpRead s
  | .fmpWrite => Sys2Proof.Machine.execFmpWrite s
  | .readSeg => Sys2Proof.Machine.execReadSeg s
  | .writeSeg => Sys2Proof.Machine.execWriteSeg s
  | .poll => Sys2Proof.Machine.execPoll s
  | .sessionOpen => Sys2Proof.Machine.execSessionOpen s
  | .sessionAuth => Sys2Proof.Machine.execSessionAuth s
  | .sessionAuthDone => Sys2Proof.Machine.execSessionAuthDone s
  | .sessionClose => Sys2Proof.Machine.execSessionClose s
  | .fmpUndefinedOp => Sys2Proof.Machine.execFmpUndefinedOp s
  | .heartbeat addr hb => Sys2Proof.Machine.execHeartbeat addr hb s
  | .challengeTimeout sid => Sys2Proof.Machine.execChallengeTimeout sid s
  | .sessionIdleTimeout sid => Sys2Proof.Machine.execSessionIdleTimeout sid s
  | .segTransferTimeout src obj => Sys2Proof.Machine.execSegTransferTimeout src obj s
  | .handleExpire handle => Sys2Proof.Machine.execHandleExpire handle s
  | .mailboxDoorbell core len req => Sys2Proof.Machine.execMailboxDoorbell core len req s
  | .objectWrite path obj value => Sys2Proof.Machine.execObjectWrite path obj value s
  | .objectCopyRefresh => Sys2Proof.Machine.execObjectCopyRefresh s
  | .eventRecordWrite cls code unit sub data => Sys2Proof.Machine.execEventRecordWrite cls code unit sub data s
  | .eventMergeExpire cls code unit sub => Sys2Proof.Machine.execEventMergeExpire cls code unit sub s
  | .eventSendTimeout => Sys2Proof.Machine.execEventSendTimeout s
  | .enterPoise => Sys2Proof.Machine.execEnterPoise s
  | .enterHold => Sys2Proof.Machine.execEnterHold s
  | .enterRest => Sys2Proof.Machine.execEnterRest s
  | .enterDormant => Sys2Proof.Machine.execEnterDormant s
  | .wakeEvent acc => Sys2Proof.Machine.execWakeEvent acc s
  | .exitComplete => Sys2Proof.Machine.execExitComplete s
  | .powerSample milliwatts => Sys2Proof.Machine.execPowerSample milliwatts s
  | .capStepAdjust => Sys2Proof.Machine.execCapStepAdjust s
  | .powerHoldEscalate => Sys2Proof.Machine.execPowerHoldEscalate s
  | .tjSample deciC => Sys2Proof.Machine.execTjSample deciC s
  | .throttleStep => Sys2Proof.Machine.execThrottleStep s
  | .throttleEnd => Sys2Proof.Machine.execThrottleEnd s
  | .tripEnd => Sys2Proof.Machine.execTripEnd s
  | .vinWarn mv => Sys2Proof.Machine.execVinWarn mv s
  | .vinWarnEnd mv => Sys2Proof.Machine.execVinWarnEnd mv s
  | .vinReset mv => Sys2Proof.Machine.execVinReset mv s
  | .railWarn die mv => Sys2Proof.Machine.execRailWarn die mv s
  | .railReset die => Sys2Proof.Machine.execRailReset die s
  | .pllLockLoss die => Sys2Proof.Machine.execPllLockLoss die s
  | .healthPoll answered => Sys2Proof.Machine.execHealthPoll answered s
  | .dieLost => Sys2Proof.Machine.execDieLost s
  | .fenceRequestWrite stk v => Sys2Proof.Machine.execFenceRequestWrite stk v s
  | .moduleReset => Sys2Proof.Machine.execModuleReset s
  | .moduleResetWrite v => Sys2Proof.Machine.execModuleResetWrite v s
  | .moduleResetDelayExpire => Sys2Proof.Machine.execModuleResetDelayExpire s
  | .mrstNAssert => Sys2Proof.Machine.execMrstNAssert s
  | .mrstNRelease => Sys2Proof.Machine.execMrstNRelease s
  | .mainRailsRamp slots => Sys2Proof.Machine.execMainRailsRamp slots s
  | .ageingMeasure shifts => Sys2Proof.Machine.execAgeingMeasure shifts s
  | .stressTick => Sys2Proof.Machine.execStressTick s
  | .dayRollover => Sys2Proof.Machine.execDayRollover s
  | .lifeRecompute => Sys2Proof.Machine.execLifeRecompute s
  | .sidebandRefresh => Sys2Proof.Machine.execSidebandRefresh s
  | .setdasa addr => Sys2Proof.Machine.execSetdasa addr s
  | .entdaa addr => Sys2Proof.Machine.execEntdaa addr s
  | .enec => Sys2Proof.Machine.execEnec s
  | .sidebandRead off len => Sys2Proof.Machine.execSidebandRead off len s
  | .ibiAck => Sys2Proof.Machine.execIbiAck s
  | .mainRailsUp => Sys2Proof.Machine.execMainRailsUp s
  | .vinResetRelease => Sys2Proof.Machine.execVinResetRelease s
  | .mgmtLinkUp => Sys2Proof.Machine.execMgmtLinkUp s
  | .mgmtLinkDown => Sys2Proof.Machine.execMgmtLinkDown s
  | .rootPortLinkUp q => Sys2Proof.Machine.execRootPortLinkUp q s
  | .rootPortLinkDown q => Sys2Proof.Machine.execRootPortLinkDown q s
  | .endpointLinkDown => Sys2Proof.Machine.execEndpointLinkDown s
  | .endpointConfigWrite w => Sys2Proof.Machine.execEndpointConfigWrite w s
  | .hbmChannelLost stack => Sys2Proof.Machine.execHbmChannelLost stack s
  | .ddrChannelFailure channel => Sys2Proof.Machine.execDdrChannelFailure channel s
  | .stateEntryComplete => Sys2Proof.Machine.execStateEntryComplete s

end Sys2Proof.Machine
end

