-- ==== Sys2Proof/Safety.lean ====
section
/-!
DEFINITION. What the statements about the block are said in: that a command answers a next state with a property, which parts of
the state two states share, which objects, and the memory as software reads it.
-/

namespace Sys2Proof

open Sys2Proof.Machine

/-- The command answers a next state, and that state has the property: neither a fault nor a refusal. -/
def Answers (c : Instr) (s : State) (post : State → Prop) : Prop := ∃ t, exec c s = .next t ∧ post t

/-- The parts of the state. -/
inductive Part where
  | cycle | subTick | objects | copy | blobs | memory | array | streams | hub | network | fabric | island | free | queue
deriving DecidableEq, Repr

/-- Two states agree on a part. -/
def Part.Same : Part → State → State → Prop
  | .cycle, s, t => t.cycle = s.cycle
  | .subTick, s, t => t.subTick = s.subTick
  | .objects, s, t => t.obj = s.obj
  | .copy, s, t => t.copy = s.copy
  | .blobs, s, t => t.blob = s.blob
  | .memory, s, t => t.mem = s.mem
  | .array, s, t => t.arr = s.arr
  | .streams, s, t => t.streams = s.streams
  | .hub, s, t => t.hub = s.hub
  | .network, s, t => t.net = s.net
  | .fabric, s, t => t.fab = s.fab
  | .island, s, t => t.isl = s.isl
  | .free, s, t => t.free = s.free
  | .queue, s, t => t.pending = s.pending

/-- At most the parts named differ. -/
def OnlyParts (l : List Part) (s t : State) : Prop := ∀ p, p ∉ l → p.Same s t

/-- Every object and counter but those named reads as before. -/
def OnlyObjects (l : List Nat) (s t : State) : Prop := ∀ n, n ∉ l → t.get n = s.get n

/-- The objects that a write to memory, a record put on a ring and the signals that follow them can move: counters (7160:03,
7160:04, 7160:07, 7160:08, 7160:0D, 7160:0E, 7160:11, 7170:02, 7170:06, 7170:08, 7170:09, 7170:0F, 7190:0D, 7190:0E, 71A0:06,
71B0:08 to 0A, 7F00:07), the log position 7E00:02, the sequence numbers 1020:04 and 5100:06, and STATE of the sixteen mirror regions
5600 to 560F (R202, R216, R240, R304, R317, R368, R414, R415). -/
def sideObject (n : Nat) : Bool :=
  [0x716003, 0x716004, 0x716007, 0x716008, 0x71600D, 0x71600E, 0x716011, 0x717002, 0x717006, 0x717008, 0x717009, 0x71700F, 0x71900D,
    0x71900E, 0x71A006, 0x71B008, 0x71B009, 0x71B00A, 0x7F0007, 0x7E0002, 0x102004, 0x510006].contains n ||
    (decide (0x5600 ≤ n / 256) && decide (n / 256 < 0x5610) && decide (n % 256 = 4))

/-- Every object but those named, and those that records and memory writes move, reads as before. -/
def OnlyObjectsAndSides (l : List Nat) (s t : State) : Prop := ∀ n, n ∉ l → sideObject n = false → t.get n = s.get n

/-- The island is up and the module is not in recovery: rows that write one object are served (R330, R345). -/
def Serves (s : State) : Prop := s.isl.trust.up = true ∧ s.get 0x600001 ≠ 2

/-- The byte a reader finds at a physical address, as memory stores it. -/
def byteAt (s : State) (a : Nat) : Byte := SMap.get s.mem.bytes a 0

/-- Every byte of memory outside [a, a + n) reads as before. -/
def OnlyBytes (a n : Nat) (s t : State) : Prop := ∀ x, (x < a ∨ a + n ≤ x) → byteAt t x = byteAt s x

/-- An event has happened once more: its counter reads one more, modulo 2^64 (R372). -/
def CountedBy (n k : Nat) (s t : State) : Prop := t.get n = (s.get n + k) % 2 ^ 64

/-- The counters that a read by address moves: unmapped reads, gated banks, poisoned lines and clipped reads (R187, R193, R207,
R218). -/
def readCounters : List Nat := [0x716004, 0x716008, 0x71600E, 0x717001]

end Sys2Proof
end

