-- ==== Sys2Proof/Certificates/Slice0/Obligations.lean ====
section
/-!
DEFINITION. The statements about the block, for the provers: each a proposition about `exec`, `step` or the state after reset.
-/

open Sys2Proof
open Sys2Proof.Machine

/-! ## The queue, the clock and reset -/

/-- A step is the front command run on the state with the queue's rest. The queue is the model's own (log entry 1). -/
def Obligations.StepRunsTheFrontCommand : Prop :=
  ∀ (s : State) (c : Instr) (rest : List Instr),
    step { s with pending := c :: rest } = exec c { s with pending := rest }

/-- On an empty queue time passes: an array cycle where that clock runs, a tick of the always-on clock elsewhere, nothing before
the island is up (the model's choice, log entry 2; R9, R373, R375). -/
def Obligations.EmptyQueueLetsTimePass : Prop :=
  ∀ s : State, s.pending = [] → ∃ t, step s = .next t ∧ t.pending = [] ∧
    (s.isl.trust.up = false → t = s) ∧
    (s.isl.trust.up = true → s.railsUp = true → s.get 0x200006 ≤ 2 →
      t.cycle = s.cycle + 1 ∧
      (s.subTick + 1 < tickCycles (s.get 0x200009) → t.subTick = s.subTick + 1 ∧ t.get 0x203001 = s.get 0x203001) ∧
      (tickCycles (s.get 0x200009) ≤ s.subTick + 1 → t.subTick = 0 ∧ CountedBy 0x203001 1 s t)) ∧
    (s.isl.trust.up = true → ¬(s.railsUp = true ∧ s.get 0x200006 ≤ 2) →
      t.cycle = s.cycle ∧ t.subTick = s.subTick ∧ CountedBy 0x203001 1 s t)

/-- Every command answers, whatever its operands and the state, and no command touches the commands that wait behind it. -/
def Obligations.EveryCommandKeepsTheQueue : Prop :=
  ∀ (c : Instr) (s : State), Answers c s fun t => t.pending = s.pending

/-- The machine after reset. Values that the spec does not give are the model's own (log entry 3). -/
def Obligations.ResetLeavesTheModuleUnpowered : Prop :=
  State.reset.pending = [] ∧ State.reset.cycle = 0 ∧ State.reset.tick = 0 ∧ State.reset.isl.trust.up = false ∧
  State.reset.railsUp = false ∧ State.reset.mem.bytes = [] ∧ State.reset.arr.ops = [] ∧
  (∀ n, State.reset.ring n = Ring.zero) ∧ (∀ k, State.reset.count k = 0) ∧ (∀ v, State.reset.vector v = Machine.Vector.zero) ∧
  (∀ e n, State.reset.thread e n = Thread.reset) ∧ (∀ p, State.reset.port p = Port.down) ∧
  (∀ n, State.reset.get n = objDefault n % 2 ^ 64)

/-- The memory of the reset state is in canonical form: rising addresses, no byte equal to what an unlisted address reads as. -/
def Obligations.MemoryFormHoldsAtReset : Prop := Memory.wf State.reset.mem.bytes = true

/-- Every step keeps the canonical form of memory: every store, fill and loss, of every command and of the clock. -/
def Obligations.EveryStepKeepsTheMemoryForm : Prop :=
  ∀ s t : State, Memory.wf s.mem.bytes = true → step s = .next t → Memory.wf t.mem.bytes = true

/-! ## The issue ring and operations -/

/-- The hub may take the entry `x` at the head of the issue ring, and `s1` is the state in which its slot has been read and CI has
moved past it (R242, R243). -/
def IssueHeadIs (s : State) (x : IssueEntry) (s1 : State) : Prop :=
  s.mayIssue = true ∧ ringBroken (s.ring 0) = false ∧ ∃ u, s.issueHead = some (x, u) ∧ s1 = u.issueAdvance

/-- What taking an issue entry does besides its own effect: CI of ring 0 advances by one, and the reads of its slot count (R240,
R243). -/
def IssueRingAdvanced (s t : State) : Prop :=
  t.ring 0 = (s.ring 0).setCi ((s.ring 0).ci + 1) ∧ ∀ n, n ≠ 0 → t.ring n = s.ring n

/-- The command that takes an operation with the given descriptor, by OPCODE and SUBF (R70, R71). -/
def operationCommand (d : List Byte) : Instr :=
  match field d 1 1 with
  | 1 => .spmm
  | 2 => .spgemm
  | 3 => .sddmm
  | 4 => .conv
  | 5 => .gather
  | 6 => .scatter
  | 7 => .eltwise
  | 8 => .reduce
  | 9 => .softmax
  | 10 => (match field d 0x50 1 with
    | 0 => .formatConvertToBlocked
    | 2 => .blockTranspose
    | _ => .formatConvertToPlain)
  | 11 => .predict
  | 12 => .transposeCopy
  | _ => .unknownOperation

/-- Each operation command takes the operation whose descriptor names it: it is appended with the tick, the cycle and the dies
active now, CI of ring 0 advances, and nothing else changes but the counts of the reads (R66, R70, R71, R181, R242, R243). -/
def OperationIsTakenFromTheIssueRing : Prop :=
  ∀ (s : State) (x : IssueEntry) (s1 : State), IssueHeadIs s x s1 → x.poison = false → x.kind = 1 → s1.finalBegun = true →
    Answers (operationCommand (s1.readPhys (x.arg % 2 ^ 52 / 128 * 128) 128).1) s fun t =>
      (∃ op, t.arr = { s.arr with ops := s.arr.ops ++ [op] } ∧ op.addr = x.arg % 2 ^ 52 / 128 * 128 ∧
        op.desc = (s1.readPhys (x.arg % 2 ^ 52 / 128 * 128) 128).1 ∧
        op.descPoison = (s1.readPhys (x.arg % 2 ^ 52 / 128 * 128) 128).2.1 ∧ op.tTaken = s.tick ∧ op.issuedAt = s.cycle ∧
        op.active = s.activeDies ∧ op.dies = [] ∧ op.plan = none ∧ op.noPhase = none ∧ op.counts = Counts.zero) ∧
      IssueRingAdvanced s t ∧ t.hub = { s.hub with rings := t.hub.rings } ∧
      OnlyParts [.objects, .array, .hub] s t ∧ OnlyObjectsAndSides readCounters s t

/-- WAIT, SIGNAL and entries that are skipped (R242, R243, R248, R408). -/
def WaitSignalAndSkippedEntriesAreTaken : Prop :=
  ∀ (s : State) (x : IssueEntry) (s1 : State), IssueHeadIs s x s1 →
    (x.poison = false → x.kind = 3 → 16 ≤ x.obj → x.arg ≤ s.count x.obj → Answers .issueWait s fun t =>
      IssueRingAdvanced s t ∧ t.hub = { s.hub with rings := t.hub.rings } ∧
        OnlyParts [.objects, .hub] s t ∧ OnlyObjectsAndSides readCounters s t) ∧
    (x.poison = false → x.kind = 3 → 16 ≤ x.obj → s.count x.obj < x.arg → exec .issueWait s = .next s) ∧
    (x.poison = false → x.kind = 3 → x.obj < 16 → Answers .issueWait s fun t =>
      IssueRingAdvanced s t ∧ t.get 0x71700F = (s.get 0x71700F + 1) % 2 ^ 64 ∧ t.hub = { s.hub with rings := t.hub.rings } ∧
        OnlyParts [.objects, .hub] s t ∧ OnlyObjectsAndSides readCounters s t) ∧
    (x.poison = false → x.kind = 4 → 16 ≤ x.obj → Answers .issueSignal s fun t =>
      IssueRingAdvanced s t ∧ t.count x.obj = (s.count x.obj + x.arg) % 2 ^ 64 ∧ (∀ k, k ≠ x.obj → t.count k = s.count k) ∧
        t.hub = { s.hub with rings := t.hub.rings, sync := t.hub.sync, added := t.hub.added } ∧
        OnlyParts [.objects, .hub] s t ∧ OnlyObjectsAndSides readCounters s t) ∧
    (x.poison = false → x.kind = 4 → x.obj < 16 → Answers .issueSignal s fun t =>
      IssueRingAdvanced s t ∧ t.get 0x71700F = (s.get 0x71700F + 1) % 2 ^ 64 ∧ t.hub = { s.hub with rings := t.hub.rings } ∧
        OnlyParts [.objects, .hub] s t ∧ OnlyObjectsAndSides readCounters s t) ∧
    (x.poison = false → (x.kind = 0 ∨ 4 < x.kind) → Answers .issueSkipped s fun t =>
      IssueRingAdvanced s t ∧ t.get 0x71700B = (s.get 0x71700B + 1) % 2 ^ 64 ∧ t.hub = { s.hub with rings := t.hub.rings } ∧
        OnlyParts [.objects, .hub] s t ∧ OnlyObjectsAndSides (0x71700B :: readCounters) s t) ∧
    (x.poison = true → Answers .issueSkipped s fun t =>
      t.ring 0 = (s.ring 0).setCi ((s.ring 0).ci + 1) ∧ (∀ n, n ≠ 0 → n ≠ s.eventRing → t.ring n = s.ring n) ∧
        t.get 0x71B005 = (s.get 0x71B005 + 1) % 2 ^ 64 ∧
        OnlyParts [.objects, .memory, .hub, .fabric, .island] s t ∧ OnlyObjectsAndSides (0x71B005 :: readCounters) s t)

/-- Entries of the issue ring that name no stream command (R66, R70, R71, R181, R242, R243, R248, R408). -/
def Obligations.IssueEntriesAreTakenInRingOrder : Prop := OperationIsTakenFromTheIssueRing ∧ WaitSignalAndSkippedEntriesAreTaken

/-! ## Operations in the array -/

/-- At most operation `i` differs among the operations under way. -/
def OnlyOperation (i : Nat) (s t : State) : Prop :=
  t.arr.ops.length = s.arr.ops.length ∧ ∀ j, j ≠ i → t.op j = s.op j

/-- Within operation `i` at most die `d` has moved on. -/
def OnlyDieOf (i d : Nat) (s t : State) : Prop :=
  OnlyOperation i s t ∧ ∀ e, e ≠ d → (t.op i).die e = (s.op i).die e

/-- A line that a write by address reaches: HBM, DDR5, or a scratchpad bank that is awake (R187, R193). -/
def Writable (s : State) (a : Nat) : Prop :=
  match s.place a with
  | .hbm _ _ => True
  | .tier _ _ => True
  | .scratch d o => s.bankAwake d (spBank o) = true
  | _ => False

/-- The objects that reads made for an operation can count: unmapped, clipped, gated, poisoned and uncorrectable lines (R187, R193,
R207, R216, R218). -/
def opReadCounters : List Nat := [0x716003, 0x716004, 0x716008, 0x71600D, 0x71600E, 0x717001]

/-- The arrival of a descriptor (R25, R260), the checks on control data (R27, R70, R155, R408) and a tensor's due metadata (R159,
R173). -/
def Obligations.DescriptorArrivesAndIsChecked : Prop :=
  (∀ (s : State) (die i : Nat), s.opAt die .idle = some i → (s.op i).noPhase = none →
    (s.op i).issuedAt + 12 * descriptorHops (s.op i).active die + 1 ≤ s.cycle →
    Answers (.descriptorArrival die) s fun t =>
      ((t.op i).die die).stage = .fetching ∧ ((t.op i).die die).fetchAt = s.cycle + 1 ∧ OnlyDieOf i die s t ∧
      CountedBy 0x718001 (2 * (descriptorLinks (s.op i).active die).1) s t ∧
      CountedBy 0x718006 (if (descriptorLinks (s.op i).active die).2 then 1 else 0) s t ∧
      (die ≠ (s.op i).die0 ∨ ((s.op i).descPoison = false ∧ (s.op i).od.kind ≠ .unknown) →
        (t.op i).noPhase = none ∧ OnlyParts [.objects, .array] s t ∧ OnlyObjects [0x718001, 0x718006] s t) ∧
      (die = (s.op i).die0 → (s.op i).descPoison = true →
        (t.op i).noPhase = some (1, 0) ∧ (t.op i).foundAt = s.cycle ∧ CountedBy 0x71B005 1 s t ∧
          OnlyParts [.objects, .memory, .array, .hub, .fabric, .island] s t ∧
          OnlyObjectsAndSides [0x71B005, 0x718001, 0x718006] s t) ∧
      (die = (s.op i).die0 → (s.op i).descPoison = false → (s.op i).od.kind = .unknown →
        (t.op i).noPhase = some (0x10, 0) ∧ (t.op i).foundAt = s.cycle + 1 ∧ OnlyParts [.objects, .array] s t ∧
          OnlyObjects [0x718001, 0x718006] s t)) ∧
  (∀ (s : State) (i : Nat),
    s.findOp (fun op => op.noPhase.isNone && !op.headerChecked && decide ((op.die op.die0).stage ≠ .idle)) = some i →
    ((s.op i).die (s.op i).die0).fetchAt + s.headerLatency (s.op i) ≤ s.cycle →
    ((s.op i).plan ≠ none ∨ s.controlCheck (s.op i) = .sound → Answers .lastHeaderCheck s fun t =>
      (t.op i).headerChecked = true ∧ (t.op i).noPhase = none ∧ (t.op i).dies = (s.op i).dies ∧ OnlyOperation i s t ∧
        OnlyParts [.objects, .array] s t ∧ OnlyObjects opReadCounters s t) ∧
    (∀ st x, (s.op i).plan = none → s.controlCheck (s.op i) = .fault st x → Answers .lastHeaderCheck s fun t =>
      (t.op i).headerChecked = true ∧ (t.op i).noPhase = some (st, x) ∧ (t.op i).foundAt = s.cycle ∧
        (t.op i).dies = (s.op i).dies ∧ CountedBy 0x715003 1 s t ∧ OnlyOperation i s t ∧ OnlyParts [.objects, .array] s t ∧
        OnlyObjects (0x715003 :: opReadCounters) s t) ∧
    (∀ sub a, (s.op i).plan = none → s.controlCheck (s.op i) = .poison sub a → Answers .lastHeaderCheck s fun t =>
      (t.op i).headerChecked = true ∧ (t.op i).noPhase = some (1, 0) ∧ (t.op i).foundAt = s.cycle ∧
        (t.op i).dies = (s.op i).dies ∧ CountedBy 0x71B005 1 s t ∧ OnlyOperation i s t ∧
        OnlyParts [.objects, .memory, .array, .hub, .fabric, .island] s t ∧
        OnlyObjectsAndSides (0x71B005 :: opReadCounters) s t)) ∧
  (∀ (s : State) (die i : Nat) (opd : Opd) (x : Opd × Nat), s.opAt die .fetching = some i →
    ((s.op i).die die).due.find? (fun y => y.1 = opd) = some x → x.2 ≤ s.cycle →
    (Answers (.metadataDue die opd true) s fun t =>
      ((t.op i).die die).due = ((s.op i).die die).due.erase x ∧ OnlyDieOf i die s t ∧ OnlyParts [.array] s t ∧
        (∀ e, e ≠ die → t.hold e = s.hold e) ∧
        (((t.op i).die die).lateMeta s.cycle = true ∨ (s.opBusy die).isSome = true → t.hold die = s.hold die) ∧
        (((t.op i).die die).lateMeta s.cycle = false → s.opBusy die = none → t.hold die = { s.hold die with supply := false })) ∧
    (Answers (.metadataDue die opd false) s fun t =>
      t.hold die = { s.hold die with supply := true } ∧ (∀ e, e ≠ die → t.hold e = s.hold e) ∧ t.arr.ops = s.arr.ops ∧
        ((s.hold die).supply = false → CountedBy 0x715006 1 s t) ∧ ((s.hold die).supply = true → t.obj = s.obj) ∧
        OnlyParts [.objects, .array] s t ∧ OnlyObjects [0x715006] s t))

/-- Lasting (R26, R152, R155, R159), the start of the first phase (R159, R162) and the expiry of a phase counter (R112, R162, R180). -/
def Obligations.LastingAndPhasesRunTheirCourse : Prop :=
  (∀ (s : State) (die i : Nat), s.opAt die .fetching = some i → (s.op i).noPhase = none → ((s.op i).die die).due = [] →
    ((s.op i).die die).fetchAt ≤ s.cycle → s.prevClosed i die = true → s.fencePending = (0, 0) →
    ∀ m, m = (makePlan s (s.op i).desc (s.op i).active die (s.knobsOf (s.op i)) (s.op i).snaps).1 →
    (∀ pl, (s.op i).plan = some pl → Answers (.lastingStart die) s fun t =>
      ((t.op i).die die).stage = .lasting ∧ ((t.op i).die die).lastAt = s.cycle ∧ ((t.op i).die die).ran = 0 ∧
        (t.op i).plan = some (pl.rebind m (s.op i).active die) ∧
        CountedBy 0x715002 ((pl.rebind m (s.op i).active die).die die).tLast s t ∧ OnlyDieOf i die s t) ∧
    ((s.op i).plan = none → (s.op i).headerChecked = true ∨ s.runsPhases (s.op i) = true → Answers (.lastingStart die) s fun t =>
      ((t.op i).die die).stage = .lasting ∧ ((t.op i).die die).lastAt = s.cycle ∧ ((t.op i).die die).ran = 0 ∧
        (t.op i).plan = some m ∧ CountedBy 0x715002 (m.die die).tLast s t ∧ CountedBy 0x715001 1 s t ∧ OnlyDieOf i die s t)) ∧
  (∀ (s : State) (die i : Nat) (pl : Plan), s.opAt die .lasting = some i → (s.op i).plan = some pl →
    (pl.die die).tLast ≤ ((s.op i).die die).ran → s.held die = false →
    Answers (.phaseCountersStart die) s fun t =>
      ((t.op i).die die).stage = .running ∧ ((t.op i).die die).phase = 1 ∧ ((t.op i).die die).startAt = s.cycle ∧
        ((t.op i).die die).counter = (pl.die die).lens.getD 0 0 ∧ ((t.op i).die die).ran = 0 ∧ (t.op i).plan = some pl ∧
        OnlyDieOf i die s t) ∧
  (∀ (s : State) (die i : Nat), s.opAt die .running = some i → ((s.op i).die die).counter = 0 →
    ((s.op i).die die).expiredAt = none → ((s.op i).od.kind ≠ .conv → s.accSettled die = true) →
    Answers (.phaseCounterExpire die) s fun t =>
      ((t.op i).die die).expiredAt = some s.cycle ∧
      (((s.op i).die die).phase = (s.op i).phases → ((s.op i).die die).lapDone = false → ((t.op i).die die).stage = .running) ∧
      (((s.op i).die die).phase ≠ (s.op i).phases ∨ ((s.op i).die die).lapDone = true → ((t.op i).die die).stage = .arrived) ∧
      ((s.op i).od.kind ≠ .conv → (∀ b, b < 64 → t.confOf die b = []) ∧ (∀ r, r < 41 → (t.flushOf die r).rows = [])) ∧
      OnlyDieOf i die s t ∧ (((s.op i).die die).phase ≠ (s.op i).phases → OnlyParts [.objects, .array] s t) ∧
      OnlyParts [.objects, .memory, .array, .fabric] s t)

/-- What a die finds once a release sends it on from phase `ph` of operation `i`: the next phase begins now with its bound length. -/
def NextPhaseBegins (i die : Nat) (s t : State) : Prop :=
  ((t.op i).die die).stage = .running ∧ ((t.op i).die die).phase = ((s.op i).die die).phase + 1 ∧
    ((t.op i).die die).startAt = s.cycle ∧
    (∀ pl, (s.op i).plan = some pl → ((t.op i).die die).counter = (pl.die die).lens.getD ((s.op i).die die).phase 0) ∧
    ((t.op i).die die).ran = 0 ∧ ((t.op i).die die).releaseAt = none ∧ OnlyDieOf i die s t

/-- What a die finds once the final barrier releases it: the operation is closed on it, and on the die ranked 0 its CYCLES are the cycles
since its lasting began (R171, R244). -/
def DieCloses (i die : Nat) (s t : State) : Prop :=
  ((t.op i).die die).stage = .closed ∧ ((t.op i).die die).releaseAt = none ∧
    (∀ e, e ≠ die → (t.op i).die e = (s.op i).die e) ∧ t.arr.ops.length = s.arr.ops.length ∧
    (die = (s.op i).die0 → (t.op i).counts.cycles = s.cycle - ((s.op i).die die).lastAt)

/-- The barriers of an operation (R121, R162, R167 to R171, R174). -/
def Obligations.BarriersReleaseTheDies : Prop :=
  (∀ (s : State) (die i : Nat),
    s.findOp (fun op => op.barrier.flights.any fun f => decide (f.dst = die) && decide (f.due ≤ s.cycle)) = some i →
    Answers (.barrierArrivalReceive die) s fun t =>
      (∀ f ∈ (t.op i).barrier.flights, ¬(f.dst = die ∧ f.due ≤ s.cycle)) ∧ (t.op i).dies = (s.op i).dies ∧
        OnlyOperation i s t ∧ OnlyParts [.array] s t ∧
        ∀ f old sum rest, (s.op i).barrier.flights.filter (fun g => g.dst = die ∧ g.due ≤ s.cycle) = [f] →
          rest = (s.op i).barrier.flights.filter (fun g => !(g.dst = die ∧ g.due ≤ s.cycle)) →
          old = SMap.get (s.op i).barrier.sums die (0, []) → sum = (old.1 + f.count, maxima old.2 f.maxima) →
          (sum.1 < subtreeSize (s.op i).active (s.op i).tree 20 die ∨ SMap.get (s.op i).barrier.sent die false = true →
            SMap.get (t.op i).barrier.sums die (0, []) = sum ∧ (t.op i).barrier.flights = rest ∧
              (t.op i).barrier.releases = (s.op i).barrier.releases ∧ (t.op i).gmax = (s.op i).gmax) ∧
          (subtreeSize (s.op i).active (s.op i).tree 20 die ≤ sum.1 → SMap.get (s.op i).barrier.sent die false = false →
            (∀ p, parentIn (s.op i).active (s.op i).tree die = some p →
              (t.op i).barrier.flights = rest ++ [{ dst := p, due := s.cycle + 13, count := sum.1, maxima := sum.2 }] ∧
                SMap.get (t.op i).barrier.sent die false = true ∧
                (t.op i).barrier.releases = (s.op i).barrier.releases ∧ (t.op i).gmax = (s.op i).gmax) ∧
            (parentIn (s.op i).active (s.op i).tree die = none →
              (t.op i).barrier.releases = (s.op i).barrier.releases ++ [s.cycle] ∧ (t.op i).barrier.sums = [] ∧
                (t.op i).barrier.sent = [] ∧ (t.op i).barrier.flights = [] ∧
                (t.op i).gmax = (if (s.op i).barrier.releases = [] then sum.2 else (s.op i).gmax)))) ∧
  (∀ (s : State) (die i due : Nat), s.opAt die .arrived = some i →
    (s.op i).releaseDue die ((s.op i).die die).phase = some due → due ≤ s.cycle → ((s.op i).die die).releaseAt = none →
    (s.held die = true ∨ ((s.op i).driven die = false ∧ s.cycle < (s.op i).nominal die) →
      Answers (.barrierReleaseArrival die) s fun t =>
      ((t.op i).die die).releaseAt = some s.cycle ∧ ((t.op i).die die).stage = .arrived ∧
        ((t.op i).die die).phase = ((s.op i).die die).phase ∧ OnlyDieOf i die s t) ∧
    (s.held die = false → ((s.op i).driven die = true ∨ (s.op i).nominal die ≤ s.cycle) →
      (((s.op i).die die).phase < (s.op i).phases → Answers (.barrierReleaseArrival die) s fun t => NextPhaseBegins i die s t) ∧
      ((s.op i).phases ≤ ((s.op i).die die).phase → s.fencePending = (0, 0) →
        Answers (.barrierReleaseArrival die) s fun t => DieCloses i die s t))) ∧
  (∀ (s : State) (die i : Nat), s.opAt die .arrived = some i → ((s.op i).die die).releaseAt ≠ none → s.held die = false →
    ((s.op i).driven die = true ∨ (s.op i).nominal die ≤ s.cycle) →
    (((s.op i).die die).phase < (s.op i).phases → Answers (.nominalRelease die) s fun t => NextPhaseBegins i die s t) ∧
    ((s.op i).phases ≤ ((s.op i).die die).phase → s.fencePending = (0, 0) →
      Answers (.nominalRelease die) s fun t => DieCloses i die s t))

/-- The completion record of an operation that ran (R27, R233, R235 to R240, R244, R245). -/
def Obligations.CompletionRecordLeavesTheArray : Prop :=
  ∀ (s : State) (op : OpCtx) (rest : List OpCtx), s.arr.ops = op :: rest → op.noPhase = none → op.closed = true →
    op.poisoned = false → s.mirrorWait op.mirSeq = false → s.fencePending = (0, 0) →
    ∀ n r a, n = op.od.cring % 2 ^ 13 → r = s.ring n → a = ringSlotAddr n r r.pi →
      ringBroken r = false → ringType n r = 3 → ringFull r = false → ringSlotSize n r = 128 → a + 128 ≤ 2 ^ 52 →
      (s.hub.held.any fun h => h.ring = n) = false → Writable s a → Writable s (a + 64) →
      Answers .completionRecordWrite s fun t =>
        t.arr = { s.arr with ops := rest } ∧ t.ring n = r.setPi (r.pi + 1) ∧ (∀ m, m ≠ n → t.ring m = s.ring m) ∧
        (∀ k, k < 128 → byteAt t (a + k) = (recordBytes
          { kind := 1, status := 0, state := 0, tag := op.od.tag, tDone := s.tick, tTaken := op.tTaken, code := op.od.opcode,
            xcode := 0, poison := false, awl := (op.plan.map fun p => p.awlMode != 0).getD false, forecast := op.forecast,
            deadline := op.od.deadline } op.counts).getD k 0) ∧
        OnlyBytes a 128 s t ∧ OnlyParts [.objects, .memory, .array, .hub, .fabric, .island] s t ∧ OnlyObjectsAndSides [] s t

/-! ## Laps, collector slots and accumulators -/

/-- The lap of operation `i` that a die carries now: the record, the step in it, and the size of a shard (R178). -/
def LapOf (s : State) (die i : Nat) (lap : LapRec) (k size : Nat) : Prop :=
  s.findOp (fun op => op.active.contains die && !(op.die die).lapDone && 1 ≤ (op.die die).phase && (op.lapNow die).isSome) = some i ∧
    (s.op i).lapNow die = some (lap, k, size)

/-- The shards that a lap step needs have come: with the first step of a later lap both the die's own shards and its predecessor's of the
laps before; with a later step the predecessor's shard of the step before (R178, R179). -/
def LapReady (s : State) (die i k : Nat) : Prop :=
  let prev := (s.op i).die (ringPrev (s.op i).active die)
  let mine := (s.op i).die die
  let n := lapSteps (s.op i).active.length
  (k = 0 ∧ mine.lapStep / n = 0) ∨
    (k = 0 ∧ prev.sentBy (mine.lapStep / n * n) s.cycle = true ∧ mine.sentBy (mine.lapStep / n * n) s.cycle = true) ∨
    (k ≠ 0 ∧ prev.sentBy mine.lapStep s.cycle = true)

/-- No line written is mirrored, and no mirror event waits to be recorded (R303, R304). -/
def NothingMirrored (s : State) : Prop := (∀ a, s.mirrors a = []) ∧ s.fab.mirEvents = []

/-- Lap steps and the completion of the laps on a die (R178 to R180). -/
def Obligations.LapStepsForwardShardsAndComplete : Prop :=
  (∀ (s : State) (die i : Nat) (lap : LapRec) (k size : Nat), LapOf s die i lap k size → LapReady s die i k → NothingMirrored s →
    ∀ n pos succ sh own, n = (s.op i).active.length → pos = ringPos (s.op i).active die → succ = ringNext (s.op i).active die →
      sh = shardOf lap.z size ((pos + n - k) % n) →
      own = (if k = 0 then s.lapCopy i die die lap.src (lap.dst + (shardOf lap.z size pos).1) (shardOf lap.z size pos).2 else s) →
    Answers (.lapStep die) s fun t =>
      ((t.op i).die die).lapStep = ((s.op i).die die).lapStep + 1 ∧ OnlyDieOf i die s t ∧
      OnlyParts [.objects, .memory, .array] s t ∧
      (2 ≤ n →
        ((t.op i).die die).lapDue = ((s.op i).die die).lapDue ++ [s.cycle + (ceilDiv size 448 + 12 * ringHops (s.op i).active)] ∧
        CountedBy 0x71500A sh.2 s t ∧
        CountedBy 0x718001 (ceilDiv sh.2 64 * (route (s.op i).active die succ).1.length) s t ∧
        CountedBy 0x718006 (if (route (s.op i).active die succ).2 then ceilDiv (ceilDiv sh.2 64) 64 else 0) s t ∧
        t.mem = (own.lapCopy i die succ (if k = 0 then lap.src else lap.dst + sh.1) (lap.dst + sh.1) sh.2).mem) ∧
      (n ≤ 1 →
        ((t.op i).die die).lapDue = ((s.op i).die die).lapDue ++ [s.cycle + ceilDiv size 448] ∧
        CountedBy 0x71500A 0 s t ∧ CountedBy 0x718001 0 s t ∧ t.mem = own.mem)) ∧
  (∀ (s : State) (die i total : Nat),
    s.findOp (fun op => op.active.contains die && !(op.die die).lapDone && 1 ≤ (op.die die).phase) = some i →
    total = ((s.op i).plan.map fun pl => pl.laps.length).getD 0 * lapSteps (s.op i).active.length →
    ((s.op i).die die).sentBy total s.cycle = true →
    ((s.op i).die (ringPrev (s.op i).active die)).sentBy total s.cycle = true →
    Answers (.lapComplete die) s fun t =>
      ((t.op i).die die).lapDone = true ∧ OnlyDieOf i die s t ∧ OnlyParts [.objects, .array] s t ∧ OnlyObjects [0x71500B] s t ∧
      ((((s.op i).die die).expiredAt = none ∨ ((s.op i).die die).stage ≠ .running) →
        ((t.op i).die die).stage = ((s.op i).die die).stage ∧ t.obj = s.obj) ∧
      (∀ c, ((s.op i).die die).expiredAt = some c → ((s.op i).die die).stage = .running →
        ((t.op i).die die).stage = .arrived ∧ CountedBy 0x71500B (s.cycle - c) s t))

/-- A collector slot (R131, R270), and the arbiter of a reserved direction (R270). -/
def Obligations.CollectorSlotTakesItsLink : Prop :=
  (∀ (s : State) (die i k : Nat) (dir : Dir),
    s.findOp (fun op => (op.slotNow die (dirPort dir)).isSome) = some i → (s.op i).slotNow die (dirPort dir) = some k →
    s.held die = false →
    Answers (.collectorSlot die dir) s fun t =>
      t.net.reserved.get (die * 4 + dirPort dir) 0 = s.cycle + 4 ∧
      (∀ j, j ≠ die * 4 + dirPort dir → t.net.reserved.get j 0 = s.net.reserved.get j 0) ∧
      t.net.bufs = s.net.bufs ∧ t.net.arbiters = s.net.arbiters ∧ t.net.flying = s.net.flying ∧
      (t.op i).slotsUsed = (s.op i).slotsUsed ++ [k] ∧ (t.op i).counts.collSlots = (s.op i).counts.collSlots + 1 ∧
      (t.op i).dies = (s.op i).dies ∧ CountedBy 0x713004 1 s t ∧ CountedBy 0x718001 16 s t ∧ OnlyOperation i s t ∧
      OnlyParts [.objects, .array, .network] s t ∧ OnlyObjects [0x713004, 0x718001] s t) ∧
  (∀ (s : State) (die : Nat) (dir : Dir) (arrivals : List ArbReq), s.railsUp = true → s.fenced die = false →
    s.slotNow (.weltLink die dir) = true → (s.arbiter (.weltLink die dir)).round ≠ s.cycle + 1 →
    Answers (.arbiterGrant (.weltLink die dir) arrivals) s fun t =>
      (t.arbiter (.weltLink die dir)).holder = (s.arbiter (.weltLink die dir)).holder ∧
      (∀ w ∈ (t.arbiter (.weltLink die dir)).waiters, (w.age = 0 ∧ w.rounds = 0) ∨
        ∃ v ∈ (s.arbiter (.weltLink die dir)).waiters,
          v.port = w.port ∧ v.key = w.key ∧ v.xfer = w.xfer ∧ v.stamp = w.stamp ∧ v.age = w.age ∧ v.rounds = w.rounds) ∧
      (∀ j, j ≠ .weltLink die dir → t.arbiter j = s.arbiter j) ∧
      t.net.bufs = (s.mergeAdds die (dirNumber dir)).net.bufs ∧ t.net.flying = s.net.flying ∧
      t.net.reserved = s.net.reserved ∧ OnlyParts [.objects, .network] s t ∧ OnlyObjects [0x718007] s t)

/-- A row update as it reaches its bank: poisoned where a parity error was found at the bank's input (R402). -/
def arrivedRow (req : AccReq) (parity : Bool) : AccReq := if parity then { req with poison := true } else req

/-- The parts of the state that presenting a row update can change: with a parity error its record too (R403). -/
def rowParts (parity : Bool) : List Part :=
  if parity then [.objects, .memory, .array, .hub, .network, .fabric, .island] else [.objects, .array, .network]

/-- A bank of a die has accepted the update `req` of row `k`, its row read with errors: an update of an invalid slot writes its row,
sets the valid bit and leaves every other row of the slot zero; one of a valid slot combines with the row held (R106 to R109, R195). -/
def RowAccepted (s t : State) (die k : Nat) (req : AccReq) (errs : List WordErr) : Prop :=
  CountedBy 0x713001 1 s t ∧ t.accTaken die (accBank k) = true ∧
    (s.arr.valid.get (k / 64) false = false →
      (t.arr.acc.get k AccRow.zero).vals = req.vals ∧ t.arr.valid.get (k / 64) false = true ∧
        ∀ j, j ≠ k → j / 64 = k / 64 → t.arr.acc.get j AccRow.zero = AccRow.zero) ∧
    (s.arr.valid.get (k / 64) false = true →
      t.arr.acc.get k AccRow.zero = (accCombine (s.arr.acc.get k AccRow.zero) req errs).1 ∧
        ∀ j, j ≠ k → t.arr.acc.get j AccRow.zero = s.arr.acc.get j AccRow.zero)

/-- Row updates at the accumulator banks (R105 to R107, R112, R114, R195, R402). -/
def Obligations.AccumulatorBanksTakeRowUpdates : Prop :=
  (∀ (s : State) (die r i ran : Nat) (f : Flush) (req : AccReq) (rest : List AccReq) (errs : List WordErr) (parity : Bool),
    s.opAt die .running = some i → s.held die = false → ran = ((s.op i).die die).ran → f = (s.flushOf die r).at ran →
    f.full = req :: rest → f.sentAt ≠ s.cycle + 1 →
    (req.row = none → Answers (.accRowUpdate die r errs parity) s fun t =>
      t.flushOf die r = f.sent ran s.cycle true ∧ (t.flushOf die r).full = rest ∧
        (∀ d e, d * 41 + e ≠ die * 41 + r → t.flushOf d e = s.flushOf d e) ∧ CountedBy 0x717002 1 s t ∧ t.arr.acc = s.arr.acc ∧
        t.arr.valid = s.arr.valid ∧ t.arr.confQ = s.arr.confQ ∧ OnlyParts [.objects, .array] s t ∧ OnlyObjects [0x717002] s t) ∧
    (∀ k, req.row = some k → 16 ≤ (s.confOf die (accBank k)).length → Answers (.accRowUpdate die r errs parity) s fun t =>
      t.flushOf die r = f.sent ran s.cycle false ∧ (t.flushOf die r).full = req :: rest ∧
        (∀ d e, d * 41 + e ≠ die * 41 + r → t.flushOf d e = s.flushOf d e) ∧ CountedBy 0x713003 1 s t ∧ t.arr.acc = s.arr.acc ∧
        t.arr.valid = s.arr.valid ∧ t.arr.confQ = s.arr.confQ ∧ OnlyParts [.objects, .array, .network] s t ∧
        OnlyObjects [0x713003, 0x718002, 0x718004, 0x718005] s t) ∧
    (∀ k, req.row = some k → (s.confOf die (accBank k)).length < 16 →
      (s.confOf die (accBank k) ≠ [] ∨ s.accTaken die (accBank k) = true) → Answers (.accRowUpdate die r errs parity) s fun t =>
      t.flushOf die r = f.sent ran s.cycle true ∧ (t.flushOf die r).full = rest ∧
        (∀ d e, d * 41 + e ≠ die * 41 + r → t.flushOf d e = s.flushOf d e) ∧
        t.confOf die (accBank k) = s.confOf die (accBank k) ++ [arrivedRow req parity] ∧
        (∀ d b, d * 64 + b ≠ die * 64 + accBank k → t.confOf d b = s.confOf d b) ∧ CountedBy 0x713002 1 s t ∧
        CountedBy 0x71B001 (if parity then 1 else 0) s t ∧ t.arr.acc = s.arr.acc ∧ t.arr.valid = s.arr.valid ∧
        OnlyParts (rowParts parity) s t) ∧
    (∀ k, req.row = some k → s.confOf die (accBank k) = [] → s.accTaken die (accBank k) = false →
      Answers (.accRowUpdate die r errs parity) s fun t =>
      t.flushOf die r = f.sent ran s.cycle true ∧ (t.flushOf die r).full = rest ∧
        (∀ d e, d * 41 + e ≠ die * 41 + r → t.flushOf d e = s.flushOf d e) ∧ RowAccepted s t die k (arrivedRow req parity) errs ∧
        CountedBy 0x71B001 (if parity then 1 else 0) s t ∧ t.arr.confQ = s.arr.confQ ∧ OnlyParts (rowParts parity) s t)) ∧
  (∀ (s : State) (die b i k : Nat) (req : AccReq) (rest : List AccReq) (errs : List WordErr), s.opAt die .running = some i →
    s.confOf die b = req :: rest → req.row = some k → s.accTaken die b = false →
    Answers (.conflictQueueServe die ⟨b, errs⟩) s fun t =>
      t.confOf die b = rest ∧ (∀ d c, d * 64 + c ≠ die * 64 + b → t.confOf d c = s.confOf d c) ∧ RowAccepted s t die k req errs ∧
      t.arr.flush = s.arr.flush ∧ OnlyParts [.objects, .array] s t)

/-! ## Memory: HBM, DDR5 and scratchpads -/

/-- A line holds the given bytes, of which there are 64 wherever a line is written whole. -/
def LineIs (t : State) (a : Nat) (data : List Byte) : Prop := ∀ k, k < 64 → k < data.length → byteAt t (a + k) = data.getD k 0

/-- No mirrored region takes a write to the line, and no divergence waits to be reported (R303, R304). -/
def Unmirrored (s : State) (a : Nat) : Prop := s.mirrors a = [] ∧ s.fab.mirEvents = []

/-- A line delivered to a requester `wait` cycles from now, in place of the one delivered to it before. -/
def DeliveredTo (s t : State) (rq : Requester) (wait addr : Nat) (data : List Byte) (poison : Bool) : Prop :=
  t.mem.delivered = (s.mem.delivered.filter fun d => d.rq ≠ rq) ++
    [{ rq := rq, arrives := s.cycle + wait, addr := addr, data := data, poison := poison }]

/-- An address at which no HBM line lies. -/
def NoHbm (s : State) (addr : Nat) : Prop := ∀ die off, s.place addr ≠ .hbm die off

/-- An address at which no DDR5 line lies. -/
def NoTier (s : State) (addr : Nat) : Prop := ∀ c off, s.place addr ≠ .tier c off

/-- A read at an address that holds no line of the kind delivers zeros and counts as unmapped and clipped (R187). -/
def UnmappedReadAnswered (s t : State) (rq : Requester) (wait addr : Nat) : Prop :=
  DeliveredTo s t rq wait addr (List.replicate 64 0) false ∧ CountedBy 0x71600E 1 s t ∧ CountedBy 0x717001 1 s t ∧
    t.mem.bytes = s.mem.bytes ∧ OnlyParts [.objects, .memory] s t ∧ OnlyObjects [0x71600E, 0x717001] s t

/-- A write at an address that holds no line of the kind writes nothing and counts as unmapped and clipped (R187). -/
def UnmappedWriteDropped (s t : State) : Prop :=
  CountedBy 0x71600E 1 s t ∧ CountedBy 0x717002 1 s t ∧ OnlyParts [.objects] s t ∧ OnlyObjects [0x71600E, 0x717002] s t

/-- A read as its channel keeps it: the line, its check difference and its tag as every write accepted before left them. -/
def acceptedRead (s : State) (addr : Nat) (rq : Requester) (waited die off : Nat) : HbmRead where
  id := s.mem.nextRead
  addr := addr
  rq := rq
  acceptedAt := s.cycle
  waited := waited
  delay := s.refreshDelay addr die off
  data := s.bytesAt (addr / 64 * 64) 64
  diff := s.diffAt (addr / 64)
  tag := s.mem.tag.get (addr / 64) 0
  stale := false
  reply := none
  result := none

/-- The response that a read made for another die is owed, with its destination and the priority of its request (R253, R265). -/
def owedRead (s : State) (r : HbmRead) (x : Nat × Nat) (data : List Byte) (poison : Bool) : OwedLine where
  die := r.addr / 0x800000000
  due := s.cycle
  dst := x.1
  prio := x.2
  addr := r.addr
  beat := { data := data, poison := poison }

/-- The fixed-latency read path (R172, R187, R196, R198 to R201, R205, R207). -/
def Obligations.HbmReadsAreAcceptedDecodedDelivered : Prop :=
  (∀ (s : State) (addr : Nat) (rq : Requester) (waited : Nat), s.railsUp = true →
    (∀ die off, s.place addr = .hbm die off → s.channelFree (die * 16 + hbmChannel off) = true →
      Answers (.hbmReadAccept addr rq waited) s fun t =>
        t.mem.reads = s.mem.reads ++ [acceptedRead s addr rq waited die off] ∧
        t.mem.nextRead = s.mem.nextRead + 1 ∧ t.channelTaken (die * 16 + hbmChannel off) = true ∧ t.mem.bytes = s.mem.bytes ∧
        t.mem.tag = s.mem.tag ∧ t.mem.check = s.mem.check ∧ OnlyParts [.memory] s t) ∧
    (NoHbm s addr → Answers (.hbmReadAccept addr rq waited) s fun t => UnmappedReadAnswered s t rq 0 addr)) ∧
  (∀ (s : State) (id : Nat) (err : List (Nat × Byte)) (r : HbmRead) (die off : Nat) (d : Decoded),
    s.mem.reads.find? (fun r => r.id = id) = some r → s.place r.addr = .hbm die off → r.result = none →
    r.acceptedAt + 72 + r.delay ≤ s.cycle → d = decodeWord (s.radius (.hbm die off)) r.data r.diff err →
    Answers (.hbmReadDecode id err) s fun t =>
      t.mem.reads = s.mem.reads.map (fun x => if x.id = id then
        { x with result := some (d.data, tagPoisoned (tagRead r.tag err) || d.changed.isNone, d.changed.getD 0) } else x) ∧
      (tagPoisoned (tagRead r.tag err) = false → d.changed = none →
        CountedBy 0x716003 1 s t ∧ (r.stale = false → t.mem.writeback.get (r.addr / 64) [] = d.rawData ++ d.rawDiff)) ∧
      (r.stale = true → t.mem.writeback = s.mem.writeback) ∧
      (3 ≤ d.changed.getD 0 → CountedBy 0x715004 1 s t ∧ (t.hold die).eccUntil = s.cycle + 9) ∧
      (d.changed.getD 0 < 3 → t.arr.holds = s.arr.holds) ∧ t.mem.bytes = s.mem.bytes ∧
      OnlyParts [.objects, .memory, .array, .streams, .island] s t ∧
      OnlyObjects [0x71600F, 0x716003, 0x716004, 0x715004, 0x71B008] s t) ∧
  (∀ (s : State) (id : Nat) (r : HbmRead) (data : List Byte) (poison : Bool) (n : Nat),
    s.mem.reads.find? (fun r => r.id = id) = some r → r.result = some (data, poison, n) →
    r.acceptedAt + (if 3 ≤ n then 92 else 84) + r.delay ≤ s.cycle →
    Answers (.hbmReadDeliver id) s fun t =>
      t.mem.reads = s.mem.reads.filter (fun x => x.id ≠ id) ∧ DeliveredTo s t r.rq 0 r.addr data poison ∧
      (1 ≤ n → n ≤ 2 → CountedBy 0x716001 1 s t) ∧ (3 ≤ n → CountedBy 0x716002 1 s t) ∧
      (r.waited + r.delay ≠ 0 → CountedBy 0x716005 1 s t ∧ CountedBy 0x716006 (r.waited + r.delay) s t) ∧
      (r.reply = none → t.net = s.net) ∧
      (∀ x, r.reply = some x → t.net = { s.net with answers := s.net.answers ++ [owedRead s r x data poison] }) ∧
      t.mem.bytes = s.mem.bytes ∧ OnlyParts [.objects, .memory, .network, .island] s t ∧
      OnlyObjects [0x716001, 0x716002, 0x716005, 0x716006] s t)

/-- Writes of HBM lines, write-backs, refresh and scrub (R198, R201 to R203, R207, R208). -/
def Obligations.HbmLinesAreWrittenMergedAndScrubbed : Prop :=
  (∀ (s : State) (addr : Nat) (data : List Byte) (poison : Bool), s.railsUp = true →
    (∀ die off, s.place addr = .hbm die off → s.place (addr / 64 * 64) = .hbm die (off / 64 * 64) →
      s.channelFree (die * 16 + hbmChannel off) = true → Unmirrored s (addr / 64 * 64) →
      Answers (.hbmWriteAccept addr data poison) s fun t =>
        LineIs t (addr / 64 * 64) (fit 64 data) ∧ t.mem.tag.get (addr / 64) 0 = tagOf poison ∧
        t.mem.check.get (addr / 64) [] = [] ∧ t.channelTaken (die * 16 + hbmChannel off) = true ∧
        OnlyBytes (addr / 64 * 64) 64 s t ∧ OnlyParts [.objects, .memory] s t) ∧
    (NoHbm s addr → Answers (.hbmWriteAccept addr data poison) s fun t => UnmappedWriteDropped s t)) ∧
  (∀ (s : State) (addr : Nat) (en : U64) (data : List Byte) (poison : Bool) (rq : Requester) (err : List (Nat × Byte)),
    s.railsUp = true →
    (∀ (p : Place) (d : Decoded), s.place addr = p →
      ((∃ die off, p = .hbm die off) ∧ s.channelFree p.channel = true ∨ (∃ c off, p = .tier c off) ∧ s.channelTaken p.channel = false) →
      Unmirrored s (addr / 64 * 64) →
      d = decodeWord (s.radius p) (s.bytesAt (addr / 64 * 64) 64) (s.diffAt (addr / 64)) err →
      Answers (.readModifyWrite addr en data poison ⟨rq, err⟩) s fun t =>
        (∀ k, k < 64 → bit en.toNat k = true → byteAt t (addr / 64 * 64 + k) = (fit 64 data).getD k 0) ∧
        (∀ k, k < 64 → k < d.data.length → bit en.toNat k = false → byteAt t (addr / 64 * 64 + k) = d.data.getD k 0) ∧
        t.mem.tag.get (addr / 64) 0 = tagOf (tagPoisoned (tagRead (s.mem.tag.get (addr / 64) 0) err) || d.changed.isNone || poison) ∧
        t.mem.check.get (addr / 64) [] = [] ∧ t.channelTaken p.channel = true ∧ CountedBy 0x716007 1 s t ∧
        t.arr.holds = s.arr.holds ∧ OnlyBytes (addr / 64 * 64) 64 s t ∧
        OnlyParts [.objects, .memory, .array, .streams, .island] s t) ∧
    (NoHbm s addr → NoTier s addr → Answers (.readModifyWrite addr en data poison ⟨rq, err⟩) s fun t => UnmappedWriteDropped s t)) ∧
  (∀ (s : State) (addr : Nat), s.mem.writeback.get (addr / 64) [] ≠ [] → Unmirrored s (addr / 64 * 64) →
    Answers (.poisonWriteback addr) s fun t =>
      LineIs t (addr / 64 * 64) ((s.mem.writeback.get (addr / 64) []).take 64) ∧ t.mem.tag.get (addr / 64) 0 = 0xFFFF ∧
      t.mem.writeback.get (addr / 64) [] = [] ∧ OnlyBytes (addr / 64 * 64) 64 s t ∧ OnlyParts [.memory] s t) ∧
  (∀ (s : State) (addr : Nat) (raw : List Byte) (bad : Bool), s.mem.scrub.get (addr / 64) ([], false) = (raw, bad) → raw ≠ [] →
    Unmirrored s (addr / 64 * 64) →
    Answers (.scrubWriteback addr) s fun t =>
      LineIs t (addr / 64 * 64) (raw.take 64) ∧
      t.mem.tag.get (addr / 64) 0 = (if bad then 0xFFFF else s.mem.tag.get (addr / 64) 0) ∧
      t.mem.scrub.get (addr / 64) ([], false) = ([], false) ∧ OnlyBytes (addr / 64 * 64) 64 s t ∧ OnlyParts [.memory] s t) ∧
  (∀ (s : State) (die ch bank cycles : Nat), s.railsUp = true → s.gone die = false →
    Answers (.hbmRefresh die ch bank cycles) s fun t =>
      t.mem.refresh.get ((die * 16 + ch) * 64 + bank) 0 = s.cycle + min cycles 280 ∧
      (∀ k, k ≠ (die * 16 + ch) * 64 + bank → t.mem.refresh.get k 0 = s.mem.refresh.get k 0) ∧
      t.mem.bytes = s.mem.bytes ∧ OnlyParts [.memory] s t) ∧
  (∀ (s : State) (addr : Nat) (err : List (Nat × Byte)) (p : Place) (d : Decoded), s.railsUp = true → s.place addr = p →
    ((∃ die off, p = .hbm die off) ∧ s.get 0x400003 ≠ 0 ∧ s.queueLength p.channel = 0 ∨ (∃ c off, p = .tier c off) ∧ s.get 0x400004 ≠ 0) →
    s.channelTaken p.channel = false →
    d = decodeWord (s.radius p) (s.bytesAt (addr / 64 * 64) 64) (s.diffAt (addr / 64)) err →
    Answers (.patrolScrubRead addr err) s fun t =>
      CountedBy 0x716010 1 s t ∧
      (∀ n, d.changed = some (n + 1) → t.mem.scrub.get (addr / 64) ([], false) = (d.data ++ List.replicate 8 0, false)) ∧
      (d.changed = none → tagPoisoned (tagRead (s.mem.tag.get (addr / 64) 0) err) = false →
        t.mem.scrub.get (addr / 64) ([], false) = (d.rawData ++ d.rawDiff, true)) ∧
      t.mem.bytes = s.mem.bytes ∧ t.mem.tag = s.mem.tag ∧ OnlyParts [.objects, .memory, .island] s t)

/-- Holds (R172 to R174, R228). -/
def Obligations.HoldsStopAndRelease : Prop :=
  (∀ (s : State) (die : Nat) (line : Option Nat), (s.opBusy die).isSome = true →
    (∀ l, line = some l → s.linePending die l = true) →
    Answers (.supplyHoldStart ⟨die, line⟩) s fun t =>
      t.hold die = { s.hold die with supply := true, awaits := line.toList ++ (s.hold die).awaits } ∧
      (∀ e, e ≠ die → t.hold e = s.hold e) ∧ t.arr.ops = s.arr.ops ∧
      ((s.hold die).supply = false → CountedBy 0x715006 1 s t) ∧ ((s.hold die).supply = true → t.obj = s.obj) ∧
      OnlyParts [.objects, .array] s t ∧ OnlyObjects [0x715006] s t) ∧
  (∀ (s : State) (die l : Nat), s.linePending die l = false → exec (.supplyHoldStart ⟨die, (some l)⟩) s = .next s) ∧
  (∀ (s : State) (die : Nat), (s.hold die).awaits.any (fun l => s.linePending die l) = true → exec (.supplyHoldEnd die) s = .next s) ∧
  (∀ (s : State) (die : Nat), s.opAt die .arrived = none →
    ((s.hold die).awaits.any (fun l => s.linePending die l) = false → Answers (.supplyHoldEnd die) s fun t =>
      t.hold die = { s.hold die with supply := false, awaits := [] } ∧ (∀ e, e ≠ die → t.hold e = s.hold e) ∧
        t.arr.ops = s.arr.ops ∧ OnlyParts [.array] s t) ∧
    ((s.hold die).eccUntil ≤ s.cycle → Answers (.holdEnd die) s fun t =>
      t.hold die = { s.hold die with eccFrom := 0, eccUntil := 0 } ∧ (∀ e, e ≠ die → t.hold e = s.hold e) ∧
        t.arr.ops = s.arr.ops ∧ OnlyParts [.array] s t)) ∧
  (∀ (s : State) (die i : Nat), s.opAt die .arrived = some i → ((s.op i).die die).releaseAt ≠ none →
    ((s.op i).driven die = true ∨ (s.op i).nominal die ≤ s.cycle) → ((s.op i).die die).phase < (s.op i).phases →
    ((s.hold die).awaits.any (fun l => s.linePending die l) = false → (s.hold die).ecc s.cycle = false →
      (s.hold die).powered s.cycle = false → Answers (.supplyHoldEnd die) s fun t =>
      (t.hold die).supply = false ∧ NextPhaseBegins i die s t ∧ ∀ e, e ≠ die → t.hold e = s.hold e) ∧
    ((s.hold die).eccUntil ≤ s.cycle → (s.hold die).supply = false → (s.hold die).powered s.cycle = false →
      Answers (.holdEnd die) s fun t =>
        (t.hold die).eccUntil = 0 ∧ NextPhaseBegins i die s t ∧ ∀ e, e ≠ die → t.hold e = s.hold e))

/-- DDR5 lines (R187, R203, R205, R207, R212) and scratchpad lines (R187, R191 to R193, R403). -/
def Obligations.TierAndScratchpadLinesAreAccessed : Prop :=
  (∀ (s : State) (addr : Nat) (rq : Requester) (err : List (Nat × Byte)), s.railsUp = true →
    (∀ (c off : Nat) (d : Decoded), s.place addr = .tier c off → s.channelTaken (320 + c) = false →
      d = decodeWord (s.radius (.tier c off)) (s.bytesAt (addr / 64 * 64) 64) (s.diffAt (addr / 64)) err →
      Answers (.tierRead addr rq err) s fun t =>
        DeliveredTo s t rq 0 addr d.data (tagPoisoned (tagRead (s.mem.tag.get (addr / 64) 0) err) || d.changed.isNone) ∧
        t.mem.bytes = s.mem.bytes ∧ t.mem.tag = s.mem.tag ∧ t.arr.holds = s.arr.holds ∧
        OnlyParts [.objects, .memory, .array, .streams, .island] s t) ∧
    (NoTier s addr → Answers (.tierRead addr rq err) s fun t => UnmappedReadAnswered s t rq 0 addr)) ∧
  (∀ (s : State) (addr : Nat) (data : List Byte) (poison : Bool), s.railsUp = true →
    (∀ c off c' off', s.place addr = .tier c off → s.place (addr / 64 * 64) = .tier c' off' → s.channelTaken (320 + c) = false →
      Unmirrored s (addr / 64 * 64) →
      Answers (.tierWrite addr data poison) s fun t =>
        LineIs t (addr / 64 * 64) (fit 64 data) ∧ t.mem.tag.get (addr / 64) 0 = tagOf poison ∧
        OnlyBytes (addr / 64 * 64) 64 s t ∧ OnlyParts [.objects, .memory] s t) ∧
    (NoTier s addr → Answers (.tierWrite addr data poison) s fun t => UnmappedWriteDropped s t)) ∧
  (∀ (s : State) (die off o a : Nat) (errs : List WordErr) (parity : Bool), o = off % 0x2000000 / 64 * 64 → a = scratchAddr die o →
    die < 20 → s.railsUp = true → s.bankTaken die (spBank o) = false →
    (s.fenced die = false → s.bankAwake die (spBank o) = true →
      (∀ rd, rd = wordsRead (lineWords (s.bytesAt a 64)) errs → Answers (.scratchpadAccess die off none errs parity) s fun t =>
        DeliveredTo s t (.engine die 40) 3 a (wordsLine rd.1) (majority (s.mem.spFlag.get (a / 64) 0) || rd.2.2) ∧
        CountedBy 0x716009 rd.2.1 s t ∧ CountedBy 0x71600A (if rd.2.2 then 1 else 0) s t ∧
        t.bankTaken die (spBank o) = true ∧ t.mem.bytes = s.mem.bytes ∧ OnlyParts [.objects, .memory] s t ∧
        OnlyObjects [0x716009, 0x71600A] s t) ∧
      (∀ w : SpWrite, Answers (.scratchpadAccess die off (some w) errs parity) s fun t =>
        (∀ k, k < 64 → byteAt t (a + k) = if bit w.enable.toNat k then (fit 64 w.data).getD k 0 else byteAt s (a + k)) ∧
        CountedBy 0x71B001 (if parity then 1 else 0) s t ∧ t.bankTaken die (spBank o) = true ∧
        OnlyBytes a 64 s t ∧ OnlyParts (if parity then [.objects, .memory, .island] else [.memory]) s t ∧
        OnlyObjects [0x71B001, 0x71B008] s t)) ∧
    (s.fenced die = false → s.bankAwake die (spBank o) = false →
      (∀ w : SpWrite, Answers (.scratchpadAccess die off (some w) errs parity) s fun t =>
        CountedBy 0x716008 1 s t ∧ OnlyParts [.objects] s t ∧ OnlyObjects [0x716008] s t) ∧
      (Answers (.scratchpadAccess die off none errs parity) s fun t =>
        DeliveredTo s t (.engine die 40) 3 a (List.replicate 64 0) false ∧ CountedBy 0x716008 1 s t ∧
          t.mem.bytes = s.mem.bytes ∧ OnlyParts [.objects, .memory] s t ∧ OnlyObjects [0x716008] s t)) ∧
    (s.fenced die = true →
      (∀ w : SpWrite, Answers (.scratchpadAccess die off (some w) errs parity) s fun t => UnmappedWriteDropped s t) ∧
      (Answers (.scratchpadAccess die off none errs parity) s fun t => UnmappedReadAnswered s t (.engine die 40) 3 a)))

/-- Bank enables (R193), decoder modes (R206) and task windows (R189). -/
def MemoryModesAndWindowsAreWritten : Prop :=
  (∀ (s : State) (die : Nat) (mask : U64), Serves s → die < 20 →
    (s.railsUp = true → s.arr.ops.any OpCtx.inProgress = false → Answers (.spEnableWrite die mask) s fun t =>
      t.get (0x402001 + die) = mask.toNat ∧ (∀ b, b < 64 → t.bankAwake die b = (s.bankAwake die b && bit mask.toNat b)) ∧
        OnlyParts [.objects, .memory] s t ∧ OnlyObjects [0x402001 + die, 0x402201 + die] s t) ∧
    (s.railsUp = true → s.arr.ops.any OpCtx.inProgress = true → Answers (.spEnableWrite die mask) s fun t =>
      t.get (0x402001 + die) = mask.toNat ∧ t.mem.spPending.find? (fun x => x.1 = die) = some (die, mask) ∧
        t.mem.bytes = s.mem.bytes ∧ OnlyParts [.objects, .memory] s t ∧ OnlyObjects [0x402001 + die] s t) ∧
    (s.railsUp = false → Answers (.spEnableWrite die mask) s fun t =>
      t.get (0x402001 + die) = mask.toNat ∧ OnlyParts [.objects] s t ∧ OnlyObjects [0x402001 + die] s t)) ∧
  (∀ (s : State) (v : Byte), Serves s →
    (s.arr.ops.any OpCtx.inProgress = false → Answers (.hbmEccModeWrite v) s fun t =>
      t.get 0x400001 = v.toNat ∧ (∀ d, d < 20 → t.mem.eccMode.get d 0 = if v = 1 then 1 else 0) ∧ t.mem.bytes = s.mem.bytes ∧
        OnlyParts [.objects, .memory] s t ∧ OnlyObjects [0x400001] s t) ∧
    (s.arr.ops.any OpCtx.inProgress = true → Answers (.hbmEccModeWrite v) s fun t =>
      t.get 0x400001 = v.toNat ∧ t.mem = { s.mem with eccPending := true } ∧ OnlyParts [.objects, .memory] s t ∧
        OnlyObjects [0x400001] s t) ∧
    (Answers (.ddrEccModeWrite v) s fun t =>
      t.get 0x400002 = v.toNat ∧ OnlyParts [.objects] s t ∧ OnlyObjects [0x400002] s t)) ∧
  (∀ (s : State) (task fld : Nat) (v : U64), Serves s →
    (s.taskBusy task = true → Answers (.taskWindowWrite task fld v) s fun t =>
      CountedBy 0x717005 1 s t ∧ OnlyParts [.objects] s t ∧ OnlyObjects [0x717005] s t) ∧
    (s.taskBusy task = false → Answers (.taskWindowWrite task fld v) s fun t =>
      t.get ((0x4100 + task) * 256 + fld) = v.toNat % 2 ^ windowBits fld ∧ OnlyParts [.objects] s t ∧
        OnlyObjects [(0x4100 + task) * 256 + fld] s t))

/-- Fills at power-up (R193, R197, R210, R211, R214, R394). -/
def FillsMakeMemoryReady : Prop :=
  (∀ (s : State) (die bank c : Nat), die < 20 → bank < 64 → s.mem.spFill.get (die * 64 + bank) 0 = c + 1 → c + 8392 ≤ s.cycle →
    Answers (.spBankFillDone die bank) s fun t =>
      (∀ b, b < 64 → t.bankAwake die b = (decide (b = bank) || s.bankAwake die b)) ∧
      t.mem.spFill.get (die * 64 + bank) 0 = 0 ∧ OnlyParts [.objects, .memory, .hub, .fabric, .island] s t ∧
      OnlyObjectsAndSides [0x402201 + die, 0x201001] s t) ∧
  (∀ (s : State) (die : Nat), die < 20 → s.railsUp = true → s.gone die = false → bit s.mem.filled.toNat die = false →
    Answers (.hbmFillDone die) s fun t =>
      bit t.mem.filled.toNat die = true ∧
      ((stackDies (dieStack die)).all (fun d => s.gone d || d = die || bit s.mem.filled.toNat d) = true →
        bit (t.get 0x201001) (14 + dieStack die) = true) ∧
      OnlyParts [.objects, .memory, .hub, .fabric, .island] s t ∧ OnlyObjectsAndSides [0x201001] s t) ∧
  (∀ (s : State) (c : Nat), c < 8 → s.railsUp = true → s.ddrState c = 2 → s.fenced (22 + c / 4) = false →
    Answers (.ddrFillDone c) s fun t =>
      t.ddrState c = 3 ∧ bit (t.get 0x201001) (44 + c) = true ∧ OnlyParts [.objects, .memory, .hub, .fabric, .island] s t)

/-- Bank enables, decoder modes, task windows (R189, R193, R206) and fills (R193, R197, R210, R211, R214, R394). -/
def Obligations.MemoryModesAreWrittenAndFillsMakeReady : Prop := MemoryModesAndWindowsAreWritten ∧ FillsMakeMemoryReady

/-! ## Streams -/

/-- The hub may take the stream command `c` at the head of the issue ring, and `s2` is the state in which its slot and its 64 bytes
have been read and CI has moved past it (R221, R243). -/
def CommandHeadIs (s : State) (c : Command) (s2 : State) : Prop :=
  ∃ x s1, IssueHeadIs s x s1 ∧ x.poison = false ∧ x.kind = 2 ∧
    c = Command.decode (s1.readPhys (x.arg % 2 ^ 52 / 64 * 64) 64).1 ∧ s2 = (s1.readPhys (x.arg % 2 ^ 52 / 64 * 64) 64).2.2.2

/-- At most the named thread of the streams differs. -/
def OnlyThread (eng thr : Nat) (s t : State) : Prop :=
  (∀ e n, e * 64 + n ≠ eng * 64 + thr → t.thread e n = s.thread e n) ∧ t.streams.laces = s.streams.laces

/-- START, REARM and STOP (R219 to R222, R246, R247, R379). -/
def StartRearmAndStopReachTheirThread : Prop :=
  ∀ (s : State) (c : Command) (s2 : State), CommandHeadIs s c s2 → c.valid = true →
    (c.cmd = 1 → s.refusal c = 0 → Answers .start s fun t =>
      (∃ th, t.thread c.eng c.thr = th ∧ th.mode = .running ∧ th.next = 0 ∧ th.issued = [] ∧ th.entries = [] ∧ th.fetched = 0 ∧
        th.list = c.list ∧ th.count = c.count ∧ th.batch = c.batch ∧ th.prio = c.prio ∧ th.task = c.task ∧ th.cring = c.cring ∧
        th.sync = c.sync ∧ th.persist = c.persist ∧ th.sbase = c.sbase ∧ th.dbase = c.dbase ∧ th.deadline = c.deadline ∧
        th.tag = c.tag ∧ th.tTaken = s.tick ∧ th.startedAt = s.cycle ∧ th.counts = Counts.zero) ∧
      t.get 0x200006 = (if s.get 0x200006 = 1 then 0 else s.get 0x200006) ∧ IssueRingAdvanced s t ∧ OnlyThread c.eng c.thr s t ∧
      t.streams.board = s.streams.board ∧
      OnlyParts [.objects, .hub, .streams] s t ∧ OnlyObjectsAndSides (0x200006 :: readCounters) s t) ∧
    (c.cmd = 2 → s.refusal c = 0 → Answers .rearm s fun t =>
      (∃ th, t.thread c.eng c.thr = th ∧ th.mode = .running ∧ th.next = 0 ∧ th.issued = [] ∧
        th.list = (s.thread c.eng c.thr).list ∧ th.count = (s.thread c.eng c.thr).count ∧ th.task = (s.thread c.eng c.thr).task ∧
        th.sync = (s.thread c.eng c.thr).sync ∧ th.cring = c.cring ∧ th.sbase = c.sbase ∧ th.dbase = c.dbase ∧ th.tag = c.tag ∧
        ((s.thread c.eng c.thr).retained = true → th.entries = (s.thread c.eng c.thr).entries) ∧
        ((s.thread c.eng c.thr).retained = false → th.entries = []) ∧ th.tTaken = s.tick ∧ th.counts = Counts.zero) ∧
      t.get 0x200006 = (if s.get 0x200006 = 1 then 0 else s.get 0x200006) ∧ t.streams.board = s.streams.board ∧
      IssueRingAdvanced s t ∧ OnlyThread c.eng c.thr s t ∧ OnlyParts [.objects, .hub, .streams] s t ∧
      OnlyObjectsAndSides (0x200006 :: readCounters) s t) ∧
    (c.cmd = 3 → s.refusal c = 0 → (s.thread c.eng c.thr).mode ≠ .parked → Answers .stop s fun t =>
      (∃ x, t.thread c.eng c.thr = { s.thread c.eng c.thr with stopping := (s.thread c.eng c.thr).stopping ++ [x] } ∧
        x.tag = c.tag ∧ x.cring = c.cring ∧ x.taken = s.tick ∧ x.deadline = c.deadline) ∧
      t.streams.board = s.streams.board ∧ IssueRingAdvanced s t ∧ OnlyThread c.eng c.thr s t ∧ OnlyParts [.objects, .hub, .streams] s t ∧
      OnlyObjectsAndSides readCounters s t) ∧
    (c.cmd = 3 → s.refusal c = 0 → (s.thread c.eng c.thr).mode = .parked →
      exec .stop s = .next ((s2.idleThread c.eng c.thr).commandRecord 3 c.tag c.cring c.deadline s.tick 0 0) ∧
        Answers .stop s fun t =>
          t.thread c.eng c.thr = Thread.reset ∧ t.streams.board = s.streams.board.filter (fun m => m.key ≠ c.eng * 64 + c.thr) ∧
          t.fab.remotes = s.fab.remotes.filter (fun r => !(r.eng = c.eng ∧ r.thr = c.thr)) ∧ OnlyThread c.eng c.thr s t ∧
          t.ring 0 = (s.ring 0).setCi ((s.ring 0).ci + 1) ∧
          OnlyParts [.objects, .memory, .streams, .hub, .fabric, .island] s t ∧ OnlyObjectsAndSides readCounters s t) ∧
    (s.refusal c ≠ 0 → ∀ i, ((c.cmd = 1 ∧ i = .start) ∨ (c.cmd = 2 ∧ i = .rearm) ∨ (c.cmd = 3 ∧ i = .stop)) →
      exec i s = .next ((s2.bump 0x717005 1).commandRecord c.cmd c.tag c.cring c.deadline s.tick 0x20 (s.refusal c)) ∧
        Answers i s fun t => t.streams = s.streams ∧ CountedBy 0x717005 1 s t ∧ t.ring 0 = (s.ring 0).setCi ((s.ring 0).ci + 1))

/-- QUERY, undefined commands (R222, R246, R247), and the completion of a stop (R220, R222, R304). -/
def QueryAndInvalidCommandsWriteRecords : Prop :=
  (∀ (s : State) (c : Command) (s2 : State), CommandHeadIs s c s2 →
    (c.valid = true → c.cmd = 4 → ∀ st, ((c.eng < 20 ∧ 62 ≤ c.thr) → st = if s.ownThread c.eng c.thr && !s.fenced c.eng then 1 else 3) →
      (¬(c.eng < 20 ∧ 62 ≤ c.thr) → st = (match (s.thread c.eng c.thr).mode with
        | .running => 1
        | .parked => 2
        | .idle => 3)) →
      exec .query s = .next (s2.commandRecord 4 c.tag c.cring c.deadline s.tick 0 st) ∧
        Answers .query s fun t => t.streams = s.streams ∧ t.arr = s.arr ∧ t.ring 0 = (s.ring 0).setCi ((s.ring 0).ci + 1)) ∧
    (c.valid = false →
      exec .invalidCommand s = .next (s2.commandRecord c.cmd c.tag c.cring c.deadline s.tick 0x21 0) ∧
        Answers .invalidCommand s fun t =>
          t.streams = s.streams ∧ t.arr = s.arr ∧ t.ring 0 = (s.ring 0).setCi ((s.ring 0).ci + 1))) ∧
  (∀ (s : State) (eng thr : Nat), (s.thread eng thr).stopping ≠ [] → (s.thread eng thr).issued = [] →
    (s.thread eng thr).mode ≠ .idle → s.mirrorWait (s.thread eng thr).mirSeq = false →
    Answers (.stopComplete eng thr) s fun t =>
      t.thread eng thr = Thread.reset ∧ t.streams.board = s.streams.board.filter (fun m => m.key ≠ eng * 64 + thr) ∧
      t.fab.remotes = s.fab.remotes.filter (fun r => !(r.eng = eng ∧ r.thr = thr)) ∧ OnlyThread eng thr s t ∧
      OnlyParts [.objects, .memory, .streams, .hub, .fabric, .island] s t ∧ OnlyObjectsAndSides [] s t)

/-- Batches (R230, R231, R408). -/
def Obligations.BatchesAreFetchedAndLand : Prop :=
  (∀ (s : State) (eng thr : Nat) (th : Thread), th = s.thread eng thr → th.mode = .running → th.stopping = [] →
    th.retained = false → th.fetching = none → th.fetched < th.ending →
    (th.fetched = 0 ∨ th.fetched ≤ th.next + (2 ^ th.batch - 2 ^ th.batch / 2)) →
    Answers (.streamBatchFetch eng thr) s fun t =>
      t.thread eng thr = { th with fetching := some s.cycle } ∧ t.streams.board = s.streams.board ∧ OnlyThread eng thr s t ∧
      OnlyParts [.streams] s t) ∧
  (∀ (s : State) (eng thr n a c : Nat) (th : Thread) (bytes : List Byte), th = s.thread eng thr → th.mode = .running →
    n = min (2 ^ th.batch) (th.ending - th.fetched) → a = (th.list + 32 * th.fetched) % 2 ^ 52 →
    th.fetching = some c → c + s.batchTime eng th a (32 * n) ≤ s.cycle →
    bytes = (piecesOf a (32 * n)).flatMap (fun p => if (s.taskLine (s.window th.task) (engDie eng) p.1 p.2).poison
      then List.replicate p.2 0 else (s.taskLine (s.window th.task) (engDie eng) p.1 p.2).bytes) →
    Answers (.streamBatchLanded eng thr) s fun t =>
      (t.thread eng thr).fetching = none ∧ (t.thread eng thr).mode = .running ∧ (t.thread eng thr).next = th.next ∧
      (t.thread eng thr).issued = th.issued ∧
      ((List.range (32 * n)).all (fun i => s.xlate (s.window th.task) (engDie eng) (a + i) = .clip) = false →
        (t.thread eng thr).fetched = th.fetched + n ∧ (t.thread eng thr).stopAt = th.stopAt ∧
        (t.thread eng thr).entries = th.entries ++ (List.range n).map (fun i => (th.fetched + i, slice bytes (32 * i) 32))) ∧
      ((List.range (32 * n)).all (fun i => s.xlate (s.window th.task) (engDie eng) (a + i) = .clip) = true →
        (t.thread eng thr).fetched = th.fetched ∧ (t.thread eng thr).stopAt = some th.fetched ∧
        (t.thread eng thr).entries = th.entries) ∧
      t.streams.board = s.streams.board ∧ OnlyThread eng thr s t ∧
      OnlyParts [.objects, .memory, .streams, .hub, .fabric, .island] s t)

/-- Entries and passes (R222 to R229, R231, R403, R454). -/
def Obligations.EntriesIssueAndComplete : Prop :=
  (∀ (s : State) (eng thr : Nat) (th : Thread) (b : List Byte) (e : Entry) (parity : Bool), th = s.thread eng thr → th.turn = some b →
    e = Entry.decode b → s.mayIssueEntry eng th e = true →
    (Answers (.streamEntryIssue eng thr parity) s fun t =>
      (t.thread eng thr).next = th.next + 1 ∧
      (t.thread eng thr).issued.map (fun x => x.index) = th.issued.map (fun x => x.index) ++ [th.next] ∧
      ∀ d n, d * 64 + n ≠ eng * 64 + thr → t.thread d n = s.thread d n) ∧
    (e.rsrc = false → e.rdst = false → Answers (.streamEntryIssue eng thr parity) s fun t =>
      (∃ x, (t.thread eng thr).issued = th.issued ++ [x] ∧
        x.index = th.next ∧ x.entry = b ∧ x.issuedAt = s.cycle ∧ x.remote = 0 ∧ x.row = 0 ∧ x.off = 0 ∧ x.flying = []) ∧
      (e.pop = true → (t.lace eng e.popLace).handles = (s.lace eng e.popLace).handles.drop 1) ∧
      (e.pop = false → t.streams.laces = s.streams.laces) ∧
      (e.stage = false → t.streams.board = s.streams.board) ∧
      (e.stage = true → t.streams.board = s.streams.board ++ ((s.stageLines eng th e).take (4096 - s.boardSize eng)).map fun x =>
        Mark.mk x (eng * 64 + thr) th.next) ∧
      (parity = false ∨ e.zero = true → OnlyParts [.streams] s t) ∧
      (parity = true → e.zero = false → CountedBy 0x71B001 1 s t ∧ OnlyParts [.objects, .streams, .island] s t ∧
        OnlyObjects [0x71B001, 0x71B008] s t))) ∧
  (∀ (s : State) (eng thr : Nat) (th : Thread) (x : IssuedEntry) (rest : List IssuedEntry) (e : Entry), th = s.thread eng thr →
    th.issued = x :: rest → e = Entry.decode x.entry → th.mode = .running → x.landed s.cycle = true →
    x.mcEnd.any (fun m => !s.mcDelivered m) = false →
    (e.push = false ∨ (s.lace eng e.pushLace).handles.length < 64 → Answers (.streamEntryComplete eng thr) s fun t =>
      (t.thread eng thr).issued = rest ∧ (t.thread eng thr).next = th.next ∧
      t.streams.board = s.streams.board.filter (fun m => !(m.key = eng * 64 + thr ∧ m.index = x.index)) ∧
      (e.push = true → (t.lace eng e.pushLace).handles = (s.lace eng e.pushLace).handles ++ [BitVec.ofNat 32 e.low]) ∧
      (e.push = false → t.streams.laces = s.streams.laces) ∧
      (s.fab.mirEvents = [] → OnlyParts [.objects, .streams, .hub] s t) ∧
      (∀ d n, d * 64 + n ≠ eng * 64 + thr → t.thread d n = s.thread d n)) ∧
    (e.push = true → 64 ≤ (s.lace eng e.pushLace).handles.length → th.stopping ≠ [] → s.fab.mirEvents = [] →
      Answers (.streamEntryComplete eng thr) s fun t =>
      (t.thread eng thr).issued = rest ∧ t.streams.laces = s.streams.laces ∧ CountedBy 0x717008 1 s t ∧
      t.streams.board = s.streams.board.filter (fun m => !(m.key = eng * 64 + thr ∧ m.index = x.index)) ∧
      OnlyParts [.objects, .streams, .hub] s t ∧ (∀ d n, d * 64 + n ≠ eng * 64 + thr → t.thread d n = s.thread d n))) ∧
  (∀ (s : State) (eng thr : Nat) (th : Thread), th = s.thread eng thr → th.mode = .running → th.stopping = [] → th.issued = [] →
    th.ending ≤ th.next → th.fetching = none → s.mirrorWait th.mirSeq = false →
    Answers (.streamPassComplete eng thr) s fun t =>
      CountedBy 0x717004 1 s t ∧ (th.persist = true → (t.thread eng thr).mode = .parked ∧ (t.thread eng thr).list = th.list) ∧
      (th.persist = false → t.thread eng thr = Thread.reset) ∧ OnlyThread eng thr s t ∧
      OnlyParts [.objects, .memory, .streams, .hub, .fabric, .island] s t ∧ OnlyObjectsAndSides [0x717004] s t)

/-- Stream commands (R219 to R222, R246, R247, R304, R379). -/
def Obligations.StreamCommandsReachTheirThread : Prop := StartRearmAndStopReachTheirThread ∧ QueryAndInvalidCommandsWriteRecords

/-! ## Laces, rings and synchronization objects -/

/-- The module's hub is reached directly: the rails are up and nothing sleeps (R376, R379). -/
def Awake (s : State) : Prop := s.railsUp = true ∧ s.asleep = false

/-- Laces at the hub's windows (R229, R310). -/
def LaceWindowsPushPopAndClear : Prop :=
  ∀ (s : State) (eng n : Nat) (l : Lace), s.railsUp = true → l = s.lace eng n →
    (∀ h : U32, l.handles.length < 64 → Answers (.laceWindowPush eng n h) s fun t =>
      t.lace eng n = { l with handles := l.handles ++ [h] } ∧
      (∀ e m, e * 16 + m ≠ eng * 16 + n → t.lace e m = s.lace e m) ∧ t.streams.threads = s.streams.threads ∧
      OnlyParts [.streams] s t) ∧
    (∀ h : U32, 64 ≤ l.handles.length → Answers (.laceWindowPush eng n h) s fun t =>
      CountedBy 0x717008 1 s t ∧ OnlyParts [.objects] s t ∧ OnlyObjects [0x717008] s t) ∧
    (∀ h rest, l.handles = h :: rest → Answers (.laceWindowPop eng n false) s fun t =>
      t.lace eng n = { l with handles := rest, last := h } ∧ t.hub = { s.hub with readValue := leBytes 4 h.toNat } ∧
      (∀ e m, e * 16 + m ≠ eng * 16 + n → t.lace e m = s.lace e m) ∧ t.streams.threads = s.streams.threads ∧
      OnlyParts [.streams, .hub] s t) ∧
    (l.handles = [] → Answers (.laceWindowPop eng n false) s fun t =>
      t.lace eng n = { l with underrun := true } ∧ t.hub = { s.hub with readValue := leBytes 4 l.last.toNat } ∧
      CountedBy 0x717007 1 s t ∧ (∀ e m, e * 16 + m ≠ eng * 16 + n → t.lace e m = s.lace e m) ∧
      OnlyParts [.objects, .streams, .hub] s t ∧ OnlyObjects [0x717007] s t) ∧
    (exec (.laceWindowPop eng n true) s =
      exec (.laceWindowPop eng n false) ((s.putLace eng n { l with handles := [] }).controlReset (engDie eng) 3 (laceNumber eng n))) ∧
    (∀ v : U64, Answers (.laceStatusWrite eng n v) s fun t =>
      t.lace eng n = (if bit v.toNat 0 then { l with underrun := false } else l) ∧
      (∀ e m, e * 16 + m ≠ eng * 16 + n → t.lace e m = s.lace e m) ∧ OnlyParts [.streams] s t)

/-- A push through a PUSH window (R235, R236, R238 to R240). -/
def Obligations.RingPushWindowStoresOrDrops : Prop :=
  ∀ (s : State) (w : RingWriter) (n : Nat) (entry : List Byte) (r : Ring) (a : Nat), Awake s → r = s.ring n →
    a = ringSlotAddr n r r.pi → ringBroken r = false →
    ((ringType n r = 1 ∨ ringType n r = 2 ∨ ringType n r = 5) → ringFull r = false → Writable s (a / 64 * 64) →
      Unmirrored s (a / 64 * 64) → (64 < ringSlotSize n r → Writable s (a / 64 * 64 + 64) ∧ Unmirrored s (a / 64 * 64 + 64)) →
      Answers (.ringPushWindow w n entry false) s fun t =>
        (∀ k, k < ringSlotSize n r → byteAt t (a + k) = (fit (ringSlotSize n r) entry).getD k 0) ∧
        t.ring n = r.setPi (r.pi + 1) ∧ (∀ m, m ≠ n → t.ring m = s.ring m) ∧ t.pushBuffer w n = [] ∧
        OnlyBytes (a / 64 * 64) 128 s t ∧
        OnlyParts [.objects, .memory, .hub, .island] s t ∧ OnlyObjectsAndSides [] s t) ∧
    ((ringType n r = 1 ∨ ringType n r = 2 ∨ ringType n r = 5) → ringFull r = true → s.fab.mirEvents = [] →
      Answers (.ringPushWindow w n entry false) s fun t =>
        t.ring n = { r with overflow := true, drops := r.drops + 1 } ∧ (∀ m, m ≠ n → t.ring m = s.ring m) ∧ t.pushBuffer w n = [] ∧
        CountedBy 0x717008 1 s t ∧ OnlyParts [.objects, .hub] s t ∧ OnlyObjects [0x717008] s t) ∧
    (ringType n r ≠ 1 → ringType n r ≠ 2 → ringType n r ≠ 5 → s.fab.mirEvents = [] →
      Answers (.ringPushWindow w n entry false) s fun t =>
        t.ring n = { r with drops := r.drops + 1 } ∧ (∀ m, m ≠ n → t.ring m = s.ring m) ∧ t.pushBuffer w n = [] ∧
        CountedBy 0x717008 1 s t ∧ OnlyParts [.objects, .hub] s t ∧ OnlyObjects [0x717008] s t) ∧
    (Answers (.ringPushWindow w n entry true) s fun t =>
      exec (.ringPushWindow w n entry false) (s.ringUncorrectable n) = .next t ∧ CountedBy 0x71B002 1 s t)

/-- Pops and index writes (R235, R237 to R239). -/
def Obligations.RingPopAndIndexWritesMoveTheIndices : Prop :=
  ∀ (s : State) (n : Nat) (r : Ring), s.railsUp = true → r = s.ring n → s.fab.mirEvents = [] →
    (ringBroken r = false → r.held = false → s.hub.held.find? (fun h => h.ring = n) = none →
      (ringHeld r ≠ 0 → Answers (.ringPopWindow n false) s fun t =>
        t.hub.readValue = fit 128 (s.readPhys (ringSlotAddr n r r.ci) (ringSlotSize n r)).1 ∧
        t.ring n = { r.setCi (r.ci + 1) with lastPop := (s.readPhys (ringSlotAddr n r r.ci) (ringSlotSize n r)).1 } ∧
        (∀ m, m ≠ n → t.ring m = s.ring m) ∧ OnlyParts [.objects, .hub] s t ∧ OnlyObjectsAndSides readCounters s t) ∧
      (exec (.ringPopWindow n true) s = exec (.ringPopWindow n false) (s.ringUncorrectable n)) ∧
      (ringHeld r = 0 → Answers (.ringPopWindow n false) s fun t =>
        t.hub.readValue = fit 128 r.lastPop ∧ t.ring n = { r with underrun := true } ∧ CountedBy 0x717007 1 s t ∧
        (∀ m, m ≠ n → t.ring m = s.ring m) ∧ OnlyParts [.objects, .hub] s t ∧ OnlyObjects [0x717007] s t) ∧
      (∀ v : U32, s.asleep = false → Answers (.ringIndexWrite n .pi v) s fun t =>
        t.ring n = (if ringSlots r < (v - r.ci).toNat then { r with overflow := true } else r.setPi v) ∧
        (∀ m, m ≠ n → t.ring m = s.ring m) ∧ OnlyParts [.hub] s t) ∧
      (∀ v : U32, Answers (.ringIndexWrite n .ci v) s fun t =>
        t.ring n = (if ringSlots r < (r.pi - v).toNat then { r with underrun := true } else r.setCi v) ∧
        (∀ m, m ≠ n → t.ring m = s.ring m) ∧ OnlyParts [.hub] s t)) ∧
    (∀ (v : U64), Answers (.ringStatusWrite n .status v) s fun t =>
      t.ring n = { r with underrun := r.underrun && !bit v.toNat 0, overflow := r.overflow && !bit v.toNat 1,
                          reset := r.reset && !bit v.toNat 3 } ∧
      (∀ m, m ≠ n → t.ring m = s.ring m) ∧ OnlyParts [.hub] s t) ∧
    (∀ (v : U64) (fld : RingField), fld ≠ .status → (n ≠ 0 ∨ fld ≠ .type) → Answers (.ringStatusWrite n fld v) s fun t =>
      (match fld with
        | .base => t.ring n = { r with base := BitVec.ofNat 64 (v.toNat % 2 ^ 52) }
        | .type => t.ring n = { r with type := BitVec.ofNat 8 v.toNat }
        | .order => t.ring n = { r with order := BitVec.ofNat 8 (v.toNat % 32) }
        | .esize => t.ring n = { r with esize := BitVec.ofNat 8 (v.toNat % 4) }
        | .sync => t.ring n = { r with sync := BitVec.ofNat 16 (v.toNat % 2 ^ 14 + v.toNat / 2 ^ 15 % 2 * 2 ^ 15) }
        | .irq => t.ring n = { r with irq := BitVec.ofNat 16 (v.toNat % 2 ^ 12 + v.toNat / 2 ^ 15 % 2 * 2 ^ 15) }
        | .status => True) ∧
      (∀ m, m ≠ n → t.ring m = s.ring m) ∧ OnlyParts [.hub] s t) ∧
    (n = 0 → ∀ v : U64, exec (.ringStatusWrite n .type v) s = .next s)

/-- Synchronization objects (R248, R249, R262). -/
def SynchronizationObjectsCount : Prop :=
  ∀ (s : State) (k : Nat) (v : U64),
    (Awake s → 16 ≤ k → Answers (.syncWindowSet k v) s fun t =>
      t.count k = (v.toNat + s.addedNow k) % 2 ^ 64 ∧ (∀ j, j ≠ k → t.count j = s.count j) ∧
      t.hub = { s.hub with sync := t.hub.sync } ∧ OnlyParts [.hub] s t) ∧
    (Awake s → k < 16 → exec (.syncWindowSet k v) s = .next s) ∧
    (Awake s → 16 ≤ k → s.fab.mirEvents = [] → Answers (.syncWindowAdd k v false) s fun t =>
      t.count k = (s.count k + v.toNat) % 2 ^ 64 ∧ (∀ j, j ≠ k → t.count j = s.count j) ∧
      t.addedNow k = (s.addedNow k + v.toNat) % 2 ^ 64 ∧
      t.hub = { s.hub with sync := t.hub.sync, added := t.hub.added } ∧ OnlyParts [.hub] s t) ∧
    (Awake s → k < 16 → s.fab.mirEvents = [] → exec (.syncWindowAdd k v false) s = .next s) ∧
    (Awake s → exec (.syncWindowAdd k v true) s = exec (.syncWindowAdd k v false) ((s.putCount k 0).controlReset 24 2 k)) ∧
    (∀ adds n, s.railsUp = true → s.net.adds.take n ++ adds = [(k, v)] →
      (16 ≤ k → Answers (.syncAddArrival adds n) s fun t =>
        t.count k = (s.count k + v.toNat) % 2 ^ 64 ∧ (∀ j, j ≠ k → t.count j = s.count j) ∧
        t.net = { s.net with adds := s.net.adds.drop n } ∧ OnlyParts [.hub, .network] s t) ∧
      (k < 16 → Answers (.syncAddArrival adds n) s fun t =>
        CountedBy 0x71700F 1 s t ∧ t.net = { s.net with adds := s.net.adds.drop n } ∧ OnlyParts [.objects, .network] s t ∧
        OnlyObjects [0x71700F] s t))

/-- Laces (R229, R310) and synchronization objects (R248, R249, R262). -/
def Obligations.LacesQueueHandlesAndObjectsCount : Prop := LaceWindowsPushPopAndClear ∧ SynchronizationObjectsCount

/-! ## The welt network -/

/-- A port of a die that can take a frame in this cycle: the rails are up, the die is not fenced, and it has taken none (R251, R259). -/
def PortOpen (s : State) (die : Nat) (port : Dir) : Prop :=
  s.railsUp = true ∧ s.fenced die = false ∧ s.portTaken die (dirNumber port) = false

/-- A transfer is passed on, or waits at a fabric die for its port: its beats go to the buffer of the port. -/
def IsBuffered (s : State) (die : Nat) (x : Xfer) : Prop :=
  (x.dst = die ∧ x.cls = .request ∧ ∃ p vl, x.load = .fabric p vl) ∨ (x.dst ≠ die ∧ (x.dst = 24 ∨ s.fenced x.dst = false))

/-- A transfer leaves the network at its destination. -/
def Leaves (die : Nat) (x : Xfer) : Prop := x.dst = die ∧ ¬(x.cls = .request ∧ ∃ p vl, x.load = .fabric p vl)

/-- Frames at a receiving port (R251 to R255, R257 to R259, R404). -/
def Obligations.FramesEnterTheirBufferOrLeave : Prop :=
  (∀ (s : State) (die : Nat) (port : Dir) (own : Option Frame) (bad hit : List Nat) (f : LinkFrame) (y : Xfer), PortOpen s die port →
    s.frameAt die (dirNumber port) = some f → hit = bad.filter (fun i => i < f.xfer.beats.length) →
    y = { f.xfer with beats := checkedBeats f.xfer.beats hit } →
    (Answers (.weltFrameReceive die port ⟨own, bad, false⟩) s fun t =>
      t.portTaken die (dirNumber port) = true ∧ t.net.flying = s.net.flying.erase f ∧ CountedBy 0x718008 hit.length s t ∧
      (IsBuffered s die y → t.buf (y.bufKey die (dirNumber port)) = addBeats (s.buf (y.bufKey die (dirNumber port))) y ∧
        (∀ j, j ≠ y.bufKey die (dirNumber port) → t.buf j = s.buf j)) ∧
      (Leaves die y → t.net.bufs = s.net.bufs ∧
        (s.net.ending.find? (fun z => z.1 = die && z.2.id = y.id) = none →
          (y.more = 0 → (die, y) ∈ t.net.arrived) ∧ (y.more ≠ 0 → (die, y) ∈ t.net.ending))) ∧
      OnlyParts (if hit = [] then [.objects, .network] else [.objects, .network, .island]) s t) ∧
    (∀ d, linkPeer die (dirNumber port) = some d → s.fenced d = false → (∀ x ∈ s.isl.rails.lostPending, x.1 ≠ d) →
      Answers (.weltFrameReceive die port ⟨own, bad, true⟩) s fun t =>
        t.portTaken die (dirNumber port) = true ∧ t.isl.rails.lostPending = s.isl.rails.lostPending ++ [(d, 4)] ∧
        t.buf (f.xfer.bufKey die (dirNumber port)) =
          (s.buf (f.xfer.bufKey die (dirNumber port))).filter (fun x => x.id ≠ f.xfer.id) ∧
        (∀ j, j ≠ f.xfer.bufKey die (dirNumber port) → t.buf j = s.buf j) ∧
        (∀ g ∈ t.net.flying, ¬(g.die = die ∧ g.port = dirNumber port ∧ g.xfer.id = f.xfer.id)) ∧
        OnlyParts [.network, .island] s t)) ∧
  (∀ (s : State) (die src : Nat) (port : Dir) (f : Frame) (x : Xfer), PortOpen s die port → die < 20 →
    s.frameAt die (dirNumber port) = none →
    ((port = .localPort ∧ src = die) ∨
      (port ≠ .localPort ∧ linkPeer die (dirNumber port) = some src ∧ 20 ≤ src ∧ s.fenced src = false)) →
    f.first = true → f.beats.length + f.more ≤ 64 → s.openXfer src die f = some x → IsBuffered s die x → x.dst ≠ die →
    ∀ key, key = x.bufKey die (dirNumber port) →
    (x.beats.length ≤ s.credits key → Answers (.weltFrameReceive die port ⟨(some f), [], false⟩) s fun t =>
      t.portTaken die (dirNumber port) = true ∧ t.buf key = addBeats (s.buf key) x ∧ (∀ j, j ≠ key → t.buf j = s.buf j) ∧
      t.net.nextId = s.net.nextId + 1 ∧ t.net.expected.get src 0 = s.net.expected.get src 0 + responseBeats x.load ∧
      CountedBy 0x718006 (if x.vcB then 1 else 0) s t ∧ CountedBy 0x718001 (if src = die then 0 else x.beats.length) s t ∧
      OnlyParts [.objects, .network] s t ∧ OnlyObjects [0x718001, 0x718006] s t) ∧
    (s.credits key < x.beats.length → Answers (.weltFrameReceive die port ⟨(some f), [], false⟩) s fun t =>
      t.portTaken die (dirNumber port) = true ∧ t.net.bufs = s.net.bufs ∧ OnlyParts [.network] s t))

/-- One request goes before another in a round: a higher rank, then an older stamp, then a lower port (R264). -/
def GoesBefore (s : State) (a b : Waiter) : Prop :=
  s.rank b < s.rank a ∨ (s.rank a = s.rank b ∧ (a.stamp < b.stamp ∨ (a.stamp = b.stamp ∧ a.port ≤ b.port)))

/-- The requests left waiting are the losers of a round, each aged by it, and they are counted (R264, R267). -/
def LosersWait (s t : State) (id : ArbId) (losers : List Waiter) : Prop :=
  (t.arbiter id).waiters = losers.map Waiter.lost ∧ CountedBy 0x718002 losers.length s t

/-- Rounds of scratchpad banks and HBM channel ports (R191, R198, R263, R264). -/
def BankRoundsGrantByRank : Prop :=
  ∀ (s : State) (id : ArbId) (arrivals : List ArbReq) (l field : List Waiter), s.railsUp = true →
    ((∃ d b, id = .spBank d b) ∨ ∃ d c, id = .hbmPort d c) →
    l = (s.arbiter id).waiters ++ (arrivals.filter fun r => s.jobFits id r.job).map (fun r => s.newWaiter r.port r.src r.job) →
    field = s.contenders l →
    (s.resourceBusy id = true → Answers (.arbiterGrant id arrivals) s fun t =>
      (t.arbiter id).waiters = l ∧ (∀ j, j ≠ id → t.arbiter j = s.arbiter j) ∧ OnlyParts [.network] s t) ∧
    (l ≠ [] → s.resourceBusy id = false → Answers (.arbiterGrant id arrivals) s fun t =>
      ∃ w ∈ l, (∀ x ∈ l, GoesBefore s w x) ∧ ∃ u, t = u.doJob id w ∧
        (u.arbiter id).waiters = (l.erase w).map (fun x => if (field.erase w).contains x then x.lost else x) ∧
        CountedBy 0x718002 (field.erase w).length s u ∧ (∀ j, j ≠ id → u.arbiter j = s.arbiter j) ∧
        OnlyParts [.objects, .network] s u ∧ OnlyObjects [0x718002, 0x718004, 0x718005] s u)

/-- Rounds of accumulator banks (R107, R114, R263). -/
def AccumulatorRoundsServeByRank : Prop :=
  ∀ (s : State) (d b i n : Nat) (arrivals : List ArbReq) (c : List Waiter), s.railsUp = true → s.opAt d .running = some i →
    s.held d = false → s.accTaken d b = false → c = s.ranked (s.rowContenders i d b) → (s.confOf d b).length ≤ 16 →
    n = (s.confOf d b).length + c.length - (if s.confOf d b = [] then min 1 c.length else 0) →
    Answers (.arbiterGrant (.accBank d b) arrivals) s fun t =>
      c.Perm (s.rowContenders i d b) ∧ (∀ w rest, c = w :: rest → ∀ x ∈ rest, GoesBefore s w x) ∧
      CountedBy 0x713001 (if s.confOf d b = [] then min 1 c.length else 0) s t ∧ (t.confOf d b).length = min 16 n ∧
      CountedBy 0x713003 (n - 16) s t ∧
      (∀ w rest ran, c = w :: rest → s.confOf d b = [] → ran = ((s.op i).die d).ran →
        t.flushOf d w.port = ((s.flushOf d w.port).at ran).sent ran s.cycle true) ∧
      OnlyParts [.objects, .array, .network] s t

/-- The owner of a link direction or egress port has sent in this cycle, from state `u`, and its transfer goes on (R268). -/
def OwnerGoesOn (u : State) (id : ArbId) (h : Holder) (v : State) : Prop := h.since < u.cycle ∧ u.sendOwner id h.w = (v, false)

/-- The requests that contend with the owner. -/
def othersThan (h : Holder) (l : List Waiter) : List Waiter := l.filter fun x => !(x.key = h.w.key && x.xfer = h.w.xfer)

/-- Link directions outside a collector slot, and egress ports (R254, R256, R262, R263, R266 to R269): `u` is the state in which adds to
one object have merged, or the twin's lines wait at the port. -/
def LinksAndPortsGrantByRank : Prop :=
  ∀ (s u : State) (id : ArbId) (arrivals : List ArbReq), s.railsUp = true → (s.arbiter id).round ≠ s.cycle + 1 →
    s.slotNow id = false →
    ((∃ d dir, id = .weltLink d dir ∧ s.fenced d = false ∧ u = s.mergeAdds d (dirNumber dir)) ∨ ∃ p, id = .egress p ∧ u = s.feedMirror p) →
    ((s.arbiter id).holder = none → Answers (.arbiterGrant id arrivals) s fun t =>
      (u.linkField id = [] → (t.arbiter id).holder = none ∧ (t.arbiter id).waiters = []) ∧
      (u.linkField id ≠ [] → ∃ w ∈ u.linkField id, (∀ x ∈ u.linkField id, GoesBefore u w x) ∧
        (t.arbiter id).holder = some { w := w, since := s.cycle } ∧ LosersWait u t id ((u.linkField id).erase w)) ∧
      t.net.flying = s.net.flying ∧ (∀ j, j ≠ id → t.arbiter j = s.arbiter j) ∧ OnlyParts [.objects, .network, .fabric] s t) ∧
    (∀ h v, (s.arbiter id).holder = some h → OwnerGoesOn u id h v →
      ((∀ y ∈ othersThan h (u.linkField id), v.rank y ≤ v.holderRank id h.w + v.get 0x340005) →
        Answers (.arbiterGrant id arrivals) s fun t =>
          (t.arbiter id).holder = some h ∧ (t.arbiter id).waiters = othersThan h (u.linkField id) ∧ t.obj = v.obj ∧
          t.net.bufs = v.net.bufs ∧ t.net.flying = v.net.flying ∧ (∀ j, j ≠ id → t.arbiter j = s.arbiter j)) ∧
      ((∃ y ∈ othersThan h (u.linkField id), v.holderRank id h.w + v.get 0x340005 < v.rank y) →
        Answers (.arbiterGrant id arrivals) s fun t =>
          ∃ y ∈ othersThan h (u.linkField id), v.holderRank id h.w + v.get 0x340005 < v.rank y ∧
            (∀ x ∈ othersThan h (u.linkField id), v.holderRank id h.w + v.get 0x340005 < v.rank x → GoesBefore v y x) ∧
            (t.arbiter id).holder = some { w := y, since := s.cycle } ∧
            LosersWait v t id (h.w :: (othersThan h (u.linkField id)).erase y) ∧ CountedBy 0x718003 1 v t)) ∧
    (∀ h v, (s.arbiter id).holder = some h → h.since < s.cycle → u.sendOwner id h.w = (v, true) →
      Answers (.arbiterGrant id arrivals) s fun t =>
        (v.linkField id = [] → (t.arbiter id).holder = none ∧ (t.arbiter id).waiters = []) ∧
        (v.linkField id ≠ [] → ∃ w ∈ v.linkField id, (∀ x ∈ v.linkField id, GoesBefore v w x) ∧
          (t.arbiter id).holder = some { w := w, since := s.cycle } ∧ LosersWait v t id ((v.linkField id).erase w))) ∧
    (∀ h, (s.arbiter id).holder = some h → s.cycle ≤ h.since → Answers (.arbiterGrant id arrivals) s fun t =>
      (t.arbiter id).holder = some h ∧ (t.arbiter id).waiters = othersThan h (u.linkField id) ∧ t.obj = u.obj ∧
        t.net.flying = s.net.flying)

/-- A round of an arbiter (R263, R264, R266 to R269). -/
def Obligations.ArbitersGrantByRank : Prop :=
  BankRoundsGrantByRank ∧ AccumulatorRoundsServeByRank ∧ LinksAndPortsGrantByRank

/-! ## Sundu links -/

/-- No port but `p` has changed. -/
def OnlyPort (p : Nat) (s t : State) : Prop := ∀ q, q ≠ p → t.port q = s.port q

/-- The objects of port `p`, and the readiness word. -/
def portObjects (p : Nat) : List Nat := [0x501001 + p, 0x501101 + p, 0x201001]

/-- A hello record's version can be agreed with: its range includes version 1 (R285). -/
def helloAgrees (rec' : List Byte) : Bool := decide (max 1 (field rec' 1 1) ≤ min 1 (field rec' 2 1))

/-- Training, hellos and negotiation (R278, R284, R285, R288). -/
def Obligations.PortsTrainAndNegotiate : Prop :=
  ∀ (s : State) (p : Nat), s.railsUp = true → p < 8 →
    (s.portState p = 1 ∨ s.portState p = 3 → Answers (.phyTrainingComplete p) s fun t =>
      t.portState p = 2 ∧ t.port p = { s.port p with lastHello := 0, hellosLeft := 0 } ∧ OnlyPort p s t ∧ OnlyParts [.objects, .memory, .hub, .fabric, .island] s t ∧
      OnlyObjectsAndSides [0x501001 + p, 0x201001] s t) ∧
    ((s.portState p = 2 ∨ s.portState p = 3 ∨ (s.portLinked p = true ∧ 0 < (s.port p).hellosLeft)) →
      ((s.port p).lastHello = 0 ∨ (s.port p).lastHello + 12 ≤ s.tick) → Answers (.helloSend p) s fun t =>
        (∃ flit older, (t.port p).sent = flit :: older ∧ field flit 0 1 = 3 ∧ slice flit 8 32 = s.helloRecord p) ∧
        (t.port p).lastHello = s.tick ∧
        (t.port p).hellosLeft = (if s.portLinked p then (s.port p).hellosLeft - 1 else (s.port p).hellosLeft) ∧
        OnlyPort p s t ∧ OnlyParts [.fabric] s t) ∧
    (∀ rec' : List Byte, s.portState p = 2 → Answers (.helloReceive p rec' true) s fun t =>
      t.get (0x501101 + p) = field rec' 8 8 ∧ t.portState p = (if helloAgrees rec' then 4 else 3) ∧
      (helloAgrees rec' = true → bits (t.get (0x501001 + p)) 23 20 = 1 ∧
        bits (t.get (0x501001 + p)) 11 0 = field rec' 4 2 % 2 ^ 12 ∧ (t.port p).hellosLeft = 2 ∧ t.get 0x719012 = s.get 0x719012) ∧
      (helloAgrees rec' = false → CountedBy 0x719012 1 s t) ∧
      (bit (field rec' 3 1) 7 = true → s.get 0x500003 ≠ 0 → field rec' 8 8 < s.get 0x500004 →
        t.get 0x500003 = 0 ∧ CountedBy 0x719013 1 s t) ∧
      (bit (field rec' 3 1) 7 = false ∨ s.get 0x500003 = 0 ∨ s.get 0x500004 ≤ field rec' 8 8 →
        t.get 0x500003 = s.get 0x500003 ∧ t.get 0x719013 = s.get 0x719013) ∧
      (bit (field rec' 3 1) 7 = true → s.fab.manager = none → t.fab.manager = some (field rec' 4 2 % 2 ^ 12, [p])) ∧
      OnlyParts [.objects, .memory, .hub, .fabric, .island] s t ∧
      OnlyObjectsAndSides ([0x719012, 0x719013, 0x500003] ++ portObjects p) s t) ∧
    (∀ rec' : List Byte, s.portLinked p = true → Answers (.helloReceive p rec' true) s fun t =>
      t.portState p = s.portState p ∧ bits (t.get (0x501001 + p)) 11 0 = field rec' 4 2 % 2 ^ 12 ∧
      bits (t.get (0x501001 + p)) 14 12 = field rec' 3 1 % 8 ∧ bits (t.get (0x501001 + p)) 19 16 = field rec' 0 1 % 16 ∧
      OnlyParts [.objects, .memory, .hub, .fabric, .island] s t ∧
      OnlyObjectsAndSides [0x719013, 0x500003, 0x501001 + p] s t) ∧
    (∀ rec' : List Byte, 2 ≤ s.portState p → s.portState p ≤ 5 → Answers (.helloReceive p rec' false) s fun t =>
      CountedBy 0x719005 1 s t ∧ OnlyParts [.objects] s t ∧ OnlyObjects [0x719005] s t)

/-- A flit of kind `kind` that passes its check: its last eight bytes are the CRC of the others (R277, R278). -/
def IntactFlit (flit : List Byte) (kind : Nat) : Prop :=
  field flit 248 8 = (crc64 (fit 248 flit)).toNat ∧ field flit 0 1 % 4 = kind

/-- Flits (R277 to R282). -/
def Obligations.FlitsAreCheckedAcknowledgedAndAccepted : Prop :=
  ∀ (s : State) (p : Nat) (flit : List Byte) (n : Nat), s.railsUp = true → p < 8 → s.portLinked p = true →
    (∀ u, (u ≠ 0 ∨ field flit 248 8 ≠ (crc64 (fit 248 flit)).toNat) → Answers (.flitReceive p flit n u) s fun t =>
      t.port p = { s.port p with nakPending := true } ∧ OnlyPort p s t ∧ CountedBy 0x719003 n s t ∧ CountedBy 0x719004 u s t ∧
      CountedBy 0x719005 1 s t ∧ OnlyParts [.objects, .fabric] s t ∧ OnlyObjects [0x719003, 0x719004, 0x719005] s t) ∧
    (IntactFlit flit 1 → bit (field flit 4 2) 15 = false → bit (field flit 6 2) 15 = false →
      (field flit 2 2 % 4096 = (s.port p).rxNext → Answers (.flitReceive p flit n 0) s fun t =>
        (∀ l r, l = bits (field flit 0 1) 3 2 → r = parseMsgs 16 ((s.port p).rxBytes.getD l [] ++ slice flit 8 240) →
          t.port p = { s.port p with rxNext := ((s.port p).rxNext + 1) % 4096, ackNext := some (s.port p).rxNext, ackOwed := true,
                                     rxHeld := (s.port p).rxHeld.set l ((s.port p).rxHeld.getD l 0 + 1),
                                     rxBytes := (s.port p).rxBytes.set l (r.2.dropWhile (· = 0)) } ∧
          t.fab.inbox = s.fab.inbox ++ r.1.map fun m => (some p, m)) ∧
        OnlyPort p s t ∧ CountedBy 0x719003 n s t ∧ CountedBy 0x719002 1 s t ∧ OnlyParts [.objects, .fabric] s t ∧
        OnlyObjects [0x719002, 0x719003] s t) ∧
      (field flit 2 2 % 4096 ≠ (s.port p).rxNext → Answers (.flitReceive p flit n 0) s fun t =>
        t.port p = { s.port p with nakPending := true } ∧ OnlyPort p s t ∧ CountedBy 0x719003 n s t ∧
        OnlyParts [.objects, .fabric] s t ∧ OnlyObjects [0x719003] s t)) ∧
    (IntactFlit flit 0 → bit (field flit 4 2) 15 = false → bit (field flit 6 2) 15 = true →
      Answers (.flitReceive p flit n 0) s fun t =>
        (∀ l x, l = bits (field flit 6 2) 13 12 →
          x = { s.port p with credits := (s.port p).credits.set l ((s.port p).credits.getD l 0 + field flit 6 2 % 4096) } →
          t.port p = x.watch s.tick) ∧ CountedBy 0x719003 n s t ∧
        OnlyPort p s t ∧ OnlyParts [.objects, .fabric] s t ∧ OnlyObjects [0x719003] s t) ∧
    (IntactFlit flit 0 → bit (field flit 4 2) 15 = true → bit (field flit 4 2) 14 = false → bit (field flit 6 2) 15 = false →
      ∀ front f rest, (s.port p).replay = front ++ f :: rest → f.seq = field flit 4 2 % 4096 → (∀ g ∈ front, g.seq ≠ f.seq) →
        Answers (.flitReceive p flit n 0) s fun t =>
          t.port p = { s.port p with replay := rest, replays := 0 } ∧ CountedBy 0x719003 n s t ∧ OnlyPort p s t ∧ OnlyParts [.objects, .fabric] s t ∧
          OnlyObjects [0x719003] s t)

/-- The flit that port `p` sent last is a data flit with the lane, the number and the payload of one in its replay buffer (R277, R279). -/
def FlitSentLast (p : Nat) (g : ReplayFlit) (t : State) : Prop :=
  ∃ flit older, (t.port p).sent = flit :: older ∧ field flit 0 1 = (1 + 4 * g.lane) % 256 ∧ field flit 2 2 = g.seq % 65536 ∧
    slice flit 8 240 = fit 240 g.payload

/-- Replay and retraining (R282, R283), cages (R442) and the enable bits (R284, R308). -/
def Obligations.PortsReplayRetrainAndGoDown : Prop :=
  ∀ (s : State) (p : Nat), s.railsUp = true → p < 8 →
    (∀ f rest, (s.port p).replay = f :: rest → f.sentAt + 25 ≤ s.tick → (s.port p).retrainSince = none →
      ((s.port p).replays < 8 → Answers (.replayTimeout p) s fun t =>
        CountedBy 0x719006 1 s t ∧ (t.port p).replays = (s.port p).replays + 1 ∧
        (t.port p).replay = ((s.port p).replay.map fun f => { f with sentAt := s.tick }) ∧ (t.port p).retrainSince = none ∧
        (∀ g, (s.port p).replay.getLast? = some g → FlitSentLast p g t) ∧
        OnlyPort p s t ∧ OnlyParts [.objects, .fabric] s t ∧ OnlyObjects [0x719006] s t) ∧
      (8 ≤ (s.port p).replays → Answers (.replayTimeout p) s fun t =>
        t.portState p = 1 ∧ (t.port p).retrainSince = some s.tick ∧ OnlyPort p s t ∧
        OnlyParts [.objects, .memory, .hub, .fabric, .island] s t ∧ OnlyObjectsAndSides [0x501001 + p, 0x201001] s t)) ∧
    (∀ since, (s.port p).retrainSince = some since → s.tick ≤ since + 1250000 → s.portState p ≠ 3 →
      Answers (.retrainDone p) s fun t =>
        t.portLinked p = true ∧ (t.port p).retrainSince = none ∧ (t.port p).replays = 0 ∧ CountedBy 0x719007 1 s t ∧
        (t.port p).replay = ((s.port p).replay.map fun f => { f with sentAt := s.tick }) ∧
        (∀ g, (s.port p).replay.getLast? = some g → FlitSentLast p g t) ∧ OnlyPort p s t ∧
        OnlyParts [.objects, .memory, .hub, .fabric, .island] s t ∧ OnlyObjectsAndSides [0x719007, 0x501001 + p, 0x201001] s t) ∧
    (∀ since, (s.port p).retrainSince = some since → since + 1250000 ≤ s.tick → s.portState p ≠ 0 →
      Answers (.retrainTimeout p) s fun t =>
        t.portState p = 0 ∧ t.get (0x501101 + p) = 0 ∧ OnlyParts [.objects, .memory, .hub, .fabric, .island] s t ∧
        OnlyObjectsAndSides (portObjects p) s t) ∧
    (∀ dw, (s.port p).cage = false →
      (dw ≤ 50 → s.portMayTrain p = true → s.portState p = 0 → Answers (.pluggableInsert p dw) s fun t =>
        t.portState p = 1 ∧ (t.port p).cage = true ∧ (t.port p).lowPower = false ∧ OnlyPort p s t ∧
        OnlyParts [.objects, .memory, .hub, .fabric, .island] s t ∧ OnlyObjectsAndSides [0x501001 + p, 0x201001] s t) ∧
      (50 < dw → Answers (.pluggableInsert p dw) s fun t =>
        t.port p = { s.port p with cage := true, lowPower := true } ∧ OnlyPort p s t ∧ CountedBy 0x719014 1 s t ∧
        OnlyParts [.objects, .fabric] s t ∧ OnlyObjects [0x719014] s t)) ∧
    (Answers (.pluggableRemove p) s fun t =>
      (t.port p).cage = false ∧ (t.port p).lowPower = false ∧
      t.portState p = (if s.portState p = 6 ∨ s.portState p = 7 then s.portState p else 0) ∧
      OnlyParts [.objects, .memory, .hub, .fabric, .island] s t ∧ OnlyObjectsAndSides (portObjects p) s t) ∧
    (∀ v : Byte, Serves s → Answers (.portEnableWrite v) s fun t =>
      t.get 0x500301 = v.toNat ∧
      (s.portState p = 7 → t.portState p = 7) ∧
      (s.portState p ≠ 7 → bit v.toNat p = false → t.portState p = 6) ∧
      (s.portState p = 6 → bit v.toNat p = true → t.portState p = 0 ∨ t.portState p = 1) ∧
      (s.portState p ≠ 6 → bit v.toNat p = true → t.portState p = s.portState p) ∧
      OnlyParts [.objects, .memory, .hub, .fabric, .island] s t ∧
      OnlyObjectsAndSides ([0x500301, 0x201001] ++ (List.range 8).flatMap fun q => [0x501001 + q, 0x501101 + q]) s t)

/-! ## Fabric messages -/

/-- The fabric is as it was but for its ports, and only the port `p` among them. -/
def OnlyFabricPort (p : Nat) (s t : State) : Prop := t.fab = { s.fab with ports := t.fab.ports } ∧ OnlyPort p s t

/-- A message as it leaves a module that forwards it by port `p`: one hop more, and DN set by a down move (R289, R290, R291). -/
def leaving (s : State) (p : Nat) (m : Msg) (ingress : Option Nat) : Msg :=
  { crossedMsg m ingress with hops := m.hops + 1, dn := m.dn || (decide (m.dst < 0xC00) && s.isDown p) }

/-- The fabric after a message is discarded: a request is answered as clipped, any other leaves the fabric as it is (R283). -/
def discardedFab (s : State) (m : Msg) : FabState := if m.expects then (m.clippedAnswers.foldl State.sendResponse s).fab else s.fab

/-- Port `p` sends the message as `m'`, last on its lane. -/
def QueuedOn (p : Nat) (m' : Msg) (s t : State) : Prop :=
  ∀ l, l = m'.lane → (t.port p).txQueue = (s.port p).txQueue.set l ((s.port p).txQueue.getD l [] ++ [m'])

/-- A message for another module goes by a table or along its directed route; for a group, by the group's tree (R287 to R291, R297). -/
def NextHopFollowsTables : Prop :=
  ∀ (s : State) (m : Msg),
    (m.dst < 0xC00 → m.dst = s.devId → s.nextHop m true = .here) ∧
    (∀ p, m.dst < 0xC00 → m.dst ≠ s.devId → (if m.dn then s.fab.tableD else s.fab.tableU).find? (fun e => e.1 = m.dst) = some (m.dst, p) →
      s.nextHop m true = .port p) ∧
    (m.dst < 0xC00 → m.dst ≠ s.devId → (∀ e ∈ (if m.dn then s.fab.tableD else s.fab.tableU), e.1 ≠ m.dst) → s.nextHop m true = .noRoute) ∧
    (m.dst = 0xFFF → s.nextHop m true = if m.arg.toNat % 16 ≤ m.hops + 1 then .here else .port (m.addr / 8 ^ (m.hops + 1) % 8)) ∧
    (0xC00 ≤ m.dst → m.dst < 0xFFF → s.nextHop m true = .ports (s.group (m.dst - 0xC00)).ports)

/-- Messages that go on (R256, R276, R289 to R291, R297). -/
def MessagesGoOn : Prop :=
  ∀ (s : State) (ingress : Option Nat) (m : Msg) (x : Option Nat × State) (i : Option Nat), s.railsUp = true →
    s.fab.mirEvents = [] → x = s.takeMsg m → i = x.1.or ingress → (msgLimit m.mtype).isSome = true →
    (x.2.nextHop m true = .here → Answers (.messageForward ingress m) s fun t =>
      t.fab = { x.2.fab with inbox := x.2.fab.inbox ++ [(i, m)] } ∧ OnlyParts [.fabric] s t) ∧
    (∀ p, x.2.nextHop m true = .port p → m.hops < 15 → (m.dn = false ∨ m.dst = 0xFFF ∨ s.isDown p = true) →
      ((∀ q, i = some q → portUnit q = portUnit p) → s.portLinked p = true → Answers (.messageForward ingress m) s fun t =>
        QueuedOn p (leaving s p m i) x.2 t ∧ OnlyFabricPort p x.2 t ∧ OnlyParts [.fabric] s t) ∧
      ((∀ q, i = some q → portUnit q = portUnit p) → s.portLinked p = false → m.mtype ≠ 0x20 →
        Answers (.messageForward ingress m) s fun t => t.fab = discardedFab x.2 (crossedMsg m i) ∧ OnlyParts [.fabric] s t) ∧
      (∀ q a b path beats, i = some q → portUnit q ≠ portUnit p → s.portAttach q = some a → s.portAttach p = some b →
        path = route s.activeDies a b → beats = ceilDiv (24 + (crossedMsg m i).dataLen) 64 → Answers (.messageForward ingress m) s fun t =>
          t.fab = { x.2.fab with transit := x.2.fab.transit ++
            [{ due := s.cycle + 12 * (path.1.length + 2) + ceilDiv beats 7, port := p, msg := crossedMsg m i }] } ∧
          CountedBy 0x718001 (beats * (path.1.length + 2)) s t ∧ CountedBy 0x718006 (if path.2 then ceilDiv beats 64 else 0) s t ∧
          OnlyParts [.objects, .fabric] s t ∧ OnlyObjects [0x718001, 0x718006] s t)) ∧
    (∀ g, 0xC00 ≤ m.dst → m.dst < 0xFFF → g = s.group (m.dst - 0xC00) → m.hops < 15 → g.ports.Nodup →
      (∀ p ∈ g.ports, s.portLinked p = true ∧ ∀ q, i = some q → portUnit q = portUnit p) →
      Answers (.messageForward ingress m) s fun t =>
        (∀ p ∈ g.ports, QueuedOn p (leaving s p m i) x.2 t) ∧ (∀ p, p ∉ g.ports → t.port p = x.2.port p) ∧
        t.fab = { x.2.fab with ports := t.fab.ports, inbox := x.2.fab.inbox ++ (if g.deliver then [(none, m)] else []) } ∧
        OnlyParts [.fabric] s t)

/-- Messages that are discarded (R283, R290). -/
def MessagesAreDiscarded : Prop :=
  ∀ (s : State) (ingress : Option Nat) (m : Msg) (x : Option Nat × State), s.railsUp = true → s.fab.mirEvents = [] →
    x = s.takeMsg m → m.mtype ≠ 0x20 →
    ((msgLimit m.mtype).isNone = true ∨ x.2.nextHop m true = .noRoute ∨
      (∃ p, x.2.nextHop m true = .port p ∧ (15 ≤ m.hops ∨ (m.dn = true ∧ m.dst ≠ 0xFFF ∧ s.isDown p = false))) ∨
      (∃ l, x.2.nextHop m true = .ports l ∧ 15 ≤ m.hops)) →
    Answers (.messageForward ingress m) s fun t =>
      t.fab = discardedFab x.2 m ∧ CountedBy 0x719008 1 s t ∧ OnlyParts [.objects, .fabric] s t ∧ OnlyObjects [0x719008] s t

/-- Forwarding (R256, R276, R283, R287, R289 to R291, R297). -/
def Obligations.MessagesAreDeliveredForwardedOrDiscarded : Prop := NextHopFollowsTables ∧ MessagesGoOn ∧ MessagesAreDiscarded

/-- Remote access (R292, R294). -/
def RemoteReadsAndWritesAreAdmittedByRegion : Prop :=
  ∀ (s s1 : State) (m : Msg) (n : Nat), Awake s → s1 = (s.takeMsg m).2 → n = m.length → 0 < n → m.addr % 64 + n ≤ 64 →
    ((∀ i, i < n → s.admits m.src 0 (m.addr + i) = true) → (s.lineAt (m.addr / 64 * 64)).unmapped = false →
      Answers (.fabricRead m) s fun t =>
        (∀ d r, r = s.lineAt (m.addr / 64 * 64) → d = slice r.data (m.addr % 64) n →
          t.fab = (s1.sendResponse (m.answer 0x81 m.addr n 0 d (lineMarks (d.map fun b => (b, r.poison))))).fab) ∧
        OnlyParts [.objects, .fabric] s t ∧ OnlyObjectsAndSides readCounters s t) ∧
    ((∀ i, i < n → s.admits m.src 0 (m.addr + i) = false) → Answers (.fabricRead m) s fun t =>
        t.fab = (s1.sendResponse (m.answer 0x81 m.addr n n (List.replicate n 0) (lineMarks (List.replicate n (0, false))))).fab ∧
        CountedBy 0x719009 1 s t ∧ OnlyParts [.objects, .fabric] s t ∧ OnlyObjects [0x719009] s t) ∧
    (s.fab.mirEvents = [] → (∀ i, i < n → s.admits m.src 1 (m.addr + i) = true) → Writable s (m.addr / 64 * 64) →
      Unmirrored s (m.addr / 64 * 64) → Answers (.fabricWrite m) s fun t =>
        (∀ k, k < n → byteAt t (m.addr + k) = (fit n m.data).getD k 0) ∧ OnlyBytes (m.addr / 64 * 64) 64 s t ∧
        t.fab = (s1.sendResponse (m.answer 0x82 m.addr 0 0 [] [])).fab ∧
        OnlyParts [.objects, .memory, .fabric] s t ∧ OnlyObjectsAndSides [] s t) ∧
    (s.fab.mirEvents = [] → (∀ i, i < n → s.admits m.src 1 (m.addr + i) = false) → Answers (.fabricWrite m) s fun t =>
        t.fab = (s1.sendResponse (m.answer 0x82 m.addr 0 n [] [])).fab ∧ CountedBy 0x719009 1 s t ∧
        OnlyParts [.objects, .fabric] s t ∧ OnlyObjects [0x719009] s t)

/-- Remote signals and pushes (R248, R295). -/
def RemoteSignalsAndPushesStayInTheirRanges : Prop :=
  ∀ (s s1 : State) (m : Msg), Awake s → s1 = (s.takeMsg m).2 →
    (∀ k, k = m.arg.toNat % 2 ^ 14 →
      (16 ≤ k → s.get 0x504001 ≤ k → k ≤ s.get 0x504002 → Answers (.fabricSignal m) s fun t =>
        t.count k = (s.count k + leNat (fit m.length m.data)) % 2 ^ 64 ∧ (∀ j, j ≠ k → t.count j = s.count j) ∧
        t.fab = (s1.sendResponse (m.answer 0x82 m.addr 0 0 [] [])).fab ∧ OnlyParts [.hub, .fabric] s t) ∧
      ((k < 16 ∨ k < s.get 0x504001 ∨ s.get 0x504002 < k) → Answers (.fabricSignal m) s fun t =>
        t.fab = (s1.sendResponse (m.answer 0x82 m.addr 0 0x80000000 [] [])).fab ∧ CountedBy 0x71900A 1 s t ∧
        OnlyParts [.objects, .fabric] s t ∧ OnlyObjects [0x71900A] s t)) ∧
    (∀ n r a, n = m.arg.toNat % 2 ^ 13 → r = s.ring n → a = ringSlotAddr n r r.pi → s.fab.mirEvents = [] →
      ((ringType n r = 2 ∨ ringType n r = 5) → s.get 0x504003 ≤ n → n ≤ s.get 0x504004 → ringBroken r = false →
        ringFull r = false → Writable s (a / 64 * 64) → Unmirrored s (a / 64 * 64) →
        (64 < ringSlotSize n r → Writable s (a / 64 * 64 + 64) ∧ Unmirrored s (a / 64 * 64 + 64)) →
        Answers (.fabricRingPush m) s fun t =>
          (∀ k, k < ringSlotSize n r → byteAt t (a + k) = (fit (ringSlotSize n r) (fit m.length m.data)).getD k 0) ∧
          t.ring n = r.setPi (r.pi + 1) ∧ (∀ j, j ≠ n → t.ring j = s.ring j) ∧ OnlyBytes (a / 64 * 64) 128 s t ∧
          OnlyParts [.objects, .memory, .hub, .fabric, .island] s t ∧ OnlyObjectsAndSides [] s t) ∧
      ((n < s.get 0x504003 ∨ s.get 0x504004 < n ∨ (ringType n r ≠ 2 ∧ ringType n r ≠ 5)) → Answers (.fabricRingPush m) s fun t =>
        t.fab = (s1.sendResponse (m.answer 0x82 m.addr 0 0x80000000 [] [])).fab ∧ CountedBy 0x71900A 1 s t ∧
        OnlyParts [.objects, .fabric] s t ∧ OnlyObjects [0x71900A] s t))

/-- Remote access, signals and pushes (R248, R292, R294, R295). -/
def Obligations.RemoteRequestsStayInTheirRegionsAndRanges : Prop := RemoteReadsAndWritesAreAdmittedByRegion ∧ RemoteSignalsAndPushesStayInTheirRanges

/-- Responses (R292, R293, R296, R313). -/
def Obligations.ResponsesReachTheirRequests : Prop :=
  ∀ (s s1 : State) (m : Msg), s.railsUp = true → s1 = (s.takeMsg m).2 →
    (∀ r, s1.fab.remotes.find? (fun r => r.tag = m.txtag ∧ r.len ≠ 0) = some r → r.remoteDst = false → m.arg.toNat % 2 ^ 31 = 0 →
      s.get 0x510002 ≠ 1 → s.get 0x510002 ≠ 3 → s.fab.mirEvents = [] → Answers (.readData m) s fun t =>
        (∀ th data, th = s1.thread r.eng r.thr →
          data = ((fit m.length m.data).zipIdx.map fun x => (x.1, m.poison.getD (x.2 / 64) false)) →
          t.mem = (s1.streamWrite (s1.window th.task) (engDie r.eng) r.addr data th.counts).1.mem) ∧
        (r.len ≤ m.length → ∀ q ∈ t.fab.remotes, q.tag = r.tag → q.eng = r.eng → q.thr ≠ r.thr) ∧
        (m.length < r.len → { r with addr := r.addr + m.length, len := r.len - m.length } ∈ t.fab.remotes) ∧
        (∀ q ∈ s1.fab.remotes, q.tag ≠ r.tag → q ∈ t.fab.remotes) ∧
        OnlyParts [.objects, .memory, .streams, .fabric] s t ∧ OnlyObjectsAndSides [0x717003] s t) ∧
    (∀ r dev data, s1.fab.remotes.find? (fun r => r.tag = m.txtag ∧ r.len ≠ 0) = some r → r.remoteDst = true → dev = r.addr / 2 ^ 52 →
      data = ((fit m.length m.data).zipIdx.map fun x => (x.1, m.poison.getD (x.2 / 64) false)) → m.arg.toNat % 2 ^ 31 = 0 →
      s.fab.mirEvents = [] →
      (¬ (0xC00 ≤ dev ∧ dev < 0xFFF) → Answers (.readData m) s fun t =>
        t.fab = { (s1.remoteRun r.eng r.thr r.index dev (r.addr % 2 ^ 52) data).fab with remotes := t.fab.remotes } ∧
        (m.length < r.len → { r with addr := r.addr + m.length, len := r.len - m.length } ∈ t.fab.remotes) ∧
        OnlyParts [.objects, .streams, .fabric] s t ∧ OnlyObjects [0x717003, 0x719008] s t) ∧
      (∀ g, g = dev - 0xC00 → 0xC00 ≤ dev → dev < 0xFFF → (s.mcMode g = 1 ∨ s.mcMode g = 2) → Answers (.readData m) s fun t =>
        (t.group g).appended = (s.group g).appended + m.length ∧
        (m.length < r.len → { r with addr := r.addr + m.length, len := r.len - m.length } ∈ t.fab.remotes) ∧
        OnlyParts [.objects, .memory, .streams, .hub, .fabric, .island] s t)) ∧
    (s1.fab.remotes.find? (fun r => r.tag = m.txtag ∧ r.len ≠ 0) = none → exec (.readData m) s = .next s1) ∧
    (∀ r, s1.fab.remotes.find? (fun r => r.tag = m.txtag ∧ r.len = 0) = some r → Answers (.fabricAck m) s fun t =>
        t.fab.remotes = s1.fab.remotes.erase r ∧ CountedBy 0x717002 (ceilDiv (m.arg.toNat % 2 ^ 31) 64) s t ∧
        (∀ e th, e * 64 + th ≠ r.eng * 64 + r.thr → t.thread e th = s.thread e th) ∧
        OnlyParts [.objects, .streams, .fabric] s t ∧ OnlyObjects [0x717002] s t) ∧
    (∀ c, s1.fab.remotes.find? (fun r => r.tag = m.txtag ∧ r.len = 0) = none →
      (List.range 16).find? (fun c => (s.slot c).doorbell = 1 ∧ (s.slot c).txtag = m.txtag) = some c →
      Answers (.fabricAck m) s fun t =>
        t.slot c = { s.slot c with doorbell := 2, result := m.arg } ∧ (∀ d, d ≠ c → t.slot d = s.slot d) ∧ t.fab = s1.fab ∧
        OnlyParts [.hub, .fabric] s t) ∧
    (∀ c gram, m.dst ≠ 0xFFF → gram = fit m.dataLen m.data → bit (field gram 5 1) 0 = true → field gram 4 1 ≠ 0x21 →
      (List.range 16).find? (fun c => (s.slot c).doorbell = 1 ∧ (s.slot c).mtype = 5 ∧ (s.slot c).txtag = m.txtag) = some c →
      Answers (.fabricFmp m) s fun t =>
        t.slot c = { s.slot c with doorbell := 2, result := BitVec.ofNat 32 gram.length, rsp := gram } ∧
        (∀ d, d ≠ c → t.slot d = s.slot d) ∧ t.fab = s1.fab ∧ OnlyParts [.hub, .fabric] s t)

/-- The routes that the manager probes once it has learnt a module by one: through each of its linked or active ports, unless it was met
before or a directed route reaches no further (R288, R291). -/
def newProbes (s : State) (route : List Nat) (info : PeerInfo) : List (List Nat) :=
  if s.fab.routes.any (fun x => x.1 = info.uid) ∨ info.uid.toNat = s.get 0x500004 ∨ 15 ≤ route.length then []
  else (info.peers.filter fun p => info.portStates.getD p.1 0 = 4 ∨ info.portStates.getD p.1 0 = 5).map fun p => route ++ [p.1]

/-- Replies to the manager's probes (R288). -/
def ProbeRepliesDriveTheSweep (s : State) : Prop :=
  ∀ m info x, x = (s.takeMsg m).2 →
    (s.get 0x500003 ≠ 0 → x.fab.probes.find? (fun y => y.1 = m.txtag) = none → Answers (.probeReply m info) s fun t =>
      t.fab = { x.fab with found := (x.fab.found.filter fun y => y.uid ≠ info.uid) ++ [info] } ∧ OnlyParts [.fabric] s t) ∧
    (∀ p left, s.get 0x500003 ≠ 0 → x.fab.probes.find? (fun y => y.1 = m.txtag) = some p →
      left = (x.fab.probes.erase p).map Prod.snd ++ newProbes x p.2 info → Answers (.probeReply m info) s fun t =>
        t.fab.found = (x.fab.found.filter fun y => y.uid ≠ info.uid) ++ [info] ∧
        (left ≠ [] → t.fab.probes.map Prod.snd = left ∧ t.fab.sweeping = x.fab.sweeping ∧ OnlyParts [.fabric, .free] s t) ∧
        (left = [] → t.fab.probes = [] ∧ t.fab.sweeping = false ∧ t.get 0x500201 = (s.get 0x500201 + 1) % 2 ^ 32 ∧
          OnlyParts [.objects, .memory, .hub, .fabric, .island, .free] s t)) ∧
    (s.get 0x500003 = 0 → exec (.probeReply m info) s = .next x)

/-- Discovery (R284, R288 to R291, R297, R300; log entry 169). -/
def Obligations.DiscoveryNamesRoutesAndSweeps : Prop :=
  ∀ s : State, s.railsUp = true →
    (∀ m x back, x = s.takeMsg m → back = returnRoute m x.1 → Answers (.probe m) s fun t =>
      (∃ data : List Byte, data.length ≤ 256 ∧
        t.fab = (({ x.2.draw.2 with fab := { x.2.fab with manager := some (m.src, back) } }).sendMsg
          (x.2.directed back 0x31 m.txtag data)).fab) ∧
      t.free = s.free + 1 ∧ OnlyParts [.fabric, .free] s t) ∧
    ProbeRepliesDriveTheSweep s ∧
    (∀ id x, x = s.takeKind (fun m => m.mtype = 0x32) → Answers (.setId id) s fun t =>
      t.get 0x500001 = id % 4096 ∧ t.fab = x.2.fab ∧ OnlyParts [.objects, .fabric] s t ∧ OnlyObjects [0x500001] s t) ∧
    (∀ up down trees twin peers x, x = s.takeKind (fun m => m.mtype = 0x33) → Answers (.setRoute up down trees ⟨twin, peers⟩) s fun t =>
      t.fab.tableU = routeTable up ∧ t.fab.tableD = routeTable down ∧ t.fab.twinRoutes = twin ∧
      (∀ front tr, trees = front ++ [tr] → (t.group tr.group).ports = tr.ports ∧ (t.group tr.group).deliver = tr.deliver) ∧
      (∀ g, (∀ tr ∈ trees, tr.group ≠ g) → t.group g = s.group g) ∧
      (∀ front p id, peers = front ++ [(p, id)] → p < 8 → s.portLinked p = true →
        bits (t.get (0x501001 + p)) 11 0 = id % 4096) ∧
      t.fab.ports = x.2.fab.ports ∧ t.fab.inbox = x.2.fab.inbox ∧ OnlyParts [.objects, .fabric] s t) ∧
    (Answers .sweepEnd s fun t =>
      (∀ p, p < 8 → t.portState p = if s.portState p = 4 then 5 else s.portState p) ∧
      t.get 0x500201 = (s.get 0x500201 + 1) % 2 ^ 32 ∧ t.fab.sweeping = false ∧
      OnlyParts [.objects, .memory, .hub, .fabric, .island] s t) ∧
    (∀ uid p st x, x = s.takeKind (fun m => m.mtype = 0x35) →
      (s.get 0x500003 ≠ 0 → Answers (.linkEvent uid p st) s fun t =>
        t.fab = { x.2.fab with
          sweepWanted := true
          found := x.2.fab.found.map fun y => if y.uid = uid then { y with portStates := y.portStates.set p st } else y } ∧
        OnlyParts [.fabric] s t) ∧
      (s.get 0x500003 = 0 → exec (.linkEvent uid p st) s = .next x.2))

/-! ## Multicast groups -/

/-- The number of object `sub` of group `g` (R308). -/
def mcKey (g sub : Nat) : Nat := (0x5200 + g) * 256 + sub

/-- No group but `g` has changed. -/
def OnlyGroup (g : Nat) (s t : State) : Prop := ∀ h, h ≠ g → t.group h = s.group h

/-- The command ends in an event record of a class, code, unit and sub-unit with its data, written in the state `u` (R413, R414). -/
def Records (cls code unit sub : Nat) (data : List Byte) (t : State) (P : State → Prop) : Prop :=
  ∃ u, t = u.event cls code unit sub data ∧ P u

/-- A copy of the message that MESSAGE_FORWARD has replicated already waits for this module alone. -/
def ForwardedAlready (s : State) (m : Msg) : Prop := s.fab.inbox.find? (fun x => x.2 = m) = some (none, m)

/-- Group data (R290, R297, R298, R300). -/
def Obligations.GroupDataIsReplicatedAndPlaced : Prop :=
  ∀ (s : State) (g : Nat) (m : Msg) (x : Option Nat × State) (x1 : State), Awake s → g < 0x3FF → m.dst = 0xC00 + g → m.mtype = 0x10 →
    s.fab.mirEvents = [] → x = s.takeMsg m →
    ((¬ ForwardedAlready s m → x1 = x.2.replicateOn x.1 g m) ∧ (ForwardedAlready s m → x1 = x.2)) →
    (15 ≤ m.hops → ¬ ForwardedAlready s m → Answers (.mcData m) s fun t =>
      t.fab = x.2.fab ∧ CountedBy 0x719008 1 s t ∧ OnlyParts [.objects, .fabric] s t ∧ OnlyObjects [0x719008] s t) ∧
    ((m.hops < 15 ∨ ForwardedAlready s m) →
      ((s.group g).deliver = false → Answers (.mcData m) s fun t =>
        t.fab = x1.fab ∧ OnlyParts [.objects, .fabric] s t ∧ OnlyObjects [0x718001, 0x718006] s t) ∧
      (∀ b k a n, b = s.mcBuffer g → k = s.mcObj g 7 % 2 ^ 14 → n = m.length → a = b.1 + m.addr % b.2 → 0 < n → 0 < b.2 → 16 ≤ k →
        m.addr % b.2 + n ≤ b.2 → a % 64 + n ≤ 64 → (s.group g).deliver = true → s.mcMode g = 3 → s.mcObj g 8 % 4 = 0 →
        Writable s (a / 64 * 64) → Unmirrored s (a / 64 * 64) → Answers (.mcData m) s fun t =>
          (∀ i, i < n → byteAt t (a + i) = (fit n m.data).getD i 0) ∧ OnlyBytes (a / 64 * 64) 64 s t ∧
          t.count k = (s.count k + n) % 2 ^ 64 ∧ (∀ j, j ≠ k → t.count j = s.count j) ∧
          t.group g = { s.group g with sender := m.src } ∧ OnlyGroup g s t ∧
          t.fab = { x1.fab with groups := t.fab.groups } ∧
          OnlyParts [.objects, .memory, .hub, .fabric] s t ∧ OnlyObjectsAndSides [0x718001, 0x718006] s t) ∧
      ((s.mcMode g ≠ 3 ∨ s.mcObj g 8 % 4 ≠ 0) → Answers (.mcData m) s fun t =>
        t.fab = x1.fab ∧ OnlyParts [.objects, .fabric] s t ∧ OnlyObjects [0x718001, 0x718006] s t))

/-- The receiver's side (R297, R298, R300, R350). -/
def Obligations.GroupReceiversReportShedRejoinAndLeave : Prop :=
  ∀ (s : State) (g : Nat), s.railsUp = true → g < 0x3FF →
    (s.mcMode g = 3 →
      (bit (s.mcObj g 8) 0 = false → ∀ x now, x = s.group g → now = (s.mcDeliveredOff g, s.mcConsumed g) →
        (now = x.reported → s.tick < x.reportAt + 12 → exec (.mcAckReport g) s = .next s) ∧
        ((now ≠ x.reported ∨ x.reportAt + 12 ≤ s.tick) → Answers (.mcAckReport g) s fun t =>
          t.group g = { x with reported := now, reportAt := s.tick } ∧ OnlyGroup g s t ∧
          t.fab = ((s.putGroup g (t.group g)).sendMsg (s.mcMessage g x.sender 0x11 0 (leBytes 8 now.1 ++ leBytes 8 now.2))).fab ∧
          OnlyParts [.objects, .fabric] s t ∧ OnlyObjectsAndSides [0x719008] s t)) ∧
      (∀ off : U64, Answers (.mcCtlShed g off) s fun t =>
        bit (t.mcObj g 8) 0 = true ∧ (t.group g).shedAt = off.toNat ∧
        (t.group g).poisonedTo = max off.toNat (s.mcConsumed g + (s.mcBuffer g).2) ∧ OnlyGroup g s t ∧
        t.fab.inbox = (s.takeCtl g 1).fab.inbox ∧
        OnlyParts [.objects, .memory, .fabric, .free] s t ∧ OnlyObjectsAndSides [mcKey g 8] s t) ∧
      (∀ (off : U64) kd kc, kd = s.mcObj g 7 % 2 ^ 14 → kc = s.mcObj g 6 % 2 ^ 14 → 16 ≤ kd → 16 ≤ kc →
        Answers (.mcCtlAdmit g off) s fun t =>
          bit (t.mcObj g 8) 0 = false ∧ t.mcObj g 9 = off.toNat ∧ t.count kd = (off.toNat + s.addedNow kd) % 2 ^ 64 ∧
          t.count kc = (off.toNat + s.addedNow kc) % 2 ^ 64 ∧
          (∀ j, j ≠ kd → j ≠ kc → t.count j = s.count j) ∧ t.fab = (s.takeCtl g 3).fab ∧ OnlyParts [.objects, .hub, .fabric] s t ∧
          OnlyObjects [mcKey g 8, mcKey g 9] s t) ∧
      (Answers (.mcCtlRemove g) s fun t =>
        bit (t.mcObj g 8) 1 = true ∧ t.fab = (s.takeCtl g 4).fab ∧ OnlyParts [.objects, .fabric] s t ∧ OnlyObjects [mcKey g 8] s t)) ∧
    (Serves s → Answers (.mcModeDisable g) s fun t =>
      t.mcMode g = 0 ∧ (t.group g).queue = [] ∧ (t.group g).ports = (s.group g).ports ∧ OnlyGroup g s t ∧
      OnlyParts [.objects, .fabric] s t ∧ OnlyObjects [mcKey g 1] s t) ∧
    (Serves s → s.mcMode g = 3 → bit (s.mcObj g 8) 0 = true → Answers (.mcRejoin g) s fun t =>
      t.fab = (s.sendMsg (s.mcMessage g (s.group g).sender 0x12 2 (leBytes 8 (s.group g).shedAt))).fab ∧ t.mcMode g = 3 ∧
      OnlyParts [.objects, .fabric] s t ∧ OnlyObjectsAndSides [0x719008] s t) ∧
    (∀ v : Byte, Serves s → v ≠ 0 →
      (s.mcMode g = 0 → Answers (.mcModeSet g v) s fun t =>
        t.mcMode g = v.toNat ∧ t.mcObj g 8 % 256 = 0 ∧ (∀ r ∈ (t.group g).receivers, r.present = true ∧ r.delivered = 0 ∧ r.consumed = 0) ∧
        OnlyGroup g s t ∧ OnlyParts [.objects, .fabric] s t ∧ OnlyObjects [mcKey g 1, mcKey g 8] s t) ∧
      (s.mcMode g ≠ 0 → (v ≠ 3 ∨ s.mcMode g ≠ 3 ∨ bit (s.mcObj g 8) 0 = false) → Answers (.mcModeSet g v) s fun t =>
        t.mcMode g = s.mcMode g ∧ CountedBy 0x717005 1 s t ∧ OnlyParts [.objects] s t ∧ OnlyObjects [0x717005] s t))

/-- The sender's side (R298 to R300) and stalls (R307). -/
def Obligations.GroupSendersKeepTheWindow : Prop :=
  ∀ (s : State) (g : Nat) (x : McGroup), s.railsUp = true → g < 0x3FF → s.mcSends g = true → x = s.group g →
    (∀ (id : Nat) (d c : U64) rs,
      rs = (x.receivers.map fun r => if r.id = id then { r with delivered := d.toNat, consumed := c.toNat } else r) →
      (Answers (.mcAck g id d c) s fun t =>
        (∀ r ∈ (t.group g).receivers, r.id = id → r.delivered = d.toNat ∧ r.consumed = c.toNat) ∧
        (x.queue = [] → (t.group g).queue = [] ∧ (t.group g).sentOff = x.sentOff ∧ OnlyParts [.fabric] s t) ∧
        (∀ p, x.queue = [p] → (∀ r ∈ rs, x.full (s.mcObj g 2) p.1.length r = false) →
          (t.group g).queue = [] ∧ (t.group g).sentOff = x.sentOff + p.1.length ∧
          (∀ u m, u = (s.takeKind fun m => m.mtype = 0x11 && m.txtag = g && m.src = id).2 →
            m = ({ mtype := 0x10, dn := false, poison := p.2, dst := 0xC00 + g, src := s.devId, len := p.1.length, addr := x.sentOff % 2 ^ 52,
                   txtag := 0, hops := 0, arg := 0, data := p.1 } : Msg) →
            t.fab.ports = (u.replicate g m false).fab.ports ∧ t.fab.inbox = u.fab.inbox) ∧ OnlyParts [.fabric] s t) ∧
        (∀ p rest, x.queue = p :: rest → s.mcMode g = 2 → (∃ r ∈ rs, x.full (s.mcObj g 2) p.1.length r = true) →
          (t.group g).queue = x.queue ∧ (t.group g).sentOff = x.sentOff ∧ OnlyParts [.fabric] s t) ∧
        OnlyGroup g s t ∧ OnlyParts [.objects, .memory, .hub, .fabric, .island] s t)) ∧
    (∀ id, (∃ r ∈ x.receivers, r.id = id ∧ r.shed = true) → id ∉ x.rejoins → Answers (.mcCtlRejoin g id) s fun t =>
      t.group g = { x with rejoins := x.rejoins ++ [id] } ∧ OnlyGroup g s t ∧ OnlyParts [.fabric] s t) ∧
    (∀ id, id ∈ x.rejoins → Answers (.mcRejoinAdmit g id) s fun t =>
      (∀ r ∈ (t.group g).receivers, r.id = id → r.shed = false ∧ r.delivered = x.sentOff ∧ r.consumed = x.sentOff) ∧
      (∀ r ∈ x.receivers, r.id ≠ id → r ∈ (t.group g).receivers) ∧ (t.group g).rejoins = x.rejoins.erase id ∧
      t.fab = (((s.putGroup g (t.group g)).mcCount g).sendMsg (s.mcMessage g id 0x12 3 (leBytes 8 x.sentOff))).fab ∧
      bits (t.mcObj g 8) 15 8 = (t.group g).receivers.countP McReceiver.present % 256 ∧ OnlyGroup g s t ∧
      OnlyParts [.objects, .fabric] s t ∧ OnlyObjectsAndSides [mcKey g 8, 0x719008] s t) ∧
    (∀ id r, x.receivers.find? (fun r => r.id = id) = some r → s.mcLate g r = true → x.queue = [] →
      (s.mcMode g = 1 → Answers (.mcBehindTimeout g id) s fun t =>
        (∀ q ∈ (t.group g).receivers, q.id = id → q.shed = true) ∧ (∀ q ∈ x.receivers, q.id ≠ id → q ∈ (t.group g).receivers) ∧
        CountedBy 0x71900B 1 s t ∧
        Records 5 2 (s.mcUnit g) g (leBytes 2 id ++ leBytes 6 0 ++ leBytes 8 x.sentOff) t (fun u =>
          u.fab = (((s.putGroup g (t.group g)).mcCount g).sendMsg (s.mcMessage g id 0x12 1 (leBytes 8 x.sentOff))).fab) ∧
        OnlyGroup g s t ∧ OnlyParts [.objects, .memory, .hub, .fabric, .island] s t ∧
        OnlyObjectsAndSides [mcKey g 8, 0x719008, 0x71900B] s t) ∧
      (s.mcMode g = 2 → r.episode = false → Answers (.mcBehindTimeout g id) s fun t =>
        (∀ q ∈ (t.group g).receivers, q.id = id → q.episode = true) ∧ (∀ q ∈ x.receivers, q.id ≠ id → q ∈ (t.group g).receivers) ∧
        Records 5 3 (s.mcUnit g) g (leBytes 2 id ++ leBytes 6 0 ++ leBytes 8 r.consumed) t (fun u => u = s.putGroup g (t.group g)) ∧
        OnlyGroup g s t ∧ OnlyParts [.objects, .memory, .hub, .fabric, .island] s t ∧ OnlyObjectsAndSides [] s t) ∧
      (s.mcMode g = 2 → r.episode = true → exec (.mcBehindTimeout g id) s = .next s)) ∧
    (∀ port vl m rest t0 p, p = s.port port → p.txQueue.getD vl [] = m :: rest → p.headSince.getD vl none = some t0 →
      (p.credits.getD vl 0 = 0 ∨ (vl = 2 ∧ m.dst - 0xC00 ∉ p.contexts ∧ 64 ≤ p.contexts.length)) →
      t0 + 12500 * (p.stallMs.getD vl 0 + 1) ≤ s.tick →
      Answers (.egressStallTimeout port vl) s fun t =>
        t.port port = { p with stallMs := p.stallMs.set vl (p.stallMs.getD vl 0 + 1) } ∧
        OnlyPort port s t ∧ CountedBy 0x719011 1 s t ∧
        Records 5 5 (portUnit port) port (leBytes 1 vl ++ leBytes 1 0 ++ leBytes 2 m.dst ++ leBytes 4 (p.stallMs.getD vl 0 + 1)) t (fun u =>
          u = (s.putPort port (t.port port)).bump 0x719011 1) ∧
        OnlyParts [.objects, .memory, .hub, .fabric, .island] s t ∧
        OnlyObjectsAndSides [0x719011] s t)

/-! ## Twins -/

/-- Heartbeats (R301, R302, R306). -/
def HeartbeatsSettleRolesAndDemote : Prop :=
  ∀ s : State,
    (s.beats = true → s.fab.lastBeat + 125 ≤ s.tick → Answers .heartbeatSend s fun t =>
      t.fab.lastBeat = s.tick ∧
      (∀ p, p < 8 → s.twinPort p = true → s.portState p = 5 → ∃ flit older, (t.port p).sent = flit :: older ∧
        field flit 0 1 = 2 ∧ slice flit 8 32 = s.beatRecord) ∧
      OnlyParts [.fabric, .island] s t) ∧
    ((s.beats = false ∨ s.tick < s.fab.lastBeat + 125) → exec .heartbeatSend s = .next s) ∧
    (∀ p (hb : Heartbeat), s.twinPort p = true → s.portLinked p = true → s.paired = true → hb.uid.toNat = s.get 0x510001 →
      Answers (.heartbeatReceive p hb) s fun t =>
        t.get 0x510008 = s.tick ∧ t.fab.twinLost = false ∧ t.fab.roleSettled = true ∧
        (s.fab.roleSettled = false → s.get 0x510002 = 1 → hb.role = 1 →
          t.get 0x510002 = (if s.get 0x500004 < hb.uid.toNat then 1 else 2)) ∧
        (s.fab.roleSettled = false → s.get 0x510002 = 2 → hb.role = 2 →
          t.get 0x510002 = (if s.get 0x500004 < hb.uid.toNat then 1 else 2)) ∧
        (s.get 0x510002 = 1 → hb.role = 3 → t.get 0x510002 = 4 ∧ t.hub.demoted = true) ∧
        (s.get 0x510002 = 1 → hb.role = 2 → t.get 0x510002 = 1 ∧ t.get 0x510007 = max (s.get 0x510007) hb.applied.toNat) ∧
        (hb.role ≠ 3 → t.hub.demoted = s.hub.demoted) ∧
        OnlyParts [.objects, .memory, .hub, .fabric, .island] s t ∧ OnlyObjectsAndSides [0x510002, 0x510007, 0x510008] s t) ∧
    (∀ p (hb : Heartbeat), hb.uid.toNat ≠ s.get 0x510001 → exec (.heartbeatReceive p hb) s = .next s)

/-- Losing the twin (R302, R305, R306). -/
def SilenceLosesTheTwin : Prop :=
  ∀ s : State,
    (∀ s1 u : State, s1 = { (s.bump 0x71900F 1) with fab := { s.fab with twinLost := true } } → u = s1.takeMirrors.applyMirror →
      s.railsUp = true → s.paired = true → s.fab.twinLost = false → s.beatSince + 400 ≤ s.tick → Answers .twinLost s fun t =>
      t.fab.twinLost = true ∧ CountedBy 0x71900F 1 s t ∧
      (s.get 0x510002 = 2 → t.fab.mirFrozen = true ∧ t.fab.mirIn = [] ∧ t.get 0x510007 = u.get 0x510007 ∧
        (s.get 0x51000A = 0 → ∃ w : State, t = w.raiseVector 0 ∧ Records 6 5 25 0 (leBytes 8 (s.get 0x510001) ++ leBytes 8 (u.get 0x510007)) w (fun v => v.mem = u.mem)) ∧
        (s.get 0x51000A ≠ 0 → t.get 0x510002 = 3 ∧ CountedBy 0x719010 1 s t) ∧
        (s.get 0x51000A = 0 → t.get 0x510002 = 2 ∧ t.get 0x719010 = s.get 0x719010)) ∧
      (s.get 0x510002 = 1 → t.get 0x510002 = 1 ∧ t.fab.mirStopped = true ∧ t.get 0x510007 = s.get 0x510007 ∧
        Records 6 4 25 0 (leBytes 8 (s.get 0x510001)) t (fun v => v.mem = s.mem)) ∧
      OnlyParts [.objects, .memory, .hub, .fabric, .island] s t ∧
      OnlyObjectsAndSides [0x71900F, 0x719010, 0x510002, 0x510007] s t) ∧
    (s.fab.twinLost = true → exec .twinLost s = .next s) ∧
    (∀ v : Byte, Serves s →
      ((v = 0 ∨ s.fab.twinLost = false ∨ s.get 0x510002 ≠ 2) → Answers (.takeoverEnWrite v) s fun t =>
        t.get 0x51000A = (if v = 0 then 0 else 1) ∧ OnlyParts [.objects] s t ∧ OnlyObjects [0x51000A] s t) ∧
      (v ≠ 0 → s.fab.twinLost = true → s.get 0x510002 = 2 → Answers (.takeoverEnWrite v) s fun t =>
        t.get 0x51000A = 1 ∧ t.get 0x510002 = 3 ∧ t.fab.mirFrozen = true ∧ t.fab.mirIn = [] ∧ CountedBy 0x719010 1 s t ∧
        t.get 0x510007 = ((s.put 0x51000A 1).takeMirrors.applyMirror).get 0x510007 ∧
        OnlyParts [.objects, .memory, .hub, .fabric, .island] s t ∧
        OnlyObjectsAndSides [0x719010, 0x510002, 0x510007, 0x51000A] s t))

/-- Heartbeats and losing the twin (R301, R302, R305, R306). -/
def Obligations.HeartbeatsPairAndSilenceLosesTheTwin : Prop := HeartbeatsSettleRolesAndDemote ∧ SilenceLosesTheTwin

/-- The state with the message of a mirror write taken from the inbox, where it waits there. -/
def mirTaken (s : State) (seq : U32) (addr : Nat) : State :=
  match s.fab.inbox.find? (fun x => x.2.mtype = 0x20 ∧ x.2.arg = seq ∧ x.2.addr = addr) with
  | some x => (s.takeMsg x.2).2
  | none => s

/-- Mirror writes (R292, R303 to R305, R350). -/
def Obligations.MirrorWritesApplyInSequence : Prop :=
  ∀ s : State, Awake s →
    (∀ (seq : U32) (addr : Nat) (data : List Byte) (poison : Bool),
      (s.get 0x510002 = 2 → s.fab.mirFrozen = false → s.fab.mirIn = [] → s.get 0x510007 + 2 ^ 32 < 2 ^ 64 →
        (seq.toNat = (s.get 0x510007 + 1) % 2 ^ 32 → addr % 64 = 0 → Writable s addr →
          Answers (.mirWrite seq addr data poison) s fun t =>
            (∀ k, k < 64 → byteAt t (addr + k) = (fit 64 data).getD k 0) ∧ OnlyBytes addr 64 s t ∧
            t.get 0x510007 = s.get 0x510007 + 1 ∧ t.fab = { (mirTaken s seq addr).fab with mirIn := [] } ∧ OnlyParts [.objects, .memory, .fabric] s t ∧
            OnlyObjectsAndSides [0x510007] s t) ∧
        (seq.toNat ≠ (s.get 0x510007 + 1) % 2 ^ 32 → Answers (.mirWrite seq addr data poison) s fun t =>
            (∃ l : MirLine, t.fab = { (mirTaken s seq addr).fab with mirIn := [l] } ∧ l.seq % 2 ^ 32 = seq.toNat ∧
              s.get 0x510007 < l.seq ∧ l.addr = addr ∧ l.data = fit 64 data ∧ l.poison = poison) ∧ OnlyParts [.fabric] s t)) ∧
      ((s.get 0x510002 ≠ 2 ∨ s.fab.mirFrozen = true) → exec (.mirWrite seq addr data poison) s = .next (mirTaken s seq addr))) ∧
    (∀ (applied : U64) (x : State), x = (s.takeKind fun m => m.mtype = 0x21).2 →
      ((s.get 0x510002 = 1 ∨ s.get 0x510002 = 3) → Answers (.mirAck applied) s fun t =>
        t.get 0x510007 = applied.toNat ∧ t.fab = x.fab ∧ OnlyParts [.objects, .fabric] s t ∧ OnlyObjects [0x510007] s t) ∧
      (s.get 0x510002 ≠ 1 → s.get 0x510002 ≠ 3 → exec (.mirAck applied) s = .next x)) ∧
    (∀ (r : Nat) (v : Byte) (k : Nat), r < 16 → k = (0x5600 + r) * 256 + 4 → Serves s →
      ((v ≠ 1 ∨ s.get k ≠ 1) → Answers (.mirStateWrite r v) s fun t =>
        t.get k = v.toNat ∧ OnlyParts [.objects] s t ∧ OnlyObjects [k] s t) ∧
      (v = 1 → s.get k = 1 → Answers (.mirStateWrite r v) s fun t =>
        CountedBy 0x717005 1 s t ∧ OnlyParts [.objects] s t ∧ OnlyObjects [0x717005] s t))

/-! ## The hub complex -/

/-- A completion is returned, and the hub is otherwise as it was. -/
def Completes (data : List Byte) (ep ur : Bool) (s t : State) : Prop :=
  t.hub = { s.hub with completions := ((data, ep, ur) :: s.hub.completions).take 16 }

/-- Fabric send slots (R313). -/
def Obligations.SendSlotsSendOneMessageAtATime : Prop :=
  ∀ (s : State) (c : Nat), s.railsUp = true → s.fab.mirEvents = [] →
    (∀ f : SlotFields, (s.slot c).doorbell ≠ 1 →
      ((f.mtype < 3 ∨ 5 < f.mtype) → Answers (.sendSlotDoorbell c f) s fun t =>
        t.slot c = { s.slot c with doorbell := 3 } ∧ (∀ d, d ≠ c → t.slot d = s.slot d) ∧ OnlyParts [.hub] s t) ∧
      (3 ≤ f.mtype → f.mtype ≤ 5 → Answers (.sendSlotDoorbell c f) s fun t =>
        (t.slot c).doorbell = 1 ∧ (t.slot c).mtype = f.mtype ∧ (t.slot c).txtag = s.takeTag.1 ∧ (t.slot c).sentAt = s.tick ∧
        (∀ d, d ≠ c → t.slot d = s.slot d) ∧
        (∃ m : Msg, m.mtype = f.mtype ∧ m.dst = f.dst % 4096 ∧ m.src = s.devId ∧ m.txtag = s.takeTag.1 ∧
          m.len = min (f.len % 65536) ((msgLimit f.mtype).getD 0) ∧ m.data = fit m.len f.data ∧ m.hops = 0 ∧
          (f.mtype ≠ 5 → m.arg = f.arg) ∧ t.fab = (s.takeTag.2.sendMsg m).fab) ∧
        OnlyParts [.objects, .hub, .fabric] s t ∧ OnlyObjectsAndSides [0x719008] s t)) ∧
    (∀ f : SlotFields, (s.slot c).doorbell = 1 → exec (.sendSlotDoorbell c f) s = .next s) ∧
    ((s.slot c).doorbell = 1 → (s.slot c).mtype = 5 →
      ((s.slot c).sentAt + 12500 ≤ s.tick → Answers (.sendSlotTimeout c) s fun t =>
        t.slot c = { s.slot c with doorbell := 3, result := 0 } ∧ (∀ d, d ≠ c → t.slot d = s.slot d) ∧ OnlyParts [.hub] s t) ∧
      (s.tick < (s.slot c).sentAt + 12500 → exec (.sendSlotTimeout c) s = .next s))

/-- BAR0 (R310, R311, R322). -/
def Bar0ReachesItsRanges (s : State) : Prop :=
  ∀ off len, s.hub.ep.dlActive = true →
    (s.bar0Target off = .none →
      (Answers (.bar0Access off len none) s fun t =>
        Completes (List.replicate len 0) false false s t ∧ CountedBy 0x71A00A 1 s t ∧
        CountedBy 0x71600E (if badWindow off len then 1 else 0) s t ∧ OnlyParts [.objects, .hub] s t ∧ OnlyObjects [0x71A00A, 0x71600E] s t) ∧
      (∀ v : U64, Answers (.bar0Access off len (some v)) s fun t =>
        CountedBy 0x71A00A 1 s t ∧ CountedBy 0x71600E (if badWindow off len then 1 else 0) s t ∧ OnlyParts [.objects] s t ∧
        OnlyObjects [0x71A00A, 0x71600E] s t)) ∧
    (s.bar0Target off ≠ .none → badWindow off len = true →
      (Answers (.bar0Access off len none) s fun t =>
        Completes (List.replicate len 0) false false s t ∧ CountedBy 0x71600E 1 s t ∧ OnlyParts [.objects, .hub] s t ∧ OnlyObjects [0x71600E] s t) ∧
      (∀ v : U64, Answers (.bar0Access off len (some v)) s fun t =>
        CountedBy 0x71600E 1 s t ∧ OnlyParts [.objects] s t ∧ OnlyObjects [0x71600E] s t)) ∧
    (∀ n o, s.bar0Target off = .context n o → badWindow off len = false → (o < 0x10 ∨ 0x20 ≤ o) →
      Answers (.bar0Access off len none) s fun t =>
        Completes (slice (ringContext n (s.ring n)) o len) false false s t ∧ OnlyParts [.hub] s t) ∧
    (∀ k, s.bar0Target off = .sync k 0 → off % 8 = 0 → ∀ v : U64, Answers (.bar0Access off 8 (some v)) s fun t =>
      t.count k = (v.toNat + s.addedNow k) % 2 ^ 64 ∧ (∀ j, j ≠ k → t.count j = s.count j) ∧ OnlyParts [.hub] s t) ∧
    (∀ k, s.bar0Target off = .sync k 0 → off % 8 = 0 → Answers (.bar0Access off 8 none) s fun t =>
      Completes (leBytes 8 (s.count k)) false false s t ∧ OnlyParts [.hub] s t)

/-- BAR2 (R321, R323). -/
def Bar2ReachesItsWindows (s : State) : Prop :=
  ∀ off len a, s.hub.ep.dlActive = true → off + len ≤ 2 ^ s.hub.ep.barLog2 → 0 < len → a % 64 + len ≤ 64 →
    ((∀ i, i < len → s.inbound 0x1110 16 0 (off + i) = some (a + i)) → (s.lineAt (a / 64 * 64)).unmapped = false →
      Answers (.bar2Access off len none) s fun t =>
        (∀ r, r = s.lineAt (a / 64 * 64) → Completes (slice r.data (a % 64) len) r.poison false s t ∧
          CountedBy 0x71A003 (if r.poison then 1 else 0) s t) ∧
        OnlyParts [.objects, .hub] s t ∧ OnlyObjectsAndSides (0x71A003 :: readCounters) s t) ∧
    ((∀ i, i < len → s.inbound 0x1110 16 0 (off + i) = none) → Answers (.bar2Access off len none) s fun t =>
        Completes (List.replicate len 0) false false s t ∧ CountedBy 0x71A001 1 s t ∧ OnlyParts [.objects, .hub] s t ∧
        OnlyObjects [0x71A001] s t) ∧
    (∀ data ep, (∀ i, i < len → s.inbound 0x1110 16 1 (off + i) = some (a + i)) → Writable s (a / 64 * 64) →
      Unmirrored s (a / 64 * 64) → Answers (.bar2Access off len (some (data, ep))) s fun t =>
        (∀ k, k < len → byteAt t (a + k) = (fit len data).getD k 0) ∧ OnlyBytes (a / 64 * 64) 64 s t ∧
        CountedBy 0x71A004 (if ep then 1 else 0) s t ∧ OnlyParts [.objects, .memory, .fabric] s t ∧
        OnlyObjectsAndSides [0x71A004] s t)

/-- The root ports' requests (R326). -/
def RootPortsReachTheirWindows (s : State) : Prop :=
  ∀ q addr len a first, first = 0x1130 + 8 * q → q < 2 → bit (s.get 0x201001) (4 + q) = true → 0 < len → a % 64 + len ≤ 64 →
    ((∀ i, i < len → s.inbound first 8 0 (addr + i) = some (a + i)) → (s.lineAt (a / 64 * 64)).unmapped = false →
      Answers (.rootPortRequest q addr len ⟨none, none⟩) s fun t =>
        (∀ r, r = s.lineAt (a / 64 * 64) → Completes (slice r.data (a % 64) len) r.poison false s t) ∧
        OnlyParts [.objects, .hub] s t ∧ OnlyObjectsAndSides (0x71A003 :: readCounters) s t) ∧
    (∀ wr, (∀ i, i < len → s.inbound first 8 (if wr.isSome then 1 else 0) (addr + i) = none) →
      Answers (.rootPortRequest q addr len ⟨wr, none⟩) s fun t =>
        Completes [] false true s t ∧ CountedBy 0x71A002 1 s t ∧ OnlyParts [.objects, .hub] s t ∧ OnlyObjects [0x71A002] s t) ∧
    (∀ data, (∀ i, i < len → s.inbound first 8 1 (addr + i) = some (a + i)) → Writable s (a / 64 * 64) →
      Unmirrored s (a / 64 * 64) → Answers (.rootPortRequest q addr len ⟨(some data), none⟩) s fun t =>
        (∀ k, k < len → byteAt t (a + k) = (fit len data).getD k 0) ∧ OnlyBytes (a / 64 * 64) 64 s t ∧
        OnlyParts [.objects, .memory, .fabric] s t ∧ OnlyObjectsAndSides [] s t) ∧
    (∀ data core id, Answers (.rootPortRequest q addr len ⟨(some data), (some (core, id))⟩) s fun t =>
      t.hub = { s.hub with signals := (.msi core id :: s.hub.signals).take 16 } ∧ OnlyParts [.hub] s t)

/-- A hub core's accesses by address (R310, R311, R325, R326). -/
def CoreAccessesReachTheHubRange (s : State) : Prop :=
  (∀ core off len wr reply y, off = 0x8000000000 + y →
    (s.hub.ep.busMaster = true → Answers (.outboundAccess ⟨core, off⟩ len wr reply) s fun t =>
      (∃ d, t.hub.tlps = (((s.get 0x110002 / 4096 * 4096 + y) % 2 ^ 64, d, wr.isSome) :: s.hub.tlps).take 16 ∧
        (∀ data, wr = some data → d = fit len data)) ∧
      (wr = none → t.hub.readValue = fit len reply) ∧ OnlyParts [.hub] s t) ∧
    (s.hub.ep.busMaster = false → Answers (.outboundAccess ⟨core, off⟩ len wr reply) s fun t =>
      t.hub.tlps = s.hub.tlps ∧ (wr = none → t.hub.readValue = List.replicate len 0) ∧ (wr ≠ none → t.hub = s.hub) ∧ OnlyParts [.hub] s t)) ∧
  (∀ core off len wr reply, off < 0x1000000 → badWindow off len = true → Answers (.outboundAccess ⟨core, off⟩ len wr reply) s fun t =>
    (wr = none → t.hub = { s.hub with readValue := List.replicate len 0 }) ∧ (wr ≠ none → t.hub = s.hub) ∧
    CountedBy 0x71600E 1 s t ∧ OnlyParts [.objects, .hub] s t ∧ OnlyObjects [0x71600E] s t) ∧
  (∀ core off len reply, off < 0x1000000 → badWindow off len = false →
    (∀ v o, hubPart off = .vector v o →
      (Answers (.outboundAccess ⟨core, off⟩ len none reply) s fun t =>
        t.hub = { s.hub with readValue := slice (vectorBytes (s.vector v)) o len } ∧ OnlyParts [.hub] s t) ∧
      (∀ data, Answers (.outboundAccess ⟨core, off⟩ len (some data) reply) s fun t =>
        t.vector v = (s.vector v).write o len (field (fit len data) 0 len) ∧ (∀ w, w ≠ v → t.vector w = s.vector w) ∧
        t.hub = { s.hub with vectors := t.hub.vectors } ∧ OnlyParts [.hub] s t)) ∧
    (∀ e k, hubPart off = .lace e k 8 → Answers (.outboundAccess ⟨core, off⟩ len none reply) s fun t =>
      t.hub = { s.hub with readValue := slice (leBytes 8 (laceStatus (s.lace e k))) 0 len } ∧ OnlyParts [.hub] s t) ∧
    (hubPart off = .none → Answers (.outboundAccess ⟨core, off⟩ len none reply) s fun t =>
      t.hub = { s.hub with readValue := List.replicate len 0 } ∧ CountedBy 0x71600E 1 s t ∧ OnlyParts [.objects, .hub] s t ∧
      OnlyObjects [0x71600E] s t)) ∧
  (∀ core q a len wr reply, q < 2 → a < 0x1000000000 → bit (s.get 0x201001) (4 + q) = true →
    Answers (.outboundAccess ⟨core, (0x1000000000 * (q + 1) + a)⟩ len wr reply) s fun t =>
      t.hub.rpTlps = ({ port := q, config := false, addr := a, data := (wr.map (fit len)).getD [], write := wr.isSome } :: s.hub.rpTlps).take 16 ∧
      (wr = none → t.hub.readValue = fit len reply) ∧ OnlyParts [.hub] s t)

/-- The front-end, the devices and the hub cores (R310, R311, R321 to R323, R325, R326). -/
def Obligations.FrontEndAccessesStayInTheirWindows : Prop :=
  ∀ (s : State), Awake s → s.fab.mirEvents = [] →
    Bar0ReachesItsRanges s ∧ Bar2ReachesItsWindows s ∧ RootPortsReachTheirWindows s ∧ CoreAccessesReachTheHubRange s

/-- The endpoint and the root ports (R317, R325, R393, R430, R432, R433). -/
def Obligations.EndpointPinsAndLinksMove : Prop :=
  ∀ s : State,
    (Answers .perstNAssert s fun t =>
      t.hub.ep = { Endpoint.reset with barLog2 := s.barSize } ∧ bit (t.get 0x201001) 3 = false ∧ t.hub.epPush = [] ∧
      OnlyParts [.objects, .memory, .hub, .fabric, .island] s t ∧ OnlyObjectsAndSides [0x201001] s t) ∧
    (Answers .perstNDeassert s fun t =>
      t.hub = { s.hub with ep := { s.hub.ep with perst := false, training := s.hub.ep.training || s.railsUp } } ∧
      OnlyParts [.hub] s t) ∧
    (s.railsUp = true → s.hub.ep.perst = false → s.hub.ep.training = true → Answers .endpointLinkUp s fun t =>
      t.hub.ep.dlActive = true ∧ t.hub.ep.training = false ∧ bit (t.get 0x201001) 3 = true ∧
      OnlyParts [.objects, .memory, .hub, .fabric, .island] s t ∧ OnlyObjectsAndSides [0x201001] s t) ∧
    (s.hub.ep.dlActive = true →
      (Answers .endpointLinkDown s fun t =>
        t.hub.ep.dlActive = false ∧ t.hub.ep.training = true ∧ bit (t.get 0x201001) 3 = false ∧
        OnlyParts [.objects, .memory, .hub, .fabric, .island] s t ∧ OnlyObjectsAndSides [0x201001] s t) ∧
      (Answers .endpointD0Entry s fun t =>
        t.hub.ep.d3hot = false ∧ t.hub.ep.wakeN = false ∧
        (s.hub.ep.msixEnable = true → ∀ n, t.hub.ep.pba.get n false = true → s.hub.ep.masked.get n false = true) ∧
        OnlyParts [.hub] s t) ∧
      (∀ on, Answers (.endpointConfigWrite (.busMaster on)) s fun t =>
        t.hub = { s.hub with ep := { s.hub.ep with busMaster := on } } ∧ OnlyParts [.hub] s t) ∧
      (∀ on, Answers (.endpointConfigWrite (.pmeEnable on)) s fun t =>
        t.hub = { s.hub with ep := { s.hub.ep with pme := on } } ∧ OnlyParts [.hub] s t) ∧
      (Answers (.endpointConfigWrite .d3hot) s fun t =>
        t.hub = { s.hub with ep := { s.hub.ep with d3hot := true } } ∧ OnlyParts [.hub] s t) ∧
      (∀ on, Answers (.endpointConfigWrite (.msixEnable on)) s fun t => t.hub.ep.msixEnable = on ∧ OnlyParts [.hub] s t) ∧
      (∀ n on, Answers (.endpointConfigWrite (.msixMask n on)) s fun t =>
        t.hub.ep.masked.get (n % 2048) false = on ∧ OnlyParts [.hub] s t)) ∧
    (∀ v : Byte, Serves s → Answers (.rpPerstWrite v) s fun t =>
      t.get 0x112001 = v.toNat ∧
      (∀ q, q < 2 → s.railsUp = true → bit v.toNat q = false → bit t.hub.rpPerst.toNat q = false) ∧
      (∀ q since, q < 2 → s.railsUp = true → bit v.toNat q = true → bit s.hub.rpPerst.toNat q = false →
        s.hub.refSince = some since → (bit t.hub.rpPerst.toNat q = true ↔ since + 1250 ≤ s.tick)) ∧
      OnlyParts [.objects, .hub] s t ∧ OnlyObjects [0x112001] s t) ∧
    (∀ q, q < 2 →
      (s.railsUp = true → bit s.hub.rpPerst.toNat q = true → Answers (.rootPortLinkUp q) s fun t =>
        bit (t.get 0x201001) (4 + q) = true ∧ OnlyParts [.objects, .memory, .hub, .fabric, .island] s t ∧
        OnlyObjectsAndSides [0x201001] s t) ∧
      (Answers (.rootPortLinkDown q) s fun t =>
        bit (t.get 0x201001) (4 + q) = false ∧ OnlyParts [.objects, .memory, .hub, .fabric, .island] s t ∧
        OnlyObjectsAndSides [0x201001] s t))

/-- Interrupt vectors (R316 to R318). -/
def VectorsPendMergeAndDeliver : Prop :=
  ∀ (s : State) (v : Nat) (e : Machine.Vector), e = s.vector v →
    (Awake s → s.hub.ep.d3hot = false → (v < 5 ∨ 15 < v) →
      (e.pend = false → Answers (.vectorRaise v false) s fun t =>
        t.vector v = { e with pend := true } ∧ (∀ w, w ≠ v → t.vector w = s.vector w) ∧
        t.hub = { s.hub with vectors := t.hub.vectors } ∧ OnlyParts [.hub] s t) ∧
      (e.pend = true → Answers (.vectorRaise v false) s fun t =>
        CountedBy 0x71A006 1 s t ∧ OnlyParts [.objects] s t ∧ OnlyObjects [0x71A006] s t)) ∧
    (Awake s → s.hub.ep.d3hot = true → s.hub.ep.pme = true → bit e.dest.toNat 1 = true → (v < 5 ∨ 15 < v) →
      Answers (.vectorRaise v false) s fun t =>
        t.hub.ep = { s.hub.ep with wakeN := true, pmPme := true } ∧ (t.vector v).pend = true ∧ OnlyParts [.objects, .hub] s t ∧
        OnlyObjects [0x71A006] s t) ∧
    (Awake s → 5 ≤ v → v ≤ 15 → exec (.vectorRaise v false) s = .next s) ∧
    (s.railsUp = true → e.pend = true → ∀ n id, n = e.msix.toNat % 2048 → id = e.eiid.toNat % 2048 →
      Answers (.vectorDeliver v) s fun t =>
        t.vector v = { e with pend := false } ∧ (∀ w, w ≠ v → t.vector w = s.vector w) ∧
        (bit e.dest.toNat 0 = true → id ≠ 0 → .msi (e.core.toNat % 16) id ∈ t.hub.signals) ∧
        (bit e.dest.toNat 1 = true → s.hub.ep.dlActive = true → s.hub.ep.msixEnable = true →
          s.hub.ep.masked.get n false = false → s.hub.ep.d3hot = false → .msix n ∈ t.hub.signals) ∧
        (bit e.dest.toNat 1 = true → s.hub.ep.dlActive = true →
          (s.hub.ep.msixEnable = false ∨ s.hub.ep.masked.get n false = true ∨ s.hub.ep.d3hot = true) →
          t.hub.ep.pba.get n false = true) ∧
        (bit e.dest.toNat 1 = true → s.hub.ep.dlActive = false → CountedBy 0x71A00B 1 s t) ∧
        (bit e.dest.toNat 0 = false → bit e.dest.toNat 1 = false → t.hub.signals = s.hub.signals) ∧
        OnlyParts [.objects, .hub] s t ∧ OnlyObjects [0x71A00B] s t) ∧
    (e.pend = false → exec (.vectorDeliver v) s = .next s)

/-- Vectors (R316 to R318) and loads from poisoned lines (R315). -/
def Obligations.VectorsDeliverAndPoisonedLoadsFault : Prop := VectorsPendMergeAndDeliver ∧
  ∀ s : State, s.railsUp = true → ∀ core addr, Answers (.corePoisonLoad core addr) s fun t =>
    (core, addr) ∈ t.hub.coreFaults ∧ CountedBy 0x71A005 1 s t ∧ OnlyParts [.objects, .memory, .hub, .fabric, .island] s t ∧
    OnlyObjectsAndSides [0x71A005] s t

/-- The watchdog (R319). -/
def Obligations.WatchdogWarnsAtHalfAndExpires : Prop :=
  ∀ (s : State) (p : Nat), p = s.get 0x208001 →
    (∀ v, Serves s → Answers (.wdtKick v) s fun t =>
      t.hub = { s.hub with wdtStart := s.tick, wdtHalf := false, wdtExpired := false } ∧ OnlyParts [.hub] s t ∧
      (s.paired = true → s.railsUp = true → s.hub.lost = false → s.isl.power.vinWarn = false → s.isl.rails.trip = none →
        t.beats = true)) ∧
    (Awake s → p ≠ 0 → s.hub.wdtHalf = false → p ≤ 2 * (s.tick - s.hub.wdtStart) → Answers .wdtHalfPeriod s fun t =>
      t.hub.wdtHalf = true ∧ (t.vector 3).pend = true ∧ OnlyParts [.objects, .hub] s t ∧ OnlyObjects [0x71A006] s t) ∧
    ((p = 0 ∨ s.hub.wdtHalf = true ∨ 2 * (s.tick - s.hub.wdtStart) < p) → exec .wdtHalfPeriod s = .next s) ∧
    (s.railsUp = true → p ≠ 0 → s.hub.wdtExpired = false → s.hub.wdtStart + p ≤ s.tick →
      exec .wdtExpire s =
        .next ((({ s with hub := { s.hub with wdtExpired := true } }).bump 0x71A009 1).event 12 1 25 0 (leBytes 4 p)) ∧
      Answers .wdtExpire s fun t =>
        t.hub.wdtExpired = true ∧ t.beats = false ∧ CountedBy 0x71A009 1 s t ∧
        OnlyParts [.objects, .memory, .hub, .fabric, .island] s t ∧ OnlyObjectsAndSides [0x71A009] s t) ∧
    ((p = 0 ∨ s.hub.wdtExpired = true ∨ s.tick < s.hub.wdtStart + p) → exec .wdtExpire s = .next s)

/-! ## The root of trust -/

/-- An event record is written: the parts that a record can touch. -/
def recordParts : List Part := [.objects, .memory, .hub, .fabric, .island]

/-- Measurements and quotes (R336 to R338). -/
def Obligations.MeasurementsExtendAndQuotesSign : Prop :=
  ∀ s : State,
    (s.railsUp = true → ∀ addr, Answers (.measureLast addr) s fun t =>
      t.hub = { s.hub with measures := s.hub.measures ++ [.last addr] } ∧ OnlyParts [.hub] s t) ∧
    (s.railsUp = true → ∀ d, Answers (.measureRuntime d) s fun t =>
      t.hub = { s.hub with measures := s.hub.measures ++ [.runtime d] } ∧ OnlyParts [.hub] s t) ∧
    (∀ d rest, s.hub.measures = .runtime d :: rest → Answers .measureDone s fun t =>
      t.getBlob 0x610004 64 = fit 64 (Config.shake256 (s.getBlob 0x610004 64 ++ d) 64) ∧ t.hub = { s.hub with measures := rest } ∧
      (∀ n len, n ≠ 0x610004 → t.getBlob n len = s.getBlob n len) ∧ OnlyParts [.blobs, .hub] s t) ∧
    (∀ a rest, s.hub.measures = .last a :: rest → Answers .measureDone s fun t =>
      (∀ len data, len = field (s.readPhys a 16).1 8 4 → data = (s.readPhys a len).1 →
        t.getBlob 0x610003 64 = fit 64 (Config.shake256 (s.getBlob 0x610003 64 ++ Config.shake256 data 64) 64)) ∧
      t.get 0x610005 = (s.get 0x610005 + 1) % 2 ^ 32 ∧ CountedBy 0x71A007 1 s t ∧ t.hub = { s.hub with measures := rest } ∧
      (∀ n len, n ≠ 0x610003 → t.getBlob n len = s.getBlob n len) ∧ OnlyParts [.objects, .blobs, .hub] s t ∧
      OnlyObjectsAndSides ([0x610005, 0x71A007] ++ readCounters) s t) ∧
    (Serves s → ∀ nonce, Answers (.nonceWrite nonce) s fun t =>
      t.hub = { s.hub with quoteNonce := nonce, quoteTick := s.tick } ∧ t.get 0x610008 = 1 ∧ OnlyParts [.objects, .hub] s t ∧
      OnlyObjects [0x610008] s t) ∧
    (s.get 0x610008 = 1 → Answers .quoteSigned s fun t =>
      (∀ len, t.getBlob 0x610007 len =
        fit len (s.quoteBody ++ Config.mldsaSign s.isl.trust.seed (ascii "ULF-QTE") s.quoteBody)) ∧
      t.get 0x610008 = 2 ∧ CountedBy 0x71A008 1 s t ∧ (∀ n len, n ≠ 0x610007 → t.getBlob n len = s.getBlob n len) ∧
      OnlyParts [.objects, .blobs] s t ∧ OnlyObjects [0x610008, 0x71A008] s t) ∧
    (s.get 0x610008 ≠ 1 → exec .quoteSigned s = .next s)

/-- Fewer than four handles are pending (R360). -/
def HandleFree (s : State) : Prop := s.isl.fmp.handles.countP (fun h => h.endedAt.isNone) < 4

/-- A handle with the status and state, ended at this tick, stands in place of every handle of its number. -/
def HandleEnded (id status st : Nat) (s t : State) : Prop :=
  ∀ h ∈ t.isl.fmp.handles, h.id = id → h.status = status ∧ h.state = st ∧ h.endedAt = some s.tick

/-- A write of this kind of work takes the next handle, pending. -/
def HandleTaken (work : Nat) (s t : State) : Prop :=
  t.isl.fmp.handles = s.isl.fmp.handles ++ [{ id := s.isl.fmp.nextHandle, work := work, status := 3, state := 0, endedAt := none }]

/-- The rows that write one object other than 6200:01 and 6200:03, and are refused in recovery (R330). -/
def WritesAnObject : Instr → Prop
  | .spEnableWrite _ _ | .hbmEccModeWrite _ | .ddrEccModeWrite _ | .taskWindowWrite _ _ _ | .portEnableWrite _ | .mcModeDisable _
  | .mcModeSet _ _ | .mcRejoin _ | .takeoverEnWrite _ | .mirStateWrite _ _ | .rpPerstWrite _ | .wdtKick _ | .nonceWrite _
  | .config _ | .idCertWrite _ | .fenceRequestWrite _ _ | .moduleResetWrite _ => True
  | _ => False

/-- Images, records and the certificate (R329 to R332, R335, R350, R360; log entry 172). -/
def Obligations.ImagesAndRecordsAreJudgedInTurn : Prop :=
  ∀ s : State, s.isl.trust.up = true →
    (∀ img, HandleFree s → Answers (.fwImageWrite img) s fun t =>
      t.isl.trust = { s.isl.trust with images := s.isl.trust.images ++ [(img, s.isl.fmp.nextHandle)] } ∧ HandleTaken 0 s t ∧
      t.isl.flash = s.isl.flash ∧ OnlyParts [.island] s t) ∧
    (∀ img, ¬HandleFree s → Answers (.fwImageWrite img) s fun t =>
      CountedBy 0x717005 1 s t ∧ OnlyParts [.objects] s t ∧ OnlyObjects [0x717005] s t) ∧
    (∀ r, HandleFree s → s.get 0x600001 ≠ 2 → s.get 0x600005 ≠ 2 → Answers (.config r) s fun t =>
      t.isl.trust = { s.isl.trust with records := s.isl.trust.records ++ [(r, s.isl.fmp.nextHandle)] } ∧ HandleTaken 1 s t ∧
      t.isl.flash = s.isl.flash ∧ OnlyParts [.island] s t) ∧
    (∀ r, (¬HandleFree s ∨ s.get 0x600001 = 2 ∨ s.get 0x600005 = 2) → Answers (.config r) s fun t =>
      CountedBy 0x717005 1 s t ∧ OnlyParts [.objects] s t ∧ OnlyObjects [0x717005] s t) ∧
    (∀ img h rest, s.isl.trust.images = (img, h) :: rest →
      (imageOk s.isl.flash.counter0.toNat img = true → Answers .fwImageWriteDone s fun t =>
        t.isl.flash.image = img ∧ t.isl.flash.slotA = s.isl.flash.slotA ∧ t.isl.flash.slotB = s.isl.flash.slotB ∧
        t.isl.trust.images = rest ∧ HandleEnded h 0 0 s t ∧
        t.isl.trust.restartAt = (if s.get 0x600001 = 2 then some s.tick else s.isl.trust.restartAt) ∧
        OnlyParts recordParts s t ∧ OnlyObjectsAndSides [] s t) ∧
      (imageOk s.isl.flash.counter0.toNat img = false → Answers .fwImageWriteDone s fun t =>
        t.isl.flash = s.isl.flash ∧ t.isl.trust.images = rest ∧ HandleEnded h 0x20 8 s t ∧ CountedBy 0x717005 1 s t ∧
        OnlyParts [.objects, .island] s t ∧ OnlyObjects [0x717005] s t)) ∧
    (∀ raw h rest, s.isl.trust.records = (raw, h) :: rest →
      (s.recordAccepted raw = true → Answers .configVerifyDone s fun t =>
        (if s.slotOk s.isl.flash.slotA s.isl.flash.slotB then t.isl.flash.slotB = raw ∧ t.isl.flash.slotA = s.isl.flash.slotA
          else t.isl.flash.slotA = raw ∧ t.isl.flash.slotB = s.isl.flash.slotB) ∧
        t.isl.flash.counter1.toNat = field raw 8 4 ∧ t.get 0x600003 = field raw 8 4 ∧ t.isl.flash.image = s.isl.flash.image ∧
        t.isl.trust.records = rest ∧ t.isl.trust.record = s.isl.trust.record ∧ HandleEnded h 0 0 s t ∧ OnlyParts recordParts s t ∧
        OnlyObjectsAndSides [0x600003] s t) ∧
      (s.recordAccepted raw = false → Answers .configVerifyDone s fun t =>
        t.isl.flash = s.isl.flash ∧ t.isl.trust.records = rest ∧ HandleEnded h 0x20 9 s t ∧ CountedBy 0x717005 1 s t ∧
        OnlyParts [.objects, .island] s t ∧ OnlyObjects [0x717005] s t)) ∧
    (∀ cert, s.get 0x600001 ≠ 2 → (s.get 0x600005 = 3 → Answers (.idCertWrite cert) s fun t =>
        t.isl = { s.isl with flash := { s.isl.flash with cert := cert } } ∧ t.get 0x600005 = 1 ∧ OnlyParts [.objects, .island] s t ∧
        OnlyObjects [0x600005] s t) ∧
      (s.get 0x600005 ≠ 3 → Answers (.idCertWrite cert) s fun t =>
        CountedBy 0x717005 1 s t ∧ OnlyParts [.objects] s t ∧ OnlyObjects [0x717005] s t)) ∧
    (s.get 0x600001 = 2 → ∀ i, WritesAnObject i → Answers i s fun t =>
      CountedBy 0x717005 1 s t ∧ OnlyParts [.objects] s t ∧ OnlyObjects [0x717005] s t)

/-- The island has lost its power: only flash remains, every object that flash does not hold reads its default (R331, R390). -/
def IslandDark (s t : State) : Prop :=
  t.isl.trust = Trust.reset ∧ t.railsUp = false ∧ t.mem = MemState.reset ∧ t.arr = ArrayState.reset ∧ t.tick = 0 ∧
    t.isl.fmp = FmpState.reset ∧ t.isl.flash.slotA = s.isl.flash.slotA ∧ t.isl.flash.slotB = s.isl.flash.slotB ∧
    t.isl.flash.counter0 = s.isl.flash.counter0 ∧ t.isl.flash.counter1 = s.isl.flash.counter1 ∧
    t.isl.flash.cert = s.isl.flash.cert ∧ t.isl.flash.helper = s.isl.flash.helper ∧ t.pending = s.pending ∧
    ∀ n, flashObj n = false → t.get n = objDefault n % 2 ^ 64

/-- Power-up and restarts (R327, R329 to R333, R335, R336, R390). -/
def Obligations.IslandStartsFromFlashAndRestarts : Prop :=
  ∀ s : State,
    (∀ pattern, s.isl.trust.up = false → Answers (.islandPowerUp pattern) s fun t =>
      t.isl.trust.up = true ∧ t.isl.trust.pubKey = Config.mldsaPublic t.isl.trust.seed ∧
      t.get 0x500004 = field (Config.shake256 t.isl.trust.pubKey 8) 0 8 ∧
      t.isl.trust.record = t.installed.map parseRecord ∧
      (t.get 0x600005 ≠ 2 → bit (t.get 0x201001) 1 = true) ∧
      (imageOk s.isl.flash.counter0.toNat s.isl.flash.image = true → t.isl.trust.running = s.isl.flash.image ∧
        t.get 0x100004 = field s.isl.flash.image 0x10 8 ∧
        t.getBlob 0x610001 64 = fit 64 (Config.shake256 s.isl.flash.image 64) ∧ t.get 0x600001 = s.get 0x600001) ∧
      (imageOk s.isl.flash.counter0.toNat s.isl.flash.image = false → t.get 0x600001 = 2 ∧
        t.get 0x600004 = (s.get 0x600004 + 1) % 2 ^ 32) ∧
      t.get 0x600002 = t.isl.flash.counter0.toNat ∧ t.get 0x600003 = t.isl.flash.counter1.toNat ∧
      OnlyParts [.objects, .blobs, .memory, .hub, .fabric, .island, .free] s t) ∧
    (∀ v : Byte, s.isl.trust.up = true → Answers (.restart v) s fun t =>
      t.isl = { s.isl with trust := { s.isl.trust with restartAt := some (s.tick + 12500) } } ∧ OnlyParts [.island] s t) ∧
    (∀ k, s.isl.trust.restartAt = some k →
      (k ≤ s.tick → Answers .fullRestart s fun t =>
        IslandDark s t ∧ (s.isl.trust.images = [] → t.isl.flash.image = s.isl.flash.image)) ∧
      (s.tick < k → exec .fullRestart s = .next s)) ∧
    (Answers .auxInputLoss s fun t =>
      IslandDark s t ∧ (s.isl.trust.images = [] → t.isl.flash.image = s.isl.flash.image))

/-! ## The Fjarman Management Protocol -/

/-- A request as a datagram with a whole header describes it, arriving now (R351, R353). -/
def requestOf (s : State) (src : Source) (port : Option Nat) (tag : Nat) (b : List Byte) : Request :=
  { src := src, op := field b 4 1, sid := field b 6 2, seq := field b 8 4, session := bit (field b 5 1) 1, token := slice b 16 16,
    payload := slice b 32 (field b 14 2), tag := tag, arrived := (s.tick, s.cycle), rank := arrivalRank src port }

/-- A request is queued behind those that arrived in an earlier cycle, and behind those of its own cycle that R351 does not rank after
it (mailboxes by core, the management port, FD0, FD1). -/
def QueuedInOrder (r : Request) (s t : State) : Prop :=
  ∀ a b, s.isl.fmp.queue = a ++ b → (∀ y ∈ a, ¬(y.arrived = r.arrived ∧ r.rank < y.rank)) →
    (∀ y ∈ b, y.arrived = r.arrived ∧ r.rank < y.rank) → t.isl.fmp.queue = a ++ r :: b

/-- A datagram whose header is whole, and that is a request and no heartbeat (R353, R354). -/
def WholeRequest (b : List Byte) : Prop :=
  32 ≤ b.length ∧ field b 0 2 = 0x4D46 ∧ field b 14 2 ≤ b.length - 32 ∧ field b 4 1 ≠ 0x21 ∧ bit (field b 5 1) 0 = false

/-- No reply to this SEQ is kept, it is not stale, and the queue has room (R361, R362). -/
def Admissible (s : State) (src : Source) (seq : Nat) : Prop :=
  (∀ k ∈ s.keptOf src, k.seq ≠ seq) ∧ (∀ k rest, s.keptOf src = k :: rest → seqStale k.seq seq = false) ∧ s.isl.fmp.queue.length < 16

/-- Datagrams, mailboxes and messages (R352 to R355, R361, R362, R366, R367). -/
def Obligations.DatagramsAreQueuedRepeatedOrDiscarded : Prop :=
  ∀ s : State, s.fab.mirEvents = [] →
    (∀ addr port b, s.hears (.ip addr port) = true → b.length ≤ 1280 →
      (WholeRequest b → Admissible s (.ip addr port) (field b 8 4) → Answers (.fmpDatagramReceive (.ip addr port) b false) s fun t =>
        t.isl = { s.isl with fmp := { s.isl.fmp with queue := t.isl.fmp.queue } } ∧
        QueuedInOrder (requestOf s (.ip addr port) none 0 b) s t ∧
        OnlyParts [.island] s t) ∧
      (∀ k, WholeRequest b → (s.keptOf (.ip addr port)).find? (fun k => k.seq = field b 8 4) = some k →
        Answers (.fmpDatagramReceive (.ip addr port) b false) s fun t =>
          (∃ older, t.isl.fmp.sent = (.ip addr port, k.bytes) :: older) ∧ t.isl.fmp.queue = s.isl.fmp.queue ∧
          CountedBy 0x7F0003 1 s t ∧ OnlyParts [.objects, .island] s t ∧ OnlyObjects [0x7F0003] s t) ∧
      ((b.length < 32 ∨ field b 0 2 ≠ 0x4D46 ∨ b.length - 32 < field b 14 2) →
        Answers (.fmpDatagramReceive (.ip addr port) b false) s fun t =>
          CountedBy 0x7F0004 1 s t ∧ OnlyParts [.objects] s t ∧ OnlyObjects [0x7F0004] s t) ∧
      exec (.fmpDatagramReceive (.ip addr port) b true) s = .next s) ∧
    (∀ core len req b, b = fit (min len 1280) req → s.hears (.core core) = true → (s.mailbox core).1 ≠ 1 → WholeRequest b →
      Admissible s (.core core) (field b 8 4) → Answers (.mailboxDoorbell core len req) s fun t =>
        QueuedInOrder (requestOf s (.core core) none 0 b) s t ∧ (t.mailbox core).1 = 1 ∧
        (∀ c, c ≠ core → t.mailbox c = s.mailbox c) ∧ OnlyParts [.island] s t) ∧
    (∀ (m : Msg) b, m.dst ≠ 0xFFF → b = fit m.dataLen m.data → s.hears (.device m.src) = true → WholeRequest b →
      Admissible s (.device m.src) (field b 8 4) → Answers (.fabricFmp m) s fun t =>
        QueuedInOrder (requestOf s (.device m.src) (s.takeMsg m).1 m.txtag b) s t ∧ t.fab = (s.takeMsg m).2.fab ∧
        OnlyParts [.fabric, .island] s t)

/-- The front request is answered with this payload, status and state: it leaves the queue, the service is counted, and the reply is
the newest kept of its source (R351, R353, R362). -/
def AnsweredWith (r : Request) (rest : List Request) (payload : List Byte) (status st : Nat) (s t : State) : Prop :=
  t.isl.fmp.queue = rest ∧ CountedBy 0x7F0002 1 s t ∧
    t.isl.fmp.kept.head? = some { src := r.src, seq := r.seq, bytes := fmpDatagram r.op 1 r.sid r.seq status st payload }

/-- A request that claims no session, from outside the hub. -/
def PlainRequest (r : Request) : Prop := r.session = false ∧ ∀ c, r.src ≠ .core c

/-- The state in which the front request is served, once it has left the queue and been counted. -/
def serving (s : State) (rest : List Request) : State := (s.putFmp { s.isl.fmp with queue := rest }).bump 0x7F0002 1

/-- Serving (R348, R351, R353, R356 to R358, R360, R362). -/
def Obligations.RequestsAreServedWhollyAndAnswered : Prop :=
  ∀ (s : State) (r : Request) (rest : List Request), s.isl.trust.up = true → s.isl.fmp.queue = r :: rest → s.fab.mirEvents = [] →
    (∀ n row, r.op = 1 → PlainRequest r → 8 ≤ r.payload.length → field r.payload 0 2 = 1 → n = objAt r.payload 4 →
      (readable .fmpPlain n = some row → scalarType row.type = true → Answers .fmpRead s fun t =>
        AnsweredWith r rest (leBytes 2 1 ++ leBytes 2 0 ++ (leBytes 2 (n / 256) ++ leBytes 1 (n % 256) ++ leBytes 1 row.type ++
          leBytes 1 0 ++ leBytes 1 0 ++ leBytes 2 (s.objBytes n row).length ++ pad4 (s.objBytes n row))) 0 0 s t ∧
        OnlyParts [.objects, .fabric, .island] s t ∧ OnlyObjectsAndSides [0x7F0002, 0x101006, 0x719008] s t) ∧
      (readable .fmpPlain n = none → objRow n = some row → scalarType row.type = true → Answers .fmpRead s fun t =>
        AnsweredWith r rest (leBytes 2 1 ++ leBytes 2 0 ++ (leBytes 2 (n / 256) ++ leBytes 1 (n % 256) ++ leBytes 1 row.type ++
          leBytes 1 0 ++ leBytes 1 0 ++ leBytes 2 row.size ++ pad4 (List.replicate row.size 0))) 0 0 s t ∧
        CountedBy 0x7F0001 1 s t ∧ OnlyParts [.objects, .fabric, .island] s t ∧
        OnlyObjectsAndSides [0x7F0001, 0x7F0002, 0x101006, 0x719008] s t)) ∧
    (∀ n len value p u v w, r.op = 2 → field r.payload 0 2 = 1 → n = objAt r.payload 4 → len = field r.payload 8 2 →
      12 + (len + 3) / 4 * 4 ≤ r.payload.length → value = slice r.payload 12 len → (serving s rest).pathOf r = (p, w) →
      w.judgeWrite p n value false = (u, v) → Answers .fmpWrite s fun t =>
        (u.isl.fmp.queue = rest → t.isl.fmp.queue = rest) ∧
        t.isl.fmp.kept.head? = some { src := r.src, seq := r.seq, bytes := fmpDatagram 2 1 r.sid r.seq 0 0 (leBytes 2 1 ++ leBytes 2 0 ++
          (leBytes 2 (n / 256) ++ leBytes 1 (n % 256) ++ leBytes 1 0 ++ leBytes 1 v.status ++ leBytes 1 v.state ++ leBytes 2 0)) } ∧
        OnlyObjectsAndSides [0x101006, 0x719008] u t ∧ (u.fab.mirEvents = [] → OnlyParts [.objects, .fabric, .island] u t)) ∧
    (∀ g row, r.op = 3 → PlainRequest r → readSegment r.payload false = some g → readable .fmpPlain g.obj = some row →
      s.readRefusal g.obj = none → Answers .readSeg s fun t =>
        (∀ value part a, value = s.objBytes g.obj row → part = (value.drop g.offset).take (min g.len 1232) →
          a = segReply g.obj value.length (g.offset + part.length) part.length 0 part .done →
          AnsweredWith r rest a.payload a.status a.state s t) ∧
        OnlyParts [.objects, .fabric, .island] s t ∧ OnlyObjectsAndSides [0x7F0002, 0x101006, 0x719008] s t) ∧
    (∀ g row p w, r.op = 4 → readSegment r.payload true = some g → (serving s rest).pathOf r = (p, w) → w.writable p g.obj = some row →
      g.total ≤ row.size → g.offset = 0 → g.data.length < g.total → Answers .writeSeg s fun t =>
        (∀ a, a = segReply g.obj g.total g.data.length g.len 0 [] .done →
          t.isl.fmp.kept.head? = some { src := r.src, seq := r.seq, bytes := fmpDatagram 4 1 r.sid r.seq a.status a.state a.payload }) ∧
        { src := r.src, obj := g.obj, total := g.total, data := g.data, since := s.tick } ∈ t.isl.fmp.transfers ∧
        t.isl.fmp.queue = rest ∧ OnlyParts [.objects, .fabric, .island] s t ∧
        OnlyObjectsAndSides [0x7F0002, 0x7F0005, 0x101006, 0x719008] s t) ∧
    (r.op = 5 → PlainRequest r →
      (∀ h, 2 ≤ r.payload.length → s.isl.fmp.handles.find? (fun h => h.id = field r.payload 0 2) = some h → Answers .poll s fun t =>
        AnsweredWith r rest [] h.status h.state s t ∧ OnlyParts [.objects, .fabric, .island] s t ∧
        OnlyObjectsAndSides [0x7F0002, 0x101006, 0x719008] s t) ∧
      ((∀ h ∈ s.isl.fmp.handles, h.id ≠ field r.payload 0 2) → Answers .poll s fun t => AnsweredWith r rest [] 0x21 0 s t)) ∧
    (opDefined r.op = false → Answers .fmpUndefinedOp s fun t =>
      AnsweredWith r rest [] 0x21 0 s t ∧ OnlyParts [.objects, .fabric, .island] s t ∧
      OnlyObjectsAndSides [0x7F0002, 0x7F0005, 0x101006, 0x719008] s t)

/-- No open session has used up its tokens (an invariant of the controller: R365). -/
def NoneSpent (s : State) : Prop := ∀ y ∈ s.isl.fmp.sessions, y.opened = true → y.tokensLeft ≠ 0

/-- Sessions (R363 to R365), transfers and handles (R358, R360). -/
def Obligations.SessionsOpenAuthenticateAndClose : Prop :=
  ∀ s : State, s.fab.mirEvents = [] →
    (∀ r rest, s.isl.trust.up = true → s.isl.fmp.queue = r :: rest → NoneSpent s →
      (r.op = 0x10 → PlainRequest r →
        (keyUnowned s.ownerKey = false → s.isl.fmp.sessions.countP (fun x => x.opened) < 4 → Answers .sessionOpen s fun t =>
          (∃ x : Session, t.isl.fmp.sessions = s.isl.fmp.sessions ++ [x] ∧ x.sid = s.freeSid ∧ x.src = r.src ∧ x.opened = false ∧
            x.since = s.tick ∧ AnsweredWith r rest (leBytes 2 x.sid ++ leBytes 2 0 ++ x.challenge) 0 0 s t) ∧
          OnlyParts [.objects, .fabric, .island] s t ∧ OnlyObjectsAndSides [0x7F0002, 0x719008] s t) ∧
        (keyUnowned s.ownerKey = true → Answers .sessionOpen s fun t =>
          AnsweredWith r rest [] 0x20 18 s t ∧ CountedBy 0x717005 1 s t ∧ t.isl.fmp.sessions = s.isl.fmp.sessions)) ∧
      (∀ g x, r.op = 0x11 → PlainRequest r → readSegment r.payload true = some g → keyUnowned s.ownerKey = false →
        s.isl.fmp.sessions.find? (fun x => x.sid = r.sid ∧ x.src = r.src ∧ !x.opened ∧ x.auth.length < 3329) = some x →
        g.total = 3329 → 0 < g.offset → g.offset = x.auth.length → x.auth.length + g.data.length = 3329 → HandleFree s →
        Answers .sessionAuth s fun t =>
          (∀ y ∈ t.isl.fmp.sessions, y.sid = x.sid → y.auth = x.auth ++ g.data ∧ y.opened = false) ∧ HandleTaken (2 + r.sid) s t ∧
          OnlyParts [.objects, .fabric, .island] s t ∧ OnlyObjectsAndSides [0x7F0002, 0x719008] s t) ∧
      (r.op = 0x12 → r.session = true → (∀ c, r.src ≠ .core c) → ∀ x k, (serving s rest).claimed r = some (x, k) →
        Answers .sessionClose s fun t =>
          (∀ y ∈ t.isl.fmp.sessions, y.sid ≠ r.sid) ∧ (∀ y ∈ s.isl.fmp.sessions, y.sid ≠ r.sid → y ∈ t.isl.fmp.sessions) ∧
          AnsweredWith r rest [] 0 0 s t ∧ OnlyParts [.objects, .fabric, .island] s t ∧
          OnlyObjectsAndSides [0x7F0002, 0x101006, 0x719008] s t)) ∧
    (∀ h x, s.isl.fmp.handles.find? (fun h => 2 ≤ h.work ∧ h.endedAt.isNone) = some h →
      s.isl.fmp.sessions.find? (fun x => x.sid = h.work - 2 ∧ !x.opened ∧ x.auth.length = 3329) = some x →
      (s.authentic x = true → s.isl.fmp.sessions.countP (fun y => y.opened) < 4 → field x.auth 16 2 ≠ 0 →
        Answers .sessionAuthDone s fun t =>
          (∀ y ∈ t.isl.fmp.sessions, y.sid = x.sid → y.opened = true ∧ y.lastToken = slice x.auth 0 16 ∧
            y.tokensLeft = field x.auth 16 2 ∧ y.since = s.tick) ∧ HandleEnded h.id 0 0 s t ∧ CountedBy 0x7F0006 1 s t ∧
          OnlyParts [.objects, .island] s t ∧ OnlyObjects [0x7F0006, 0x101006] s t) ∧
      (s.authentic x = false → Answers .sessionAuthDone s fun t =>
          (∀ y ∈ t.isl.fmp.sessions, y.sid ≠ x.sid) ∧ HandleEnded h.id 0x20 17 s t ∧ CountedBy 0x7F0005 1 s t ∧
          CountedBy 0x717005 1 s t ∧ OnlyParts [.objects, .island] s t ∧ OnlyObjects [0x7F0005, 0x717005, 0x101006] s t)) ∧
    (∀ sid x, s.isl.fmp.sessions.find? (fun x => x.sid = sid ∧ !x.opened ∧ x.auth.length < 3329) = some x →
      (x.since + 12500000 ≤ s.tick → Answers (.challengeTimeout sid) s fun t =>
        (∀ y, y ∈ t.isl.fmp.sessions ↔ y ∈ s.isl.fmp.sessions ∧ y.sid ≠ sid) ∧ OnlyParts [.objects, .island] s t ∧
        OnlyObjects [0x101006] s t) ∧
      (s.tick < x.since + 12500000 → exec (.challengeTimeout sid) s = .next s)) ∧
    (∀ sid x secs, secs = (if s.get 0x101004 = 0 then 60 else s.get 0x101004) →
      s.isl.fmp.sessions.find? (fun x => x.sid = sid ∧ x.opened) = some x →
      (x.since + secs * 12500000 ≤ s.tick → Answers (.sessionIdleTimeout sid) s fun t =>
        (∀ y, y ∈ t.isl.fmp.sessions ↔ y ∈ s.isl.fmp.sessions ∧ y.sid ≠ sid) ∧ OnlyParts [.objects, .island] s t ∧
        OnlyObjects [0x101006] s t) ∧
      (s.tick < x.since + secs * 12500000 → exec (.sessionIdleTimeout sid) s = .next s)) ∧
    (∀ src obj tr, s.transfer src obj = some tr →
      (tr.since + 125000000 ≤ s.tick → Answers (.segTransferTimeout src obj) s fun t =>
        t.transfer src obj = none ∧ (∀ x ∈ s.isl.fmp.transfers, ¬(x.src = src ∧ x.obj = obj) → x ∈ t.isl.fmp.transfers) ∧
        OnlyParts [.island] s t) ∧
      (s.tick < tr.since + 125000000 → exec (.segTransferTimeout src obj) s = .next s)) ∧
    (∀ id, Answers (.handleExpire id) s fun t =>
      (∀ h, h ∈ t.isl.fmp.handles ↔ h ∈ s.isl.fmp.handles ∧ ¬(h.id = id ∧ ∃ k, h.endedAt = some k ∧ k + 125000000 ≤ s.tick)) ∧
      OnlyParts [.island] s t)

/-- Objects (R330, R342 to R350) and heartbeats by datagram (R369). -/
def Obligations.ObjectWritesAreJudgedByPath : Prop :=
  ∀ s : State, s.isl.trust.up = true → s.fab.mirEvents = [] →
    (∀ p n value,
      (s.writable p n = none → Answers (.objectWrite p n value) s fun t =>
        CountedBy 0x7F0001 1 s t ∧ OnlyParts [.objects] s t ∧ OnlyObjects [0x7F0001] s t) ∧
      (∀ row, s.writable p n = some row →
        (formOk n row value.length = false → exec (.objectWrite p n value) s = .next s) ∧
        (formOk n row value.length = true → row.type ≠ 0x0D → s.get 0x600001 ≠ 2 → s.specialWrite n value = none →
          (scalarType row.type = true → Answers (.objectWrite p n value) s fun t =>
            t.get n = (if row.type = 1 ∧ leNat value ≠ 0 then 1 else leNat value) ∧ OnlyParts [.objects] s t ∧ OnlyObjects [n] s t) ∧
          (scalarType row.type = false → Answers (.objectWrite p n value) s fun t =>
            t.getBlob n value.length = value ∧ (∀ m len, m ≠ n → t.getBlob m len = s.getBlob m len) ∧ OnlyParts [.blobs] s t)) ∧
        (formOk n row value.length = true → row.type ≠ 0x0D → s.get 0x600001 = 2 → n ≠ 0x620001 → n ≠ 0x620003 →
          Answers (.objectWrite p n value) s fun t =>
            CountedBy 0x717005 1 s t ∧ OnlyParts [.objects] s t ∧ OnlyObjects [0x717005] s t))) ∧
    (s.get 0x200006 ≤ 1 → Answers .objectCopyRefresh s fun t =>
      (∀ n, 0x7000 ≤ n / 256 → n / 256 ≤ 0x7FFF → (t.copy.get n (BitVec.ofNat 64 (objDefault n))).toNat = s.get n) ∧
      OnlyParts [.copy] s t) ∧
    (2 ≤ s.get 0x200006 → exec .objectCopyRefresh s = .next s) ∧
    (∀ addr (hb : Heartbeat), s.hears (.ip addr 0) = true →
      ((addr ≠ s.getBlob 0x510004 16 ∨ hb.uid.toNat ≠ s.get 0x510001) → Answers (.heartbeat addr hb) s fun t =>
        CountedBy 0x7F0004 1 s t ∧ OnlyParts [.objects] s t ∧ OnlyObjects [0x7F0004] s t) ∧
      (addr = s.getBlob 0x510004 16 → hb.uid.toNat = s.get 0x510001 → s.paired = true → Answers (.heartbeat addr hb) s fun t =>
        t.get 0x510008 = s.tick ∧ t.fab.twinLost = false ∧ OnlyParts [.objects, .memory, .hub, .fabric, .island] s t ∧
        OnlyObjectsAndSides [0x510002, 0x510007, 0x510008] s t))

/-! ## Event records and the sideband -/

/-- The record goes to the slot at PI of the event ring, which is of type 4 with 32-byte slots, whole indices and a free slot in
writable, unmirrored memory. -/
def EventRingReady (s : State) (n : Nat) (r : Ring) (a : Nat) : Prop :=
  s.railsUp = true ∧ n = s.eventRing ∧ r = s.ring n ∧ a = ringSlotAddr n r r.pi ∧ ringBroken r = false ∧ ringType n r = 4 ∧
    ringFull r = false ∧ ringSlotSize n r = 32 ∧ Writable s (a / 64 * 64) ∧ Unmirrored s (a / 64 * 64)

/-- The record `evt` stands at the slot, PI has advanced, and no byte outside the slot's line has changed. -/
def RecordStored (n : Nat) (r : Ring) (a : Nat) (evt : List Byte) (s t : State) : Prop :=
  (∀ k, k < 32 → byteAt t (a + k) = evt.getD k 0) ∧ t.ring n = r.setPi (r.pi + 1) ∧ (∀ m, m ≠ n → t.ring m = s.ring m) ∧
    OnlyBytes (a / 64 * 64) 64 s t

/-- The flags of a record: its severity, and bit 3 where the log holds it (R411, R412). -/
def eventFlags (cls code : Nat) : Nat := eventSev cls code + (if eventLogged cls code then 8 else 0)

/-- Event records (R411 to R415, R368). -/
def Obligations.EventsAreMergedStoredAndDropped : Prop :=
  ∀ (s : State),
    (∀ cls code unit sub data, (cls = 0 ∨ cls = 2) → code < 256 → unit < 256 → sub < 2 ^ 13 →
      ((∀ m ∈ s.isl.merges, ¬(m.cls = cls ∧ m.code = code ∧ m.unit = unit ∧ m.sub = sub ∧ s.tick < m.tick + 1250)) →
        Answers (.eventRecordWrite cls code unit sub data) s fun t =>
          t.isl = { s.isl with merges := s.isl.merges ++
            [{ cls := cls, code := code, unit := unit, sub := sub, tick := s.tick, merged := 0, data := fit 16 data }] } ∧
          OnlyParts [.island] s t) ∧
      (∀ m, s.isl.merges = [m] → m.cls = cls → m.code = code → m.unit = unit → m.sub = sub → s.tick < m.tick + 1250 →
        Answers (.eventRecordWrite cls code unit sub data) s fun t =>
          t.isl = { s.isl with merges := [{ m with merged := min 255 (m.merged + 1) }] } ∧ CountedBy 0x71B008 1 s t ∧
          OnlyParts [.objects, .island] s t ∧ OnlyObjects [0x71B008] s t)) ∧
    (∀ cls code unit sub data n r a, cls ≠ 0 → cls ≠ 2 → cls < 256 → code < 256 → unit < 256 → sub < 2 ^ 13 → EventRingReady s n r a →
      Answers (.eventRecordWrite cls code unit sub data) s fun t =>
        RecordStored n r a (eventBytes cls code (eventFlags cls code) sub unit 0 s.tick (fit 16 data)) s t ∧
        (eventLogged cls code = true → ∀ k, k = s.get 0x7E0002 → t.isl.flash.log.get k [] =
          eventBytes cls code (eventFlags cls code) sub unit 0 s.tick (fit 16 data) ∧ t.get 0x7E0002 = (k + 1) % 32768) ∧
        OnlyParts [.objects, .memory, .hub, .island] s t ∧ OnlyObjectsAndSides [] s t) ∧
    (∀ m rest n r a, s.isl.merges = m :: rest → m.tick + 1250 ≤ s.tick → EventRingReady s n r a →
      Answers (.eventMergeExpire m.cls m.code m.unit m.sub) s fun t =>
        t.isl.merges = rest ∧
        RecordStored n r a (eventBytes m.cls m.code (eventFlags m.cls m.code) m.sub m.unit m.merged m.tick m.data) s t ∧
        OnlyParts [.objects, .memory, .hub, .island] s t ∧ OnlyObjectsAndSides [] s t) ∧
    (∀ k e rest, s.isl.fmp.events = (k, e) :: rest →
      (k + 12500 ≤ s.tick → Answers .eventSendTimeout s fun t =>
        t.isl = { s.isl with fmp := { s.isl.fmp with events := rest } } ∧ CountedBy 0x7F0008 1 s t ∧ OnlyParts [.objects, .island] s t ∧
        OnlyObjects [0x7F0008] s t) ∧
      (s.tick < k + 12500 → exec .eventSendTimeout s = .next s))

/-- The sideband (R435 to R437). -/
def Obligations.SidebandShowsItsMap : Prop :=
  ∀ (s : State) (x : Sideband), s.isl.trust.up = true → x = s.isl.side →
    (Answers .sidebandRefresh s fun t =>
      t.isl = { s.isl with side := { x with map := s.sideMap, ibiPending := x.ibiPending ||
        (decide (s.sideMap.getD 3 0 ≠ x.map.getD 3 0) && x.dynAddr.isSome && x.ibiEnabled) } } ∧ OnlyParts [.island] s t) ∧
    (∀ addr, (x.dynAddr = none → Answers (.setdasa addr) s fun t =>
        t.isl = { s.isl with side := { x with dynAddr := some addr } } ∧ OnlyParts [.island] s t) ∧
      (x.dynAddr = none → Answers (.entdaa addr) s fun t =>
        t.isl = { s.isl with side := { x with dynAddr := some addr } } ∧ OnlyParts [.island] s t) ∧
      (x.dynAddr ≠ none → exec (.setdasa addr) s = .next s ∧ exec (.entdaa addr) s = .next s)) ∧
    (Answers .enec s fun t => t.isl = { s.isl with side := { x with ibiEnabled := true } } ∧ OnlyParts [.island] s t) ∧
    (∀ off len, Answers (.sidebandRead off len) s fun t =>
      t.isl.side.readData.length = len ∧ (∀ i, i < len → t.isl.side.readData.getD i 0 = x.map.getD ((off + i) % 64) 0) ∧
      t.isl = { s.isl with side := { x with readData := t.isl.side.readData } } ∧ OnlyParts [.island] s t) ∧
    (x.ibiPending = true → Answers .ibiAck s fun t =>
      t.isl = { s.isl with side := { x with ibiPending := false, ibiData := some (x.map.getD 3 0) } } ∧ OnlyParts [.island] s t) ∧
    (x.ibiPending = false → exec .ibiAck s = .next s)

/-! ## Power states -/

/-- Memory after a module reset: nothing stored, and the layouts that TIER_MAP asked for latched (R211, R392). -/
def resetMem (s : State) : MemState := { MemState.reset with tierMap := s.tierMaps }

/-- The module has been woken by an access: an entry ends, the exit is under way, and the access waits last (R379, R381). -/
def Woken (acc : Access) (s t : State) : Prop :=
  t.isl.power.entering = none ∧ t.isl.power.exiting = true ∧ t.isl.power.heldAcc = s.isl.power.heldAcc ++ [acc] ∧ OnlyParts [.island] s t

/-- The descent to state `k` may begin: idle, quiet, allowed and after its dwell (R377, R378). -/
def MayDescend (s : State) (k dwell : Nat) : Prop :=
  s.railsUp = true ∧ s.get 0x200006 + 1 = k ∧ k ≤ s.deepest ∧ s.isl.power.entering = none ∧ s.isl.power.exiting = false ∧
    s.idle = true ∧ s.quiet = true ∧ s.isl.power.since + dwell ≤ s.tick

/-- Power states and waking (R194, R376 to R382). -/
def Obligations.PowerStatesAreEnteredAndLeft : Prop :=
  ∀ s : State,
    (s.railsUp = true → s.get 0x200006 = 0 → s.idle = true → Answers .enterPoise s fun t =>
      t.get 0x200006 = 1 ∧ CountedBy 0x711001 1 s t ∧ t.isl.power.since = s.tick ∧ OnlyParts [.objects, .island] s t ∧
      OnlyObjects [0x200006, 0x711001] s t) ∧
    (MayDescend s 2 (s.get 0x200003) → Answers .enterHold s fun t =>
      t.isl = { s.isl with power := { s.isl.power with entering := some 2 } } ∧ OnlyParts [.island] s t) ∧
    (MayDescend s 3 (s.get 0x200004) → Answers .enterRest s fun t =>
      t.isl = { s.isl with power := { s.isl.power with entering := some 3 } } ∧ OnlyParts [.island] s t) ∧
    (MayDescend s 4 (s.get 0x200005) → Answers .enterDormant s fun t =>
      t.isl = { s.isl with power := { s.isl.power with entering := some 4 } } ∧ OnlyParts [.island] s t) ∧
    (∀ k, s.isl.power.entering = some k → 2 ≤ k → k ≤ 4 → Answers .stateEntryComplete s fun t =>
      t.get 0x200006 = k ∧ CountedBy (0x711000 + k) 1 s t ∧ t.isl.power.entering = none ∧ t.isl.power.since = s.tick ∧
      (k = 2 → OnlyParts [.objects, .copy, .island] s t ∧ OnlyObjects [0x200006, 0x711002] s t) ∧
      (k = 3 → (∀ d b, d < 20 → b < 64 → t.bankAwake d b = (s.bankAwake d b && bit (s.get (0x402101 + d)) b)) ∧
        (∀ d off, d < 20 → off < 0x2000000 → byteAt t (scratchAddr d off) =
          if bit (s.get (0x402101 + d)) (spBank off) then byteAt s (scratchAddr d off) else 0) ∧
        (∀ a, a < 0xF0000000000 → byteAt t a = byteAt s a) ∧ OnlyParts [.objects, .copy, .memory, .island] s t) ∧
      (k = 4 → (∀ d b, d < 20 → b < 64 → t.bankAwake d b = false) ∧ (∀ a, a < 0xA000000000 → byteAt t a = 0) ∧
        (∀ d off, d < 20 → off < 0x2000000 → byteAt t (scratchAddr d off) = 0) ∧ bit (t.get 0x201001) 2 = false)) ∧
    (s.railsUp = true → s.asleep = true →
      (∀ acc, Answers (.wakeEvent acc) s fun t => Woken acc s t) ∧
      (∀ w n e c, Answers (.ringPushWindow w n e c) s fun t => Woken (.ringPush w n e) s t) ∧
      (∀ n v, Answers (.ringIndexWrite n .pi v) s fun t => Woken (.ringIndex n .pi v) s t) ∧
      (∀ k v, Answers (.syncWindowSet k v) s fun t => Woken (.syncSet k v) s t) ∧
      (∀ k v c, Answers (.syncWindowAdd k v c) s fun t => Woken (.syncAdd k v) s t) ∧
      (∀ v c, Answers (.vectorRaise v c) s fun t => Woken (.vector v) s t) ∧
      (∀ off len wr, s.hub.ep.dlActive = true → Answers (.bar0Access off len wr) s fun t => Woken (.bar0 off len wr) s t) ∧
      (∀ core off len data reply v, off < 0x1000000 → v = some (BitVec.ofNat 64 (field (fit len data) 0 len)) → windowWakes off len v = true →
        Answers (.outboundAccess ⟨core, off⟩ len (some data) reply) s fun t => Woken (.window core off len v) s t)) ∧
    (Awake s → s.fab.mirEvents = [] → ∀ k (v : U64), 16 ≤ k → Answers (.wakeEvent (.syncSet k v)) s fun t =>
      t.count k = (v.toNat + s.addedNow k) % 2 ^ 64 ∧ (∀ j, j ≠ k → t.count j = s.count j) ∧ OnlyParts [.hub] s t) ∧
    (s.railsUp = true → s.isl.power.exiting = true → s.fab.mirEvents = [] →
      (s.isl.power.heldAcc = [] → s.get 0x200006 = 2 → Answers .exitComplete s fun t =>
        t.get 0x200006 = 1 ∧ t.isl.power.exiting = false ∧ t.isl.power.heldAcc = [] ∧ t.isl.power.since = s.tick ∧
        OnlyParts [.objects, .island] s t ∧ OnlyObjects [0x200006] s t) ∧
      (∀ k (v : U64), 16 ≤ k → s.isl.power.heldAcc = [.syncAdd k v] → s.get 0x200006 = 3 → Answers .exitComplete s fun t =>
        t.get 0x200006 = 1 ∧ t.isl.power.heldAcc = [] ∧ t.count k = (s.count k + v.toNat) % 2 ^ 64 ∧
        (∀ j, j ≠ k → t.count j = s.count j) ∧ (∀ d, d < 20 → t.get (0x402201 + d) = s.get (0x402001 + d)) ∧
        OnlyParts [.objects, .hub, .island] s t))

/-- The clock step in force is the larger of the cap's and the throttle's (R375), where no operation is in the array. -/
def StepFollows (s t : State) : Prop := s.arr.ops = [] → t.get 0x200009 = (max t.isl.power.capStep t.isl.power.thermalStep) % 2 ^ 64

/-- The comparison with the cap (R385). -/
def Obligations.CapStepFollowsTheAverage : Prop :=
  ∀ (s : State) (p : PowerState) (avg c : Nat), p = s.isl.power → avg = s.get 0x200008 → s.railsUp = true →
    c = (match s.get 0x200001 with
      | 1 => 700000
      | 2 => 540000
      | _ => 860000) →
    (p.lastCap + 125000 ≤ s.tick → Answers .capStepAdjust s fun t =>
      t.isl.power.lastCap = s.tick ∧
      (c < avg → p.capStep < 7 → t.isl.power.capStep = p.capStep + 1 ∧ CountedBy 0x711005 1 s t ∧ StepFollows s t) ∧
      (c < avg → p.capStep = 7 → t.isl.power.capStep = 7) ∧
      (100 * avg < 95 * c → p.throttled = false → t.isl.power.capStep = p.capStep - 1 ∧ StepFollows s t) ∧
      (100 * avg < 95 * c → p.throttled = true → t.isl.power.capStep = p.capStep) ∧
      (avg ≤ c → 95 * c ≤ 100 * avg → t.isl.power.capStep = p.capStep) ∧
      ((avg ≤ c ∨ p.capStep = 7) → t.get 0x711005 = s.get 0x711005) ∧
      OnlyParts [.objects, .array, .island] s t ∧ OnlyObjects [0x711005, 0x200009, 0x20000A] s t) ∧
    (s.tick < p.lastCap + 125000 → exec .capStepAdjust s = .next s)

/-- Caps (R384 to R386) and junctions (R387, R388). -/
def Obligations.CapsAndJunctionsSlowTheModule : Prop :=
  ∀ (s : State) (p : PowerState), p = s.isl.power →
    (∀ mw l, s.isl.trust.up = true → l = (mw :: p.samples).take 100 → Answers (.powerSample mw) s fun t =>
      t.isl.power.samples = l ∧ t.get 0x200008 = meanOf 100 l % 2 ^ 64 ∧
      (p.capHold = 0 → s.railsUp = true → 11 * s.cap < 10 * meanOf 10 l → t.isl.power.capHold = 32 ∧
        t.isl.power.holdsSince = s.tick ∧
        ∀ d ∈ s.activeDies, (t.hold d).power.map Prod.snd = some (if p.hot then 56 else 32)) ∧
      (p.capHold = 0 → (s.railsUp = false ∨ 10 * meanOf 10 l ≤ 11 * s.cap) → t.isl.power.capHold = 0 ∧ t.arr = s.arr) ∧
      (p.capHold ≠ 0 → meanOf 10 l ≤ s.cap → t.isl.power.capHold = 0 ∧
        (p.hot = false → ∀ d ∈ s.activeDies, (t.hold d).power = none)) ∧
      OnlyParts [.objects, .array, .island] s t ∧ OnlyObjects [0x200008] s t) ∧
    (s.railsUp = true → p.capHold = 32 → p.holdsSince + 12500 ≤ s.tick → s.overLimit = true → Answers .powerHoldEscalate s fun t =>
      t.isl.power = { p with capHold := 56 } ∧ (∀ d ∈ s.activeDies, (t.hold d).power.map Prod.snd = some 56) ∧
      OnlyParts [.array, .island] s t) ∧
    (∀ l x, s.railsUp = true → (s.storeTj l).hottest = some x →
      (1050 ≤ x.2 → Answers (.tjSample l) s fun t =>
        t.railsUp = false ∧ t.isl.rails.trip = some s.tick ∧ CountedBy 0x71100C 1 s t ∧ t.arr = ArrayState.reset) ∧
      (x.2 < 1050 → Answers (.tjSample l) s fun t =>
        (∀ d, d < 25 → s.powered d = true → -32768 ≤ l.getD d 0 → l.getD d 0 < 32768 → t.tj d = l.getD d 0) ∧
        t.isl.power.hot = decide (1030 ≤ x.2) ∧
        (1000 ≤ x.2 → p.throttled = false → t.isl.power.throttled = true ∧ CountedBy 0x711007 1 s t ∧
          t.isl.power.thermalStep = min 7 (s.get 0x200009 + 1) ∧ StepFollows s t) ∧
        (x.2 < 1000 → t.isl.power.throttled = p.throttled ∧ t.isl.power.thermalStep = p.thermalStep))) ∧
    (s.railsUp = true → p.throttled = true →
      (p.throttleSince + 12500 ≤ s.tick → Answers .throttleStep s fun t =>
        t.isl.power = { p with thermalStep := if p.hotSeen then min 7 (p.thermalStep + 1) else p.thermalStep,
                               throttleSince := s.tick, hotSeen := false } ∧
        StepFollows s t ∧ OnlyParts [.objects, .array, .island] s t ∧ OnlyObjects [0x200009, 0x20000A] s t) ∧
      (∀ k, p.coolSince = some k → k + 125000 ≤ s.tick → Answers .throttleEnd s fun t =>
        t.isl.power.throttled = false ∧ t.isl.power.thermalStep = 0 ∧ StepFollows s t ∧
        OnlyParts (recordParts ++ [.array]) s t ∧ OnlyObjectsAndSides [0x200009, 0x20000A] s t)) ∧
    (∀ k, s.isl.rails.trip = some k →
      (k + 125000000 ≤ s.tick → Answers .tripEnd s fun t => t.isl.rails.trip = none ∧
        (s.isl.trust.up = true → t.railsUp = false ∧ t.mem = resetMem s)) ∧
      (s.tick < k + 125000000 → exec .tripEnd s = .next s))

/-- Supplies (R389, R391) and health polls (R416). -/
def Obligations.SuppliesWarnAndReset : Prop :=
  ∀ s : State,
    (s.isl.trust.up = true → ∀ mv, mv < 2 ^ 32 →
      (mv < 44000 → s.isl.power.vinWarn = false → Answers (.vinWarn mv) s fun t =>
        t.isl.power.vinWarn = true ∧ t.get 0x202001 = mv ∧ t.get 0x202002 = min mv (s.get 0x202002) ∧ CountedBy 0x711008 1 s t ∧
        OnlyParts recordParts s t ∧ OnlyObjectsAndSides [0x202001, 0x202002, 0x711008] s t) ∧
      ((44000 ≤ mv ∨ s.isl.power.vinWarn = true) → Answers (.vinWarn mv) s fun t =>
        t.get 0x202001 = mv ∧ OnlyParts [.objects] s t ∧ OnlyObjects [0x202001, 0x202002] s t) ∧
      (45000 < mv → s.isl.power.vinWarn = true → Answers (.vinWarnEnd mv) s fun t =>
        t.isl.power.vinWarn = false ∧ t.get 0x202001 = mv ∧ OnlyParts recordParts s t ∧
        OnlyObjectsAndSides [0x202001, 0x202002] s t) ∧
      (mv < 40000 → s.isl.rails.vinHold = false → s.isl.rails.trip = none → Answers (.vinReset mv) s fun t =>
        t.isl.rails.vinHold = true ∧ t.railsUp = false ∧ t.mem = resetMem s ∧ t.get 0x202001 = mv ∧ t.get 0x711009 = 1) ∧
      ((40000 ≤ mv ∨ s.isl.rails.vinHold = true) → Answers (.vinReset mv) s fun t =>
        t.get 0x202001 = mv ∧ OnlyParts [.objects] s t ∧ OnlyObjects [0x202001, 0x202002] s t)) ∧
    (Answers .vinResetRelease s fun t =>
      t.isl = { s.isl with rails := { s.isl.rails with vinHold := false } } ∧ OnlyParts [.island] s t) ∧
    (s.railsUp = true →
      (∀ d mv, d ∉ s.isl.rails.off → Answers (.railWarn d mv) s fun t =>
        CountedBy 0x71100A 1 s t ∧ OnlyParts recordParts s t ∧ OnlyObjectsAndSides [0x71100A] s t) ∧
      (∀ d, d ≠ 24 → d ∉ s.isl.rails.off → s.fenced d = false → (∀ x ∈ s.isl.rails.lostPending, x.1 ≠ d) →
        Answers (.railReset d) s fun t =>
          t.isl.rails = { s.isl.rails with off := s.isl.rails.off ++ [d], lostPending := s.isl.rails.lostPending ++ [(d, 1)] } ∧
          CountedBy 0x71100B 1 s t ∧ OnlyParts [.objects, .island] s t ∧ OnlyObjects [0x71100B] s t) ∧
      (∀ d, d ≠ 24 → s.fenced d = false → (∀ x ∈ s.isl.rails.lostPending, x.1 ≠ d) → Answers (.pllLockLoss d) s fun t =>
        t.isl = { s.isl with rails := { s.isl.rails with lostPending := s.isl.rails.lostPending ++ [(d, 2)] } } ∧
        OnlyParts [.island] s t) ∧
      (s.isl.trust.up = true → s.isl.rails.trip = none → 24 ∉ s.isl.rails.off →
        (Answers (.railReset 24) s fun t => t.railsUp = false ∧ t.mem = resetMem s) ∧
        (Answers (.pllLockLoss 24) s fun t => t.railsUp = false ∧ t.mem = resetMem s)) ∧
      (∀ answered, (s.isl.rails.polls.get 24 0 < 2 ∨ answered.getD 24 true = true) → Answers (.healthPoll answered) s fun t =>
        (∀ d, d < 25 → answered.getD d true = true → t.isl.rails.polls.get d 0 = 0) ∧
        (∀ d, d < 24 → answered.getD d true = false → s.isl.rails.polls.get d 0 < 2 →
          t.isl.rails.polls.get d 0 = s.isl.rails.polls.get d 0 + 1) ∧
        (∀ d, d < 24 → answered.getD d true = false → 2 ≤ s.isl.rails.polls.get d 0 → s.fenced d = false →
          (∃ c, (d, c) ∈ t.isl.rails.lostPending)) ∧
        (∀ x ∈ s.isl.rails.lostPending, x ∈ t.isl.rails.lostPending) ∧ OnlyParts [.island] s t))

/-! ## Losing units and resets -/

/-- Losing units (R394, R416 to R422, R424). -/
def Obligations.LostUnitsAreFencedInOnePass : Prop :=
  ∀ s : State,
    (∀ d c f, s.isl.rails.lostPending = [(d, c)] → d < 24 → s.fenced d = false → c ≠ 6 → c ≠ 7 →
      f = fenceClosure (s.get 0x330008 ||| 2 ^ d) (s.get 0x330009) → Answers .dieLost s fun t =>
        t.get 0x330008 = f ∧ t.get 0x330009 = s.get 0x330009 ∧ t.get 0x330003 = maskOf 20 (fun d => !bit f d) ∧
        CountedBy 0x71B006 1 s t ∧ CountedBy 0x71B007 1 s t ∧ t.isl.rails.lostPending = [] ∧ ((List.range 20).all (fun d => bit f d) = true → t.hub.lost = true)) ∧
    (∀ c, s.isl.rails.lostPending = [(24, c)] → c ≠ 7 → s.fab.mirEvents = [] → Answers .dieLost s fun t =>
      t.hub.lost = true ∧ t.arr.ops = [] ∧ t.isl.rails.lostPending = [] ∧ CountedBy 0x71B006 1 s t ∧
      OnlyParts (recordParts ++ [.array]) s t) ∧
    (s.isl.rails.lostPending = [] → exec .dieLost s = .next s) ∧
    (Serves s → ∀ (stk : Bool) (v : U32),
      ((s.railsUp = false ∨ s.arr.ops.any OpCtx.inProgress = true) → Answers (.fenceRequestWrite stk v) s fun t =>
        t.get (if stk then 0x330007 else 0x330006) = (if stk then v.toNat % 2 ^ 16 else v.toNat) ∧ OnlyParts [.objects] s t ∧
        OnlyObjects [if stk then 0x330007 else 0x330006] s t) ∧
      (s.railsUp = true → s.arr.ops.any OpCtx.inProgress = false → stk = false → Answers (.fenceRequestWrite stk v) s fun t =>
        t.get 0x330006 = v.toNat ∧ (∀ d, d < 24 → bit v.toNat d = true → t.fenced d = true)) ∧
      (s.railsUp = true → s.arr.ops.any OpCtx.inProgress = false → stk = true → Answers (.fenceRequestWrite stk v) s fun t =>
        t.get 0x330007 = v.toNat % 2 ^ 16 ∧ (∀ k, k < 10 → bit v.toNat k = true → bit (t.get 0x330009) k = true ∧
          (bit (s.get 0x330009) k = false → ∀ d ∈ stackDies k, t.fenced d = true)))) ∧
    (∀ k, s.railsUp = true → (∀ d ∈ stackDies k, s.fenced d = false ∧ ∀ x ∈ s.isl.rails.lostPending, x.1 ≠ d) →
      Answers (.hbmChannelLost k) s fun t =>
        t.isl = { s.isl with rails := { s.isl.rails with lostPending := s.isl.rails.lostPending ++ (stackDies k).map fun d => (d, 6) } } ∧
        OnlyParts [.island] s t) ∧
    (∀ c, c < 8 → s.railsUp = true → s.ddrState c = 3 → Answers (.ddrChannelFailure c) s fun t =>
      t.ddrState c = 5 ∧ bit (t.get 0x201001) (44 + c) = false ∧ t.mem.tier = s.mem.tier ∧ OnlyParts recordParts s t ∧
      OnlyObjectsAndSides [0x404001 + c, 0x201001] s t)

/-- The objects that a configuration record is the source of (R334, R335), and the port status words, whose TWIN bit its twin ports set
(R284). -/
def configObjects : List Nat :=
  [0x200001, 0x330006, 0x330007, 0x500003, 0x510001, 0x510002, 0x510003, 0x51000A] ++ (List.range 8).map fun p => 0x501001 + p

/-- A module reset has taken place (R392): the rails are off, every part but the island has its reset state, and every object that is
neither kept nor configured reads its default. -/
def ModuleWasReset (s t : State) : Prop :=
  t.railsUp = false ∧ t.mem = resetMem s ∧ t.arr = ArrayState.reset ∧ t.streams = StreamState.reset ∧ t.net = NetState.reset ∧
    t.hub.rings = [] ∧ t.hub.sync = [] ∧ t.hub.vectors = [] ∧ t.hub.lost = false ∧ t.isl.fmp.sessions = [] ∧ t.isl.merges = [] ∧
    t.tick = s.tick ∧ t.cycle = s.cycle ∧ t.pending = s.pending ∧ t.isl.flash.image = s.isl.flash.image ∧
    t.isl.trust.running = s.isl.trust.running ∧ t.isl.trust.record = t.installed.map parseRecord ∧
    ∀ n, keepObj n = false → n ∉ configObjects → t.get n = objDefault n % 2 ^ 64

/-- Module resets (R392, R431) and bring-up (R393, R440). -/
def Obligations.ResetsAndBringUp : Prop :=
  ∀ s : State,
    (s.isl.trust.up = true → s.isl.rails.trip = none →
      (Answers .moduleReset s fun t => ModuleWasReset s t ∧ t.isl.rails.mrstHold = s.isl.rails.mrstHold) ∧
      (∀ k, s.isl.trust.resetAt = some k →
        (k ≤ s.tick → Answers .moduleResetDelayExpire s fun t => ModuleWasReset s t ∧ t.isl.trust.resetAt = none) ∧
        (s.tick < k → exec .moduleResetDelayExpire s = .next s)) ∧
      (s.isl.rails.mrstHold = false → Answers .mrstNAssert s fun t => ModuleWasReset s t ∧ t.isl.rails.mrstHold = true)) ∧
    (s.isl.rails.mrstHold = true → exec .mrstNAssert s = .next s) ∧
    (Answers .mrstNRelease s fun t =>
      t.isl = { s.isl with rails := { s.isl.rails with mrstHold := false } } ∧ OnlyParts [.island] s t) ∧
    (Serves s → ∀ v : Byte, Answers (.moduleResetWrite v) s fun t =>
      t.isl = { s.isl with trust := { s.isl.trust with resetAt := some (s.tick + 12500) } } ∧ OnlyParts [.island] s t) ∧
    (∀ slots,
      (s.booted = true → s.railsUp = false → s.isl.rails.ramping = false → s.resetHeld = false → s.isl.power.vinWarn = false →
        Answers (.mainRailsRamp slots) s fun t =>
          t.isl = { s.isl with rails := { s.isl.rails with ramping := true } } ∧ t.mem = { s.mem with dimms := slots } ∧
          OnlyParts [.memory, .island] s t) ∧
      ((s.booted = false ∨ s.resetHeld = true ∨ s.isl.power.vinWarn = true) → exec (.mainRailsRamp slots) s = .next s)) ∧
    (s.isl.rails.ramping = true → Answers .mainRailsUp s fun t =>
      t.railsUp = true ∧ t.isl.rails.ramping = false ∧ t.hub.refSince = some s.tick ∧ bit (t.get 0x201001) 2 = true) ∧
    (s.isl.trust.up = true → s.isl.fmp.events = [] → Answers .mgmtLinkUp s fun t =>
      bit (t.get 0x201001) 0 = true ∧ OnlyParts recordParts s t ∧ OnlyObjectsAndSides [0x201001] s t) ∧
    (Answers .mgmtLinkDown s fun t =>
      bit (t.get 0x201001) 0 = false ∧ OnlyParts recordParts s t ∧ OnlyObjectsAndSides [0x201001] s t)

/-- Wear (R395 to R399). -/
def Obligations.WearIsMeasuredAndLifePredicted : Prop :=
  ∀ (s : State) (w : Wear), w = s.isl.wear →
    (∀ shifts : List Nat, s.get 0x200006 = 1 →
      (w.lastMeasure ≠ some (s.tick / hourTicks) → Answers (.ageingMeasure shifts) s fun t =>
        (∀ d, d < 25 → t.get (0x2F1101 + d) = shifts.getD d 0 % 2 ^ 16) ∧
        t.isl = { s.isl with wear := { w with lastMeasure := some (s.tick / hourTicks) } } ∧ OnlyParts [.objects, .island] s t ∧
        OnlyObjects ((List.range 25).map fun d => 0x2F1101 + d) s t) ∧
      (w.lastMeasure = some (s.tick / hourTicks) → exec (.ageingMeasure shifts) s = .next s)) ∧
    (w.lastStress + 12500000 ≤ s.tick → Answers .stressTick s fun t =>
      (∀ d, d < 25 → t.isl.wear.stress.get d 0 = w.stress.get d 0 + s.secondStress d ∧
        t.isl.wear.duty.get d 0 = w.duty.get d 0 + s.secondStress d ∧
        t.get (0x2F1001 + d) = stressHours (t.isl.wear.stress.get d 0) % 2 ^ 32) ∧
      t.isl.wear.lastStress = s.tick ∧ t.isl.wear.secMax = [] ∧ OnlyParts [.objects, .island] s t ∧
      OnlyObjects ((List.range 25).map fun d => 0x2F1001 + d) s t) ∧
    (s.tick < w.lastStress + 12500000 → exec .stressTick s = .next s) ∧
    (w.lastDay + 24 * hourTicks ≤ s.tick → Answers .dayRollover s fun t =>
      (∀ k, k < 18 → t.isl.wear.days.get k [] = (w.today.get k 0 :: w.days.get k []).take 30 ∧
        t.get (0x2F3001 + k) = w.today.get k 0 % 2 ^ 32 ∧ t.get (0x2F3101 + k) = (daySlope (t.isl.wear.days.get k [])).toNat) ∧
      t.isl.wear.today = [] ∧ t.isl.wear.lastDay = s.tick ∧ OnlyParts [.objects, .island] s t ∧
      OnlyObjects ((List.range 18).flatMap fun k => [0x2F3001 + k, 0x2F3101 + k]) s t) ∧
    (s.tick < w.lastDay + 24 * hourTicks → exec .dayRollover s = .next s) ∧
    (s.isl.trust.up = true → w.lastLife + hourTicks ≤ s.tick → ∀ w1 l, w1 = w.nextHour s.tick →
      l = leastTerm (s.putWear { w1 with thermalHours := w1.thermalHours.drop 1, powerHours := w1.powerHours.drop 1 }).lifeTerms →
      Answers .lifeRecompute s fun t =>
        (l = none → t.get 0x2F0001 = 0xFFFFFFFF ∧ t.get 0x2F0002 = 0 ∧ t.get 0x2F0003 = 0) ∧
        (∀ x, l = some x → t.get 0x2F0001 = min (x.num / x.den) 0xFFFFFFFE ∧ t.get 0x2F0002 = x.mech ∧ t.get 0x2F0003 = x.unit) ∧
        t.isl.wear = w1 ∧ OnlyParts recordParts s t ∧ OnlyObjectsAndSides [0x2F0001, 0x2F0002, 0x2F0003] s t)
end

