-- ==== Sys2Proof/Laws/FramesOps.lean ====
section
/-!
SUPPORT. What the shared operations on the state, the hub, the operands, the fabric and the multicast groups leave untouched: for each operation, the components of the state it
does not write, once, so that a proof about a command does not unfold the operations the command is made of.
Modules in order: Ops, HubOps, Tensor, ByElement, FabricOps, McOps.
-/

namespace Sys2Proof.Machine

theorem foldl_frame {α β : Type} (P : State → β) (g : State → α → State) (h : ∀ s a, P (g s a) = P s) :
    ∀ (l : List α) (s : State), P (l.foldl g s) = P s
  | [], _ => rfl
  | a :: l, s => (foldl_frame P g h l (g s a)).trans (h s a)

theorem foldl_frame_fst {α β γ : Type} (P : State → β) (g : State × γ → α → State × γ) (h : ∀ x a, P (g x a).1 = P x.1) :
    ∀ (l : List α) (x : State × γ), P (l.foldl g x).1 = P x.1
  | [], _ => rfl
  | a :: l, x => (foldl_frame_fst P g h l (g x a)).trans (h x a)

theorem foldl_frame_snd {α β γ : Type} (P : State → β) (g : γ × State → α → γ × State)
    (h : ∀ x a, P (g x a).2 = P x.2) : ∀ (l : List α) (x : γ × State), P (l.foldl g x).2 = P x.2
  | [], _ => rfl
  | a :: l, x => (foldl_frame_snd P g h l (g x a)).trans (h x a)

theorem foldl_frame_mid {α β γ δ : Type} (P : State → β) (g : γ × State × δ → α → γ × State × δ)
    (h : ∀ x a, P (g x a).2.1 = P x.2.1) : ∀ (l : List α) (x : γ × State × δ), P (l.foldl g x).2.1 = P x.2.1
  | [], _ => rfl
  | a :: l, x => (foldl_frame_mid P g h l (g x a)).trans (h x a)

theorem foldl_frame_last2 {α β γ δ : Type} (P : State → β) (g : γ × δ × State → α → γ × δ × State)
    (h : ∀ x a, P (g x a).2.2 = P x.2.2) : ∀ (l : List α) (x : γ × δ × State), P (l.foldl g x).2.2 = P x.2.2
  | [], _ => rfl
  | a :: l, x => (foldl_frame_last2 P g h l (g x a)).trans (h x a)

theorem foldl_frame_last3 {α β γ δ ε : Type} (P : State → β) (g : γ × δ × ε × State → α → γ × δ × ε × State)
    (h : ∀ x a, P (g x a).2.2.2 = P x.2.2.2) : ∀ (l : List α) (x : γ × δ × ε × State), P (l.foldl g x).2.2.2 = P x.2.2.2
  | [], _ => rfl
  | a :: l, x => (foldl_frame_last3 P g h l (g x a)).trans (h x a)

@[simp] theorem ite_frame (c : Prop) [Decidable c] (a b : State) :
    ((if c then a else b).cycle = (if c then a.cycle else b.cycle)) ∧
    ((if c then a else b).subTick = (if c then a.subTick else b.subTick)) ∧
    ((if c then a else b).obj = (if c then a.obj else b.obj)) ∧
    ((if c then a else b).copy = (if c then a.copy else b.copy)) ∧
    ((if c then a else b).blob = (if c then a.blob else b.blob)) ∧
    ((if c then a else b).mem = (if c then a.mem else b.mem)) ∧
    ((if c then a else b).arr = (if c then a.arr else b.arr)) ∧
    ((if c then a else b).streams = (if c then a.streams else b.streams)) ∧
    ((if c then a else b).hub = (if c then a.hub else b.hub)) ∧
    ((if c then a else b).net = (if c then a.net else b.net)) ∧
    ((if c then a else b).fab = (if c then a.fab else b.fab)) ∧
    ((if c then a else b).isl = (if c then a.isl else b.isl)) ∧
    ((if c then a else b).free = (if c then a.free else b.free)) ∧
    ((if c then a else b).pending = (if c then a.pending else b.pending)) := by
  by_cases h : c <;> simp [h]

@[simp] theorem State.put_frame (s : State) (n : ℕ) (v : ℕ) :
    (State.put s n v).cycle = s.cycle ∧ (State.put s n v).subTick = s.subTick ∧ (State.put s n v).copy = s.copy ∧
    (State.put s n v).blob = s.blob ∧ (State.put s n v).mem = s.mem ∧ (State.put s n v).arr = s.arr ∧
    (State.put s n v).streams = s.streams ∧ (State.put s n v).hub = s.hub ∧ (State.put s n v).net = s.net ∧
    (State.put s n v).fab = s.fab ∧ (State.put s n v).isl = s.isl ∧ (State.put s n v).free = s.free ∧
    (State.put s n v).pending = s.pending := by
  simp [State.put]

@[simp] theorem State.bump_frame (s : State) (n : ℕ) (k : ℕ) :
    (State.bump s n k).cycle = s.cycle ∧ (State.bump s n k).subTick = s.subTick ∧ (State.bump s n k).copy = s.copy ∧
    (State.bump s n k).blob = s.blob ∧ (State.bump s n k).mem = s.mem ∧ (State.bump s n k).arr = s.arr ∧
    (State.bump s n k).streams = s.streams ∧ (State.bump s n k).hub = s.hub ∧ (State.bump s n k).net = s.net ∧
    (State.bump s n k).fab = s.fab ∧ (State.bump s n k).isl = s.isl ∧ (State.bump s n k).free = s.free ∧
    (State.bump s n k).pending = s.pending := by
  simp [State.bump]

@[simp] theorem State.bump32_frame (s : State) (n : ℕ) (k : ℕ) :
    (State.bump32 s n k).cycle = s.cycle ∧ (State.bump32 s n k).subTick = s.subTick ∧
    (State.bump32 s n k).copy = s.copy ∧ (State.bump32 s n k).blob = s.blob ∧ (State.bump32 s n k).mem = s.mem ∧
    (State.bump32 s n k).arr = s.arr ∧ (State.bump32 s n k).streams = s.streams ∧ (State.bump32 s n k).hub = s.hub ∧
    (State.bump32 s n k).net = s.net ∧ (State.bump32 s n k).fab = s.fab ∧ (State.bump32 s n k).isl = s.isl ∧
    (State.bump32 s n k).free = s.free ∧ (State.bump32 s n k).pending = s.pending := by
  simp [State.bump32]

@[simp] theorem State.putBlob_frame (s : State) (n : ℕ) (v : List Byte) :
    (State.putBlob s n v).cycle = s.cycle ∧ (State.putBlob s n v).subTick = s.subTick ∧
    (State.putBlob s n v).obj = s.obj ∧ (State.putBlob s n v).copy = s.copy ∧ (State.putBlob s n v).mem = s.mem ∧
    (State.putBlob s n v).arr = s.arr ∧ (State.putBlob s n v).streams = s.streams ∧
    (State.putBlob s n v).hub = s.hub ∧ (State.putBlob s n v).net = s.net ∧ (State.putBlob s n v).fab = s.fab ∧
    (State.putBlob s n v).isl = s.isl ∧ (State.putBlob s n v).free = s.free ∧
    (State.putBlob s n v).pending = s.pending := by
  simp [State.putBlob]

@[simp] theorem State.draw_frame (s : State) :
    (State.draw s).2.cycle = s.cycle ∧ (State.draw s).2.subTick = s.subTick ∧ (State.draw s).2.obj = s.obj ∧
    (State.draw s).2.copy = s.copy ∧ (State.draw s).2.blob = s.blob ∧ (State.draw s).2.mem = s.mem ∧
    (State.draw s).2.arr = s.arr ∧ (State.draw s).2.streams = s.streams ∧ (State.draw s).2.hub = s.hub ∧
    (State.draw s).2.net = s.net ∧ (State.draw s).2.fab = s.fab ∧ (State.draw s).2.isl = s.isl ∧
    (State.draw s).2.pending = s.pending := by
  simp [State.draw]

@[simp] theorem State.putDiff_frame (s : State) (line : ℕ) (d : List Byte) :
    (State.putDiff s line d).cycle = s.cycle ∧ (State.putDiff s line d).subTick = s.subTick ∧
    (State.putDiff s line d).obj = s.obj ∧ (State.putDiff s line d).copy = s.copy ∧
    (State.putDiff s line d).blob = s.blob ∧ (State.putDiff s line d).arr = s.arr ∧
    (State.putDiff s line d).streams = s.streams ∧ (State.putDiff s line d).hub = s.hub ∧
    (State.putDiff s line d).net = s.net ∧ (State.putDiff s line d).fab = s.fab ∧
    (State.putDiff s line d).isl = s.isl ∧ (State.putDiff s line d).free = s.free ∧
    (State.putDiff s line d).pending = s.pending := by
  simp [State.putDiff]

@[simp] theorem State.putTag_frame (s : State) (line : ℕ) (t : U16) :
    (State.putTag s line t).cycle = s.cycle ∧ (State.putTag s line t).subTick = s.subTick ∧
    (State.putTag s line t).obj = s.obj ∧ (State.putTag s line t).copy = s.copy ∧
    (State.putTag s line t).blob = s.blob ∧ (State.putTag s line t).arr = s.arr ∧
    (State.putTag s line t).streams = s.streams ∧ (State.putTag s line t).hub = s.hub ∧
    (State.putTag s line t).net = s.net ∧ (State.putTag s line t).fab = s.fab ∧ (State.putTag s line t).isl = s.isl ∧
    (State.putTag s line t).free = s.free ∧ (State.putTag s line t).pending = s.pending := by
  simp [State.putTag]

@[simp] theorem State.putFlag_frame (s : State) (line : ℕ) (p : Bool) :
    (State.putFlag s line p).cycle = s.cycle ∧ (State.putFlag s line p).subTick = s.subTick ∧
    (State.putFlag s line p).obj = s.obj ∧ (State.putFlag s line p).copy = s.copy ∧
    (State.putFlag s line p).blob = s.blob ∧ (State.putFlag s line p).arr = s.arr ∧
    (State.putFlag s line p).streams = s.streams ∧ (State.putFlag s line p).hub = s.hub ∧
    (State.putFlag s line p).net = s.net ∧ (State.putFlag s line p).fab = s.fab ∧
    (State.putFlag s line p).isl = s.isl ∧ (State.putFlag s line p).free = s.free ∧
    (State.putFlag s line p).pending = s.pending := by
  simp [State.putFlag]

@[simp] theorem State.putBytes_frame (s : State) (a : ℕ) (en : List Bool) (data : List Byte) :
    (State.putBytes s a en data).cycle = s.cycle ∧ (State.putBytes s a en data).subTick = s.subTick ∧
    (State.putBytes s a en data).obj = s.obj ∧ (State.putBytes s a en data).copy = s.copy ∧
    (State.putBytes s a en data).blob = s.blob ∧ (State.putBytes s a en data).arr = s.arr ∧
    (State.putBytes s a en data).streams = s.streams ∧ (State.putBytes s a en data).hub = s.hub ∧
    (State.putBytes s a en data).net = s.net ∧ (State.putBytes s a en data).fab = s.fab ∧
    (State.putBytes s a en data).isl = s.isl ∧ (State.putBytes s a en data).free = s.free ∧
    (State.putBytes s a en data).pending = s.pending := by
  simp [State.putBytes]

@[simp] theorem State.dropWritebacks_frame (s : State) (line : ℕ) :
    (State.dropWritebacks s line).cycle = s.cycle ∧ (State.dropWritebacks s line).subTick = s.subTick ∧
    (State.dropWritebacks s line).copy = s.copy ∧ (State.dropWritebacks s line).blob = s.blob ∧
    (State.dropWritebacks s line).arr = s.arr ∧ (State.dropWritebacks s line).streams = s.streams ∧
    (State.dropWritebacks s line).hub = s.hub ∧ (State.dropWritebacks s line).net = s.net ∧
    (State.dropWritebacks s line).fab = s.fab ∧ (State.dropWritebacks s line).isl = s.isl ∧
    (State.dropWritebacks s line).free = s.free ∧ (State.dropWritebacks s line).pending = s.pending := by
  simp [State.dropWritebacks]

@[simp] theorem State.diverge_frame (s : State) (r : ℕ) :
    (State.diverge s r).cycle = s.cycle ∧ (State.diverge s r).subTick = s.subTick ∧
    (State.diverge s r).copy = s.copy ∧ (State.diverge s r).blob = s.blob ∧ (State.diverge s r).mem = s.mem ∧
    (State.diverge s r).arr = s.arr ∧ (State.diverge s r).streams = s.streams ∧ (State.diverge s r).hub = s.hub ∧
    (State.diverge s r).net = s.net ∧ (State.diverge s r).isl = s.isl ∧ (State.diverge s r).free = s.free ∧
    (State.diverge s r).pending = s.pending := by
  simp [State.diverge]

@[simp] theorem State.putMirQueue_frame (s : State) (u : ℕ) (l : List MirLine) :
    (State.putMirQueue s u l).cycle = s.cycle ∧ (State.putMirQueue s u l).subTick = s.subTick ∧
    (State.putMirQueue s u l).obj = s.obj ∧ (State.putMirQueue s u l).copy = s.copy ∧
    (State.putMirQueue s u l).blob = s.blob ∧ (State.putMirQueue s u l).mem = s.mem ∧
    (State.putMirQueue s u l).arr = s.arr ∧ (State.putMirQueue s u l).streams = s.streams ∧
    (State.putMirQueue s u l).hub = s.hub ∧ (State.putMirQueue s u l).net = s.net ∧
    (State.putMirQueue s u l).isl = s.isl ∧ (State.putMirQueue s u l).free = s.free ∧
    (State.putMirQueue s u l).pending = s.pending := by
  simp [State.putMirQueue]

@[simp] theorem State.capture_frame (s : State) (a : ℕ) (poison : Bool) :
    (State.capture s a poison).cycle = s.cycle ∧ (State.capture s a poison).subTick = s.subTick ∧
    (State.capture s a poison).copy = s.copy ∧ (State.capture s a poison).blob = s.blob ∧
    (State.capture s a poison).mem = s.mem ∧ (State.capture s a poison).arr = s.arr ∧
    (State.capture s a poison).streams = s.streams ∧ (State.capture s a poison).hub = s.hub ∧
    (State.capture s a poison).net = s.net ∧ (State.capture s a poison).isl = s.isl ∧
    (State.capture s a poison).free = s.free ∧ (State.capture s a poison).pending = s.pending := by
  unfold State.capture
  repeat' (first
    | with_reducible rfl | (simp; done) | split | apply And.intro | (intro _)
    | (with_reducible refine (foldl_frame _ _ ?_ _ _).trans ?_))

@[simp] theorem State.countBeats_frame (s : State) (beats : ℕ) (links : ℕ) (transfers : ℕ) (vcB : Bool) :
    (State.countBeats s beats links transfers vcB).cycle = s.cycle ∧
    (State.countBeats s beats links transfers vcB).subTick = s.subTick ∧
    (State.countBeats s beats links transfers vcB).copy = s.copy ∧
    (State.countBeats s beats links transfers vcB).blob = s.blob ∧
    (State.countBeats s beats links transfers vcB).mem = s.mem ∧
    (State.countBeats s beats links transfers vcB).arr = s.arr ∧
    (State.countBeats s beats links transfers vcB).streams = s.streams ∧
    (State.countBeats s beats links transfers vcB).hub = s.hub ∧
    (State.countBeats s beats links transfers vcB).net = s.net ∧
    (State.countBeats s beats links transfers vcB).fab = s.fab ∧
    (State.countBeats s beats links transfers vcB).isl = s.isl ∧
    (State.countBeats s beats links transfers vcB).free = s.free ∧
    (State.countBeats s beats links transfers vcB).pending = s.pending := by
  simp [State.countBeats]

@[simp] theorem State.countMerge_frame (s : State) (r : LineRead) :
    (State.countMerge s r).cycle = s.cycle ∧ (State.countMerge s r).subTick = s.subTick ∧
    (State.countMerge s r).copy = s.copy ∧ (State.countMerge s r).blob = s.blob ∧ (State.countMerge s r).mem = s.mem ∧
    (State.countMerge s r).arr = s.arr ∧ (State.countMerge s r).streams = s.streams ∧
    (State.countMerge s r).hub = s.hub ∧ (State.countMerge s r).net = s.net ∧ (State.countMerge s r).fab = s.fab ∧
    (State.countMerge s r).isl = s.isl ∧ (State.countMerge s r).free = s.free ∧
    (State.countMerge s r).pending = s.pending := by
  simp [State.countMerge]

@[simp] theorem State.writeLine_frame (s : State) (a : ℕ) (en : List Bool) (data : List Byte) (poison : Bool) :
    (State.writeLine s a en data poison).cycle = s.cycle ∧ (State.writeLine s a en data poison).subTick = s.subTick ∧
    (State.writeLine s a en data poison).copy = s.copy ∧ (State.writeLine s a en data poison).blob = s.blob ∧
    (State.writeLine s a en data poison).arr = s.arr ∧ (State.writeLine s a en data poison).streams = s.streams ∧
    (State.writeLine s a en data poison).hub = s.hub ∧ (State.writeLine s a en data poison).net = s.net ∧
    (State.writeLine s a en data poison).isl = s.isl ∧ (State.writeLine s a en data poison).free = s.free ∧
    (State.writeLine s a en data poison).pending = s.pending := by
  unfold State.writeLine; (repeat' split) <;> simp

@[simp] theorem State.countUnmappedRead_frame (s : State) :
    (State.countUnmappedRead s).cycle = s.cycle ∧ (State.countUnmappedRead s).subTick = s.subTick ∧
    (State.countUnmappedRead s).copy = s.copy ∧ (State.countUnmappedRead s).blob = s.blob ∧
    (State.countUnmappedRead s).mem = s.mem ∧ (State.countUnmappedRead s).arr = s.arr ∧
    (State.countUnmappedRead s).streams = s.streams ∧ (State.countUnmappedRead s).hub = s.hub ∧
    (State.countUnmappedRead s).net = s.net ∧ (State.countUnmappedRead s).fab = s.fab ∧
    (State.countUnmappedRead s).isl = s.isl ∧ (State.countUnmappedRead s).free = s.free ∧
    (State.countUnmappedRead s).pending = s.pending := by
  simp [State.countUnmappedRead]

@[simp] theorem State.countUnmappedWrite_frame (s : State) :
    (State.countUnmappedWrite s).cycle = s.cycle ∧ (State.countUnmappedWrite s).subTick = s.subTick ∧
    (State.countUnmappedWrite s).copy = s.copy ∧ (State.countUnmappedWrite s).blob = s.blob ∧
    (State.countUnmappedWrite s).mem = s.mem ∧ (State.countUnmappedWrite s).arr = s.arr ∧
    (State.countUnmappedWrite s).streams = s.streams ∧ (State.countUnmappedWrite s).hub = s.hub ∧
    (State.countUnmappedWrite s).net = s.net ∧ (State.countUnmappedWrite s).fab = s.fab ∧
    (State.countUnmappedWrite s).isl = s.isl ∧ (State.countUnmappedWrite s).free = s.free ∧
    (State.countUnmappedWrite s).pending = s.pending := by
  simp [State.countUnmappedWrite]

@[simp] theorem State.countLine_frame (s : State) (r : LineRead) :
    (State.countLine s r).cycle = s.cycle ∧ (State.countLine s r).subTick = s.subTick ∧
    (State.countLine s r).copy = s.copy ∧ (State.countLine s r).blob = s.blob ∧ (State.countLine s r).mem = s.mem ∧
    (State.countLine s r).arr = s.arr ∧ (State.countLine s r).streams = s.streams ∧
    (State.countLine s r).hub = s.hub ∧ (State.countLine s r).net = s.net ∧ (State.countLine s r).fab = s.fab ∧
    (State.countLine s r).isl = s.isl ∧ (State.countLine s r).free = s.free ∧
    (State.countLine s r).pending = s.pending := by
  simp [State.countLine]

@[simp] theorem State.readPhys_frame (s : State) (a : ℕ) (n : ℕ) :
    (State.readPhys s a n).2.2.2.cycle = s.cycle ∧ (State.readPhys s a n).2.2.2.subTick = s.subTick ∧
    (State.readPhys s a n).2.2.2.copy = s.copy ∧ (State.readPhys s a n).2.2.2.blob = s.blob ∧
    (State.readPhys s a n).2.2.2.mem = s.mem ∧ (State.readPhys s a n).2.2.2.arr = s.arr ∧
    (State.readPhys s a n).2.2.2.streams = s.streams ∧ (State.readPhys s a n).2.2.2.hub = s.hub ∧
    (State.readPhys s a n).2.2.2.net = s.net ∧ (State.readPhys s a n).2.2.2.fab = s.fab ∧
    (State.readPhys s a n).2.2.2.isl = s.isl ∧ (State.readPhys s a n).2.2.2.free = s.free ∧
    (State.readPhys s a n).2.2.2.pending = s.pending := by
  unfold State.readPhys
  repeat' (first
    | with_reducible rfl | (simp; done) | split | apply And.intro | (intro _)
    | (with_reducible refine (foldl_frame _ _ ?_ _ _).trans ?_)
    | (with_reducible refine (foldl_frame_fst _ _ ?_ _ _).trans ?_)
    | (with_reducible refine (foldl_frame_snd _ _ ?_ _ _).trans ?_)
    | (with_reducible refine (foldl_frame_mid _ _ ?_ _ _).trans ?_)
    | (with_reducible refine (foldl_frame_last2 _ _ ?_ _ _).trans ?_)
    | (with_reducible refine (foldl_frame_last3 _ _ ?_ _ _).trans ?_))

@[simp] theorem State.writePhys_frame (s : State) (a : ℕ) (data : List Byte) (poison : Bool) :
    (State.writePhys s a data poison).2.cycle = s.cycle ∧ (State.writePhys s a data poison).2.subTick = s.subTick ∧
    (State.writePhys s a data poison).2.copy = s.copy ∧ (State.writePhys s a data poison).2.blob = s.blob ∧
    (State.writePhys s a data poison).2.arr = s.arr ∧ (State.writePhys s a data poison).2.streams = s.streams ∧
    (State.writePhys s a data poison).2.hub = s.hub ∧ (State.writePhys s a data poison).2.net = s.net ∧
    (State.writePhys s a data poison).2.isl = s.isl ∧ (State.writePhys s a data poison).2.free = s.free ∧
    (State.writePhys s a data poison).2.pending = s.pending := by
  unfold State.writePhys
  repeat' (first
    | with_reducible rfl | (simp; done) | split | apply And.intro | (intro _)
    | (with_reducible refine (foldl_frame _ _ ?_ _ _).trans ?_)
    | (with_reducible refine (foldl_frame_fst _ _ ?_ _ _).trans ?_)
    | (with_reducible refine (foldl_frame_snd _ _ ?_ _ _).trans ?_)
    | (with_reducible refine (foldl_frame_mid _ _ ?_ _ _).trans ?_)
    | (with_reducible refine (foldl_frame_last2 _ _ ?_ _ _).trans ?_)
    | (with_reducible refine (foldl_frame_last3 _ _ ?_ _ _).trans ?_) | simp)

@[simp] theorem State.countTaskRead_frame (s : State) (r : TaskRead) :
    (State.countTaskRead s r).cycle = s.cycle ∧ (State.countTaskRead s r).subTick = s.subTick ∧
    (State.countTaskRead s r).copy = s.copy ∧ (State.countTaskRead s r).blob = s.blob ∧
    (State.countTaskRead s r).mem = s.mem ∧ (State.countTaskRead s r).arr = s.arr ∧
    (State.countTaskRead s r).streams = s.streams ∧ (State.countTaskRead s r).hub = s.hub ∧
    (State.countTaskRead s r).net = s.net ∧ (State.countTaskRead s r).fab = s.fab ∧
    (State.countTaskRead s r).isl = s.isl ∧ (State.countTaskRead s r).free = s.free ∧
    (State.countTaskRead s r).pending = s.pending := by
  simp [State.countTaskRead]

@[simp] theorem State.countTaskReads_frame (s : State) (w : Window) (die : ℕ) (c : Counts) (ranges : List (ℕ × ℕ)) :
    (State.countTaskReads s w die c ranges).1.cycle = s.cycle ∧
    (State.countTaskReads s w die c ranges).1.subTick = s.subTick ∧
    (State.countTaskReads s w die c ranges).1.copy = s.copy ∧
    (State.countTaskReads s w die c ranges).1.blob = s.blob ∧ (State.countTaskReads s w die c ranges).1.mem = s.mem ∧
    (State.countTaskReads s w die c ranges).1.arr = s.arr ∧
    (State.countTaskReads s w die c ranges).1.streams = s.streams ∧
    (State.countTaskReads s w die c ranges).1.hub = s.hub ∧ (State.countTaskReads s w die c ranges).1.net = s.net ∧
    (State.countTaskReads s w die c ranges).1.fab = s.fab ∧ (State.countTaskReads s w die c ranges).1.isl = s.isl ∧
    (State.countTaskReads s w die c ranges).1.free = s.free ∧
    (State.countTaskReads s w die c ranges).1.pending = s.pending := by
  unfold State.countTaskReads
  repeat' (first
    | with_reducible rfl | (simp; done) | split | apply And.intro | (intro _)
    | (with_reducible refine (foldl_frame _ _ ?_ _ _).trans ?_)
    | (with_reducible refine (foldl_frame_fst _ _ ?_ _ _).trans ?_))

@[simp] theorem State.taskWriteLine_frame (s : State) (w : Window) (die : ℕ) (a : ℕ) (en : List Bool) (data : List Byte) (poison : Bool) (c : Counts) :
    (State.taskWriteLine s w die a en data poison c).1.cycle = s.cycle ∧
    (State.taskWriteLine s w die a en data poison c).1.subTick = s.subTick ∧
    (State.taskWriteLine s w die a en data poison c).1.copy = s.copy ∧
    (State.taskWriteLine s w die a en data poison c).1.blob = s.blob ∧
    (State.taskWriteLine s w die a en data poison c).1.arr = s.arr ∧
    (State.taskWriteLine s w die a en data poison c).1.streams = s.streams ∧
    (State.taskWriteLine s w die a en data poison c).1.hub = s.hub ∧
    (State.taskWriteLine s w die a en data poison c).1.net = s.net ∧
    (State.taskWriteLine s w die a en data poison c).1.isl = s.isl ∧
    (State.taskWriteLine s w die a en data poison c).1.free = s.free ∧
    (State.taskWriteLine s w die a en data poison c).1.pending = s.pending := by
  unfold State.taskWriteLine
  repeat' (first
    | with_reducible rfl | (simp; done) | split | apply And.intro | (intro _)
    | (with_reducible refine (foldl_frame _ _ ?_ _ _).trans ?_)
    | (with_reducible refine (foldl_frame_fst _ _ ?_ _ _).trans ?_)
    | (with_reducible refine (foldl_frame_snd _ _ ?_ _ _).trans ?_)
    | (with_reducible refine (foldl_frame_mid _ _ ?_ _ _).trans ?_)
    | (with_reducible refine (foldl_frame_last2 _ _ ?_ _ _).trans ?_)
    | (with_reducible refine (foldl_frame_last3 _ _ ?_ _ _).trans ?_) | simp)

@[simp] theorem State.taskWrite_frame (s : State) (w : Window) (die : ℕ) (a : ℕ) (data : List Byte) (poison : Bool) (c : Counts) :
    (State.taskWrite s w die a data poison c).1.cycle = s.cycle ∧
    (State.taskWrite s w die a data poison c).1.subTick = s.subTick ∧
    (State.taskWrite s w die a data poison c).1.copy = s.copy ∧
    (State.taskWrite s w die a data poison c).1.blob = s.blob ∧
    (State.taskWrite s w die a data poison c).1.arr = s.arr ∧
    (State.taskWrite s w die a data poison c).1.streams = s.streams ∧
    (State.taskWrite s w die a data poison c).1.hub = s.hub ∧
    (State.taskWrite s w die a data poison c).1.net = s.net ∧
    (State.taskWrite s w die a data poison c).1.isl = s.isl ∧
    (State.taskWrite s w die a data poison c).1.free = s.free ∧
    (State.taskWrite s w die a data poison c).1.pending = s.pending := by
  unfold State.taskWrite
  repeat' (first
    | with_reducible rfl | (simp; done) | split | apply And.intro | (intro _)
    | (with_reducible refine (foldl_frame _ _ ?_ _ _).trans ?_)
    | (with_reducible refine (foldl_frame_fst _ _ ?_ _ _).trans ?_))

@[simp] theorem State.wake_frame (s : State) (acc : Access) :
    (State.wake s acc).cycle = s.cycle ∧ (State.wake s acc).subTick = s.subTick ∧ (State.wake s acc).obj = s.obj ∧
    (State.wake s acc).copy = s.copy ∧ (State.wake s acc).blob = s.blob ∧ (State.wake s acc).mem = s.mem ∧
    (State.wake s acc).arr = s.arr ∧ (State.wake s acc).streams = s.streams ∧ (State.wake s acc).hub = s.hub ∧
    (State.wake s acc).net = s.net ∧ (State.wake s acc).fab = s.fab ∧ (State.wake s acc).free = s.free ∧
    (State.wake s acc).pending = s.pending := by
  simp [State.wake]

/-- An access held or performed keeps what waking and performing it keep. -/
theorem State.access_keeps {β : Type} (P : State → β) (s : State) (acc : Access) (f : State → State)
    (hw : ∀ (u : State) (a : Access), P (u.wake a) = P u) (h : P (f s) = P s) : P (s.access acc f) = P s := by
  unfold State.access
  split
  · rfl
  · split
    · exact hw _ _
    · exact h

@[simp] theorem State.putVector_frame (s : State) (v : ℕ) (e : Vector) :
    (State.putVector s v e).cycle = s.cycle ∧ (State.putVector s v e).subTick = s.subTick ∧
    (State.putVector s v e).obj = s.obj ∧ (State.putVector s v e).copy = s.copy ∧
    (State.putVector s v e).blob = s.blob ∧ (State.putVector s v e).mem = s.mem ∧
    (State.putVector s v e).arr = s.arr ∧ (State.putVector s v e).streams = s.streams ∧
    (State.putVector s v e).net = s.net ∧ (State.putVector s v e).fab = s.fab ∧ (State.putVector s v e).isl = s.isl ∧
    (State.putVector s v e).free = s.free ∧ (State.putVector s v e).pending = s.pending := by
  simp [State.putVector]

@[simp] theorem State.wakeHost_frame (s : State) (e : Vector) :
    (State.wakeHost s e).cycle = s.cycle ∧ (State.wakeHost s e).subTick = s.subTick ∧
    (State.wakeHost s e).obj = s.obj ∧ (State.wakeHost s e).copy = s.copy ∧ (State.wakeHost s e).blob = s.blob ∧
    (State.wakeHost s e).mem = s.mem ∧ (State.wakeHost s e).arr = s.arr ∧ (State.wakeHost s e).streams = s.streams ∧
    (State.wakeHost s e).net = s.net ∧ (State.wakeHost s e).fab = s.fab ∧ (State.wakeHost s e).isl = s.isl ∧
    (State.wakeHost s e).free = s.free ∧ (State.wakeHost s e).pending = s.pending := by
  simp [State.wakeHost]

@[simp] theorem State.raiseVector_frame (s : State) (v : ℕ) :
    (State.raiseVector s v).cycle = s.cycle ∧ (State.raiseVector s v).subTick = s.subTick ∧
    (State.raiseVector s v).copy = s.copy ∧ (State.raiseVector s v).blob = s.blob ∧
    (State.raiseVector s v).mem = s.mem ∧ (State.raiseVector s v).arr = s.arr ∧
    (State.raiseVector s v).streams = s.streams ∧ (State.raiseVector s v).net = s.net ∧
    (State.raiseVector s v).fab = s.fab ∧ (State.raiseVector s v).free = s.free ∧
    (State.raiseVector s v).pending = s.pending := by
  simp [State.raiseVector]

@[simp] theorem State.putCount_frame (s : State) (k : ℕ) (v : ℕ) :
    (State.putCount s k v).cycle = s.cycle ∧ (State.putCount s k v).subTick = s.subTick ∧
    (State.putCount s k v).obj = s.obj ∧ (State.putCount s k v).copy = s.copy ∧ (State.putCount s k v).blob = s.blob ∧
    (State.putCount s k v).mem = s.mem ∧ (State.putCount s k v).arr = s.arr ∧
    (State.putCount s k v).streams = s.streams ∧ (State.putCount s k v).net = s.net ∧
    (State.putCount s k v).fab = s.fab ∧ (State.putCount s k v).isl = s.isl ∧ (State.putCount s k v).free = s.free ∧
    (State.putCount s k v).pending = s.pending := by
  simp [State.putCount]

@[simp] theorem State.addCount_frame (s : State) (k : ℕ) (v : ℕ) :
    (State.addCount s k v).cycle = s.cycle ∧ (State.addCount s k v).subTick = s.subTick ∧
    (State.addCount s k v).obj = s.obj ∧ (State.addCount s k v).copy = s.copy ∧ (State.addCount s k v).blob = s.blob ∧
    (State.addCount s k v).mem = s.mem ∧ (State.addCount s k v).arr = s.arr ∧
    (State.addCount s k v).streams = s.streams ∧ (State.addCount s k v).net = s.net ∧
    (State.addCount s k v).fab = s.fab ∧ (State.addCount s k v).isl = s.isl ∧ (State.addCount s k v).free = s.free ∧
    (State.addCount s k v).pending = s.pending := by
  simp [State.addCount]

@[simp] theorem State.syncAdd_frame (s : State) (k : ℕ) (v : ℕ) :
    (State.syncAdd s k v).cycle = s.cycle ∧ (State.syncAdd s k v).subTick = s.subTick ∧
    (State.syncAdd s k v).copy = s.copy ∧ (State.syncAdd s k v).blob = s.blob ∧ (State.syncAdd s k v).mem = s.mem ∧
    (State.syncAdd s k v).arr = s.arr ∧ (State.syncAdd s k v).streams = s.streams ∧
    (State.syncAdd s k v).net = s.net ∧ (State.syncAdd s k v).fab = s.fab ∧ (State.syncAdd s k v).isl = s.isl ∧
    (State.syncAdd s k v).free = s.free ∧ (State.syncAdd s k v).pending = s.pending := by
  simp [State.syncAdd]

@[simp] theorem State.syncSignal_frame (s : State) (fld : ℕ) :
    (State.syncSignal s fld).cycle = s.cycle ∧ (State.syncSignal s fld).subTick = s.subTick ∧
    (State.syncSignal s fld).copy = s.copy ∧ (State.syncSignal s fld).blob = s.blob ∧
    (State.syncSignal s fld).mem = s.mem ∧ (State.syncSignal s fld).arr = s.arr ∧
    (State.syncSignal s fld).streams = s.streams ∧ (State.syncSignal s fld).net = s.net ∧
    (State.syncSignal s fld).fab = s.fab ∧ (State.syncSignal s fld).isl = s.isl ∧
    (State.syncSignal s fld).free = s.free ∧ (State.syncSignal s fld).pending = s.pending := by
  simp [State.syncSignal]

@[simp] theorem State.putRing_frame (s : State) (n : ℕ) (r : Ring) :
    (State.putRing s n r).cycle = s.cycle ∧ (State.putRing s n r).subTick = s.subTick ∧
    (State.putRing s n r).obj = s.obj ∧ (State.putRing s n r).copy = s.copy ∧ (State.putRing s n r).blob = s.blob ∧
    (State.putRing s n r).mem = s.mem ∧ (State.putRing s n r).arr = s.arr ∧
    (State.putRing s n r).streams = s.streams ∧ (State.putRing s n r).net = s.net ∧
    (State.putRing s n r).fab = s.fab ∧ (State.putRing s n r).isl = s.isl ∧ (State.putRing s n r).free = s.free ∧
    (State.putRing s n r).pending = s.pending := by
  simp [State.putRing]

@[simp] theorem State.ringAdvance_frame (s : State) (n : ℕ) :
    (State.ringAdvance s n).cycle = s.cycle ∧ (State.ringAdvance s n).subTick = s.subTick ∧
    (State.ringAdvance s n).copy = s.copy ∧ (State.ringAdvance s n).blob = s.blob ∧
    (State.ringAdvance s n).mem = s.mem ∧ (State.ringAdvance s n).arr = s.arr ∧
    (State.ringAdvance s n).streams = s.streams ∧ (State.ringAdvance s n).net = s.net ∧
    (State.ringAdvance s n).fab = s.fab ∧ (State.ringAdvance s n).free = s.free ∧
    (State.ringAdvance s n).pending = s.pending := by
  simp [State.ringAdvance]

@[simp] theorem State.ringStore_frame (s : State) (n : ℕ) (entry : List Byte) :
    (State.ringStore s n entry).cycle = s.cycle ∧ (State.ringStore s n entry).subTick = s.subTick ∧
    (State.ringStore s n entry).copy = s.copy ∧ (State.ringStore s n entry).blob = s.blob ∧
    (State.ringStore s n entry).arr = s.arr ∧ (State.ringStore s n entry).streams = s.streams ∧
    (State.ringStore s n entry).net = s.net ∧ (State.ringStore s n entry).free = s.free ∧
    (State.ringStore s n entry).pending = s.pending := by
  simp [State.ringStore]

@[simp] theorem State.ringDrop_frame (s : State) (n : ℕ) :
    (State.ringDrop s n).cycle = s.cycle ∧ (State.ringDrop s n).subTick = s.subTick ∧
    (State.ringDrop s n).copy = s.copy ∧ (State.ringDrop s n).blob = s.blob ∧ (State.ringDrop s n).mem = s.mem ∧
    (State.ringDrop s n).arr = s.arr ∧ (State.ringDrop s n).streams = s.streams ∧ (State.ringDrop s n).net = s.net ∧
    (State.ringDrop s n).fab = s.fab ∧ (State.ringDrop s n).isl = s.isl ∧ (State.ringDrop s n).free = s.free ∧
    (State.ringDrop s n).pending = s.pending := by
  simp [State.ringDrop]

@[simp] theorem State.logWrite_frame (s : State) (evt : List Byte) :
    (State.logWrite s evt).cycle = s.cycle ∧ (State.logWrite s evt).subTick = s.subTick ∧
    (State.logWrite s evt).copy = s.copy ∧ (State.logWrite s evt).blob = s.blob ∧ (State.logWrite s evt).mem = s.mem ∧
    (State.logWrite s evt).arr = s.arr ∧ (State.logWrite s evt).streams = s.streams ∧
    (State.logWrite s evt).hub = s.hub ∧ (State.logWrite s evt).net = s.net ∧ (State.logWrite s evt).fab = s.fab ∧
    (State.logWrite s evt).free = s.free ∧ (State.logWrite s evt).pending = s.pending := by
  simp [State.logWrite]

@[simp] theorem State.eventPut_frame (s : State) (evt : List Byte) :
    (State.eventPut s evt).cycle = s.cycle ∧ (State.eventPut s evt).subTick = s.subTick ∧
    (State.eventPut s evt).copy = s.copy ∧ (State.eventPut s evt).blob = s.blob ∧ (State.eventPut s evt).arr = s.arr ∧
    (State.eventPut s evt).streams = s.streams ∧ (State.eventPut s evt).net = s.net ∧
    (State.eventPut s evt).free = s.free ∧ (State.eventPut s evt).pending = s.pending := by
  simp [State.eventPut]

@[simp] theorem State.sendUdp_frame (s : State) (dst : Source) (bytes : List Byte) :
    (State.sendUdp s dst bytes).cycle = s.cycle ∧ (State.sendUdp s dst bytes).subTick = s.subTick ∧
    (State.sendUdp s dst bytes).obj = s.obj ∧ (State.sendUdp s dst bytes).copy = s.copy ∧
    (State.sendUdp s dst bytes).blob = s.blob ∧ (State.sendUdp s dst bytes).mem = s.mem ∧
    (State.sendUdp s dst bytes).arr = s.arr ∧ (State.sendUdp s dst bytes).streams = s.streams ∧
    (State.sendUdp s dst bytes).hub = s.hub ∧ (State.sendUdp s dst bytes).net = s.net ∧
    (State.sendUdp s dst bytes).fab = s.fab ∧ (State.sendUdp s dst bytes).free = s.free ∧
    (State.sendUdp s dst bytes).pending = s.pending := by
  simp [State.sendUdp]

@[simp] theorem State.eventOut_frame (s : State) (evt : List Byte) :
    (State.eventOut s evt).cycle = s.cycle ∧ (State.eventOut s evt).subTick = s.subTick ∧
    (State.eventOut s evt).copy = s.copy ∧ (State.eventOut s evt).blob = s.blob ∧ (State.eventOut s evt).mem = s.mem ∧
    (State.eventOut s evt).arr = s.arr ∧ (State.eventOut s evt).streams = s.streams ∧
    (State.eventOut s evt).hub = s.hub ∧ (State.eventOut s evt).net = s.net ∧ (State.eventOut s evt).fab = s.fab ∧
    (State.eventOut s evt).free = s.free ∧ (State.eventOut s evt).pending = s.pending := by
  simp [State.eventOut]

@[simp] theorem State.eventSend_frame (s : State) (cls : ℕ) (evt : List Byte) :
    (State.eventSend s cls evt).cycle = s.cycle ∧ (State.eventSend s cls evt).subTick = s.subTick ∧
    (State.eventSend s cls evt).copy = s.copy ∧ (State.eventSend s cls evt).blob = s.blob ∧
    (State.eventSend s cls evt).mem = s.mem ∧ (State.eventSend s cls evt).arr = s.arr ∧
    (State.eventSend s cls evt).streams = s.streams ∧ (State.eventSend s cls evt).hub = s.hub ∧
    (State.eventSend s cls evt).net = s.net ∧ (State.eventSend s cls evt).fab = s.fab ∧
    (State.eventSend s cls evt).free = s.free ∧ (State.eventSend s cls evt).pending = s.pending := by
  simp [State.eventSend]

@[simp] theorem State.eventEmit_frame (s : State) (cls : ℕ) (code : ℕ) (unit : ℕ) (sub : ℕ) (merged : ℕ) (tick : ℕ) (data : List Byte) :
    (State.eventEmit s cls code unit sub merged tick data).cycle = s.cycle ∧
    (State.eventEmit s cls code unit sub merged tick data).subTick = s.subTick ∧
    (State.eventEmit s cls code unit sub merged tick data).copy = s.copy ∧
    (State.eventEmit s cls code unit sub merged tick data).blob = s.blob ∧
    (State.eventEmit s cls code unit sub merged tick data).arr = s.arr ∧
    (State.eventEmit s cls code unit sub merged tick data).streams = s.streams ∧
    (State.eventEmit s cls code unit sub merged tick data).net = s.net ∧
    (State.eventEmit s cls code unit sub merged tick data).free = s.free ∧
    (State.eventEmit s cls code unit sub merged tick data).pending = s.pending := by
  simp [State.eventEmit]

@[simp] theorem State.recordWrite_frame (s : State) (n : ℕ) (h : RecordHead) (c : Counts) (sync : ℕ) :
    (State.recordWrite s n h c sync).cycle = s.cycle ∧ (State.recordWrite s n h c sync).subTick = s.subTick ∧
    (State.recordWrite s n h c sync).copy = s.copy ∧ (State.recordWrite s n h c sync).blob = s.blob ∧
    (State.recordWrite s n h c sync).arr = s.arr ∧ (State.recordWrite s n h c sync).streams = s.streams ∧
    (State.recordWrite s n h c sync).net = s.net ∧ (State.recordWrite s n h c sync).free = s.free ∧
    (State.recordWrite s n h c sync).pending = s.pending := by
  simp [State.recordWrite]

@[simp] theorem State.flushHeldFuel_frame (x0 : ℕ) (x1 : State) (x2 : ℕ) :
    (State.flushHeldFuel x0 x1 x2).cycle = x1.cycle ∧ (State.flushHeldFuel x0 x1 x2).subTick = x1.subTick ∧
    (State.flushHeldFuel x0 x1 x2).copy = x1.copy ∧ (State.flushHeldFuel x0 x1 x2).blob = x1.blob ∧
    (State.flushHeldFuel x0 x1 x2).arr = x1.arr ∧ (State.flushHeldFuel x0 x1 x2).streams = x1.streams ∧
    (State.flushHeldFuel x0 x1 x2).net = x1.net ∧ (State.flushHeldFuel x0 x1 x2).free = x1.free ∧
    (State.flushHeldFuel x0 x1 x2).pending = x1.pending := by
  induction x0 generalizing x1 with
  | zero => simp [State.flushHeldFuel]
  | succ k ih =>
    unfold State.flushHeldFuel
    repeat' (first | with_reducible rfl | (simp [ih]; done) | split)

@[simp] theorem State.flushHeld_frame (s : State) (n : ℕ) :
    (State.flushHeld s n).cycle = s.cycle ∧ (State.flushHeld s n).subTick = s.subTick ∧
    (State.flushHeld s n).copy = s.copy ∧ (State.flushHeld s n).blob = s.blob ∧ (State.flushHeld s n).arr = s.arr ∧
    (State.flushHeld s n).streams = s.streams ∧ (State.flushHeld s n).net = s.net ∧
    (State.flushHeld s n).free = s.free ∧ (State.flushHeld s n).pending = s.pending := by
  simp [State.flushHeld]

@[simp] theorem State.ringReset_frame (s : State) (n : ℕ) :
    (State.ringReset s n).cycle = s.cycle ∧ (State.ringReset s n).subTick = s.subTick ∧
    (State.ringReset s n).copy = s.copy ∧ (State.ringReset s n).blob = s.blob ∧ (State.ringReset s n).arr = s.arr ∧
    (State.ringReset s n).streams = s.streams ∧ (State.ringReset s n).net = s.net ∧
    (State.ringReset s n).free = s.free ∧ (State.ringReset s n).pending = s.pending := by
  simp [State.ringReset]

@[simp] theorem State.ringCheck_frame (s : State) (n : ℕ) :
    (State.ringCheck s n).cycle = s.cycle ∧ (State.ringCheck s n).subTick = s.subTick ∧
    (State.ringCheck s n).copy = s.copy ∧ (State.ringCheck s n).blob = s.blob ∧ (State.ringCheck s n).arr = s.arr ∧
    (State.ringCheck s n).streams = s.streams ∧ (State.ringCheck s n).net = s.net ∧
    (State.ringCheck s n).free = s.free ∧ (State.ringCheck s n).pending = s.pending := by
  simp [State.ringCheck]

@[simp] theorem State.event_frame (s : State) (cls : ℕ) (code : ℕ) (unit : ℕ) (sub : ℕ) (data : List Byte) :
    (State.event s cls code unit sub data).cycle = s.cycle ∧
    (State.event s cls code unit sub data).subTick = s.subTick ∧
    (State.event s cls code unit sub data).copy = s.copy ∧ (State.event s cls code unit sub data).blob = s.blob ∧
    (State.event s cls code unit sub data).arr = s.arr ∧ (State.event s cls code unit sub data).streams = s.streams ∧
    (State.event s cls code unit sub data).net = s.net ∧ (State.event s cls code unit sub data).free = s.free ∧
    (State.event s cls code unit sub data).pending = s.pending := by
  unfold State.event
  repeat' (first
    | with_reducible rfl | (simp; done) | split | apply And.intro | (intro _)
    | (with_reducible refine (foldl_frame _ _ ?_ _ _).trans ?_)
    | (with_reducible refine (foldl_frame_fst _ _ ?_ _ _).trans ?_)
    | (with_reducible refine (foldl_frame_snd _ _ ?_ _ _).trans ?_)
    | (with_reducible refine (foldl_frame_mid _ _ ?_ _ _).trans ?_)
    | (with_reducible refine (foldl_frame_last2 _ _ ?_ _ _).trans ?_)
    | (with_reducible refine (foldl_frame_last3 _ _ ?_ _ _).trans ?_) | simp)

@[simp] theorem State.settle_frame (s : State) :
    (State.settle s).cycle = s.cycle ∧ (State.settle s).subTick = s.subTick ∧ (State.settle s).copy = s.copy ∧
    (State.settle s).blob = s.blob ∧ (State.settle s).arr = s.arr ∧ (State.settle s).streams = s.streams ∧
    (State.settle s).net = s.net ∧ (State.settle s).free = s.free ∧ (State.settle s).pending = s.pending := by
  unfold State.settle
  repeat' (first
    | with_reducible rfl | (simp; done) | split | apply And.intro | (intro _)
    | (with_reducible refine (foldl_frame _ _ ?_ _ _).trans ?_))

@[simp] theorem State.parityError_frame (s : State) (die : ℕ) (sub : ℕ) (addr : ℕ) :
    (State.parityError s die sub addr).cycle = s.cycle ∧ (State.parityError s die sub addr).subTick = s.subTick ∧
    (State.parityError s die sub addr).copy = s.copy ∧ (State.parityError s die sub addr).blob = s.blob ∧
    (State.parityError s die sub addr).arr = s.arr ∧ (State.parityError s die sub addr).streams = s.streams ∧
    (State.parityError s die sub addr).net = s.net ∧ (State.parityError s die sub addr).free = s.free ∧
    (State.parityError s die sub addr).pending = s.pending := by
  simp [State.parityError]

@[simp] theorem State.controlReset_frame (s : State) (die : ℕ) (sub : ℕ) (entry : ℕ) :
    (State.controlReset s die sub entry).cycle = s.cycle ∧ (State.controlReset s die sub entry).subTick = s.subTick ∧
    (State.controlReset s die sub entry).copy = s.copy ∧ (State.controlReset s die sub entry).blob = s.blob ∧
    (State.controlReset s die sub entry).arr = s.arr ∧ (State.controlReset s die sub entry).streams = s.streams ∧
    (State.controlReset s die sub entry).net = s.net ∧ (State.controlReset s die sub entry).free = s.free ∧
    (State.controlReset s die sub entry).pending = s.pending := by
  simp [State.controlReset]

@[simp] theorem State.complete_frame (s0 : State) (h : RecordHead) (c : Counts) (cring : ℕ) (sync : ℕ) :
    (State.complete s0 h c cring sync).cycle = s0.cycle ∧ (State.complete s0 h c cring sync).subTick = s0.subTick ∧
    (State.complete s0 h c cring sync).copy = s0.copy ∧ (State.complete s0 h c cring sync).blob = s0.blob ∧
    (State.complete s0 h c cring sync).arr = s0.arr ∧ (State.complete s0 h c cring sync).streams = s0.streams ∧
    (State.complete s0 h c cring sync).net = s0.net ∧ (State.complete s0 h c cring sync).free = s0.free ∧
    (State.complete s0 h c cring sync).pending = s0.pending := by
  simp [State.complete]

@[simp] theorem State.setReady_frame (s : State) (changes : List (ℕ × Bool)) :
    (State.setReady s changes).cycle = s.cycle ∧ (State.setReady s changes).subTick = s.subTick ∧
    (State.setReady s changes).copy = s.copy ∧ (State.setReady s changes).blob = s.blob ∧
    (State.setReady s changes).arr = s.arr ∧ (State.setReady s changes).streams = s.streams ∧
    (State.setReady s changes).net = s.net ∧ (State.setReady s changes).free = s.free ∧
    (State.setReady s changes).pending = s.pending := by
  simp [State.setReady]

@[simp] theorem State.applyWrite_frame (s : State) (w : Window) (c : Counts) (o : OutWrite) :
    (State.applyWrite s w c o).1.cycle = s.cycle ∧ (State.applyWrite s w c o).1.subTick = s.subTick ∧
    (State.applyWrite s w c o).1.copy = s.copy ∧ (State.applyWrite s w c o).1.blob = s.blob ∧
    (State.applyWrite s w c o).1.arr = s.arr ∧ (State.applyWrite s w c o).1.streams = s.streams ∧
    (State.applyWrite s w c o).1.hub = s.hub ∧ (State.applyWrite s w c o).1.net = s.net ∧
    (State.applyWrite s w c o).1.isl = s.isl ∧ (State.applyWrite s w c o).1.free = s.free ∧
    (State.applyWrite s w c o).1.pending = s.pending := by
  unfold State.applyWrite
  repeat' (first
    | with_reducible rfl | (simp; done) | split | apply And.intro | (intro _)
    | (with_reducible refine (foldl_frame _ _ ?_ _ _).trans ?_)
    | (with_reducible refine (foldl_frame_fst _ _ ?_ _ _).trans ?_))

@[simp] theorem OpEnv.transStep_frame (e : OpEnv) (acc : State × Counts) (j : ℕ) :
    (OpEnv.transStep e acc j).1.cycle = acc.1.cycle ∧ (OpEnv.transStep e acc j).1.subTick = acc.1.subTick ∧
    (OpEnv.transStep e acc j).1.copy = acc.1.copy ∧ (OpEnv.transStep e acc j).1.blob = acc.1.blob ∧
    (OpEnv.transStep e acc j).1.arr = acc.1.arr ∧ (OpEnv.transStep e acc j).1.streams = acc.1.streams ∧
    (OpEnv.transStep e acc j).1.hub = acc.1.hub ∧ (OpEnv.transStep e acc j).1.net = acc.1.net ∧
    (OpEnv.transStep e acc j).1.isl = acc.1.isl ∧ (OpEnv.transStep e acc j).1.free = acc.1.free ∧
    (OpEnv.transStep e acc j).1.pending = acc.1.pending := by
  simp [OpEnv.transStep]

@[simp] theorem OpEnv.transCopy_frame (e : OpEnv) (s : State) (c : Counts) :
    (OpEnv.transCopy e s c).1.cycle = s.cycle ∧ (OpEnv.transCopy e s c).1.subTick = s.subTick ∧
    (OpEnv.transCopy e s c).1.copy = s.copy ∧ (OpEnv.transCopy e s c).1.blob = s.blob ∧
    (OpEnv.transCopy e s c).1.arr = s.arr ∧ (OpEnv.transCopy e s c).1.streams = s.streams ∧
    (OpEnv.transCopy e s c).1.hub = s.hub ∧ (OpEnv.transCopy e s c).1.net = s.net ∧
    (OpEnv.transCopy e s c).1.isl = s.isl ∧ (OpEnv.transCopy e s c).1.free = s.free ∧
    (OpEnv.transCopy e s c).1.pending = s.pending := by
  unfold OpEnv.transCopy
  repeat' (first
    | with_reducible rfl | (simp; done) | split | apply And.intro | (intro _)
    | (with_reducible refine (foldl_frame _ _ ?_ _ _).trans ?_)
    | (with_reducible refine (foldl_frame_fst _ _ ?_ _ _).trans ?_))

@[simp] theorem State.putPort_frame (s : State) (p : ℕ) (x : Port) :
    (State.putPort s p x).cycle = s.cycle ∧ (State.putPort s p x).subTick = s.subTick ∧
    (State.putPort s p x).obj = s.obj ∧ (State.putPort s p x).copy = s.copy ∧ (State.putPort s p x).blob = s.blob ∧
    (State.putPort s p x).mem = s.mem ∧ (State.putPort s p x).arr = s.arr ∧
    (State.putPort s p x).streams = s.streams ∧ (State.putPort s p x).hub = s.hub ∧
    (State.putPort s p x).net = s.net ∧ (State.putPort s p x).isl = s.isl ∧ (State.putPort s p x).free = s.free ∧
    (State.putPort s p x).pending = s.pending := by
  simp [State.putPort]

@[simp] theorem State.sendFlit_frame (s : State) (p : ℕ) (kind : ℕ) (lane : ℕ) (seq : ℕ) (payload : List Byte) :
    (State.sendFlit s p kind lane seq payload).cycle = s.cycle ∧
    (State.sendFlit s p kind lane seq payload).subTick = s.subTick ∧
    (State.sendFlit s p kind lane seq payload).obj = s.obj ∧
    (State.sendFlit s p kind lane seq payload).copy = s.copy ∧
    (State.sendFlit s p kind lane seq payload).blob = s.blob ∧
    (State.sendFlit s p kind lane seq payload).mem = s.mem ∧ (State.sendFlit s p kind lane seq payload).arr = s.arr ∧
    (State.sendFlit s p kind lane seq payload).streams = s.streams ∧
    (State.sendFlit s p kind lane seq payload).hub = s.hub ∧ (State.sendFlit s p kind lane seq payload).net = s.net ∧
    (State.sendFlit s p kind lane seq payload).isl = s.isl ∧
    (State.sendFlit s p kind lane seq payload).free = s.free ∧
    (State.sendFlit s p kind lane seq payload).pending = s.pending := by
  simp [State.sendFlit]

@[simp] theorem State.setPort_frame (s : State) (p : ℕ) (st : ℕ) (lver : ℕ) (plevel : ℕ) (pport : ℕ) (peer : ℕ) :
    (State.setPort s p st lver plevel pport peer).cycle = s.cycle ∧
    (State.setPort s p st lver plevel pport peer).subTick = s.subTick ∧
    (State.setPort s p st lver plevel pport peer).copy = s.copy ∧
    (State.setPort s p st lver plevel pport peer).blob = s.blob ∧
    (State.setPort s p st lver plevel pport peer).arr = s.arr ∧
    (State.setPort s p st lver plevel pport peer).streams = s.streams ∧
    (State.setPort s p st lver plevel pport peer).net = s.net ∧
    (State.setPort s p st lver plevel pport peer).free = s.free ∧
    (State.setPort s p st lver plevel pport peer).pending = s.pending := by
  simp [State.setPort]

@[simp] theorem State.setPortState_frame (s : State) (p : ℕ) (st : ℕ) :
    (State.setPortState s p st).cycle = s.cycle ∧ (State.setPortState s p st).subTick = s.subTick ∧
    (State.setPortState s p st).copy = s.copy ∧ (State.setPortState s p st).blob = s.blob ∧
    (State.setPortState s p st).arr = s.arr ∧ (State.setPortState s p st).streams = s.streams ∧
    (State.setPortState s p st).net = s.net ∧ (State.setPortState s p st).free = s.free ∧
    (State.setPortState s p st).pending = s.pending := by
  simp [State.setPortState]

@[simp] theorem State.showPeer_frame (s : State) (p : ℕ) (id : ℕ) :
    (State.showPeer s p id).cycle = s.cycle ∧ (State.showPeer s p id).subTick = s.subTick ∧
    (State.showPeer s p id).copy = s.copy ∧ (State.showPeer s p id).blob = s.blob ∧
    (State.showPeer s p id).mem = s.mem ∧ (State.showPeer s p id).arr = s.arr ∧
    (State.showPeer s p id).streams = s.streams ∧ (State.showPeer s p id).hub = s.hub ∧
    (State.showPeer s p id).net = s.net ∧ (State.showPeer s p id).fab = s.fab ∧ (State.showPeer s p id).isl = s.isl ∧
    (State.showPeer s p id).free = s.free ∧ (State.showPeer s p id).pending = s.pending := by
  simp [State.showPeer]

@[simp] theorem State.showTwins_frame (s : State) :
    (State.showTwins s).cycle = s.cycle ∧ (State.showTwins s).subTick = s.subTick ∧
    (State.showTwins s).copy = s.copy ∧ (State.showTwins s).blob = s.blob ∧ (State.showTwins s).mem = s.mem ∧
    (State.showTwins s).arr = s.arr ∧ (State.showTwins s).streams = s.streams ∧ (State.showTwins s).hub = s.hub ∧
    (State.showTwins s).net = s.net ∧ (State.showTwins s).fab = s.fab ∧ (State.showTwins s).isl = s.isl ∧
    (State.showTwins s).free = s.free ∧ (State.showTwins s).pending = s.pending := by
  unfold State.showTwins
  repeat' (first
    | with_reducible rfl | (simp; done) | split | apply And.intro | (intro _)
    | (with_reducible refine (foldl_frame _ _ ?_ _ _).trans ?_))

@[simp] theorem State.checkTwinLink_frame (s : State) :
    (State.checkTwinLink s).cycle = s.cycle ∧ (State.checkTwinLink s).subTick = s.subTick ∧
    (State.checkTwinLink s).copy = s.copy ∧ (State.checkTwinLink s).blob = s.blob ∧
    (State.checkTwinLink s).arr = s.arr ∧ (State.checkTwinLink s).streams = s.streams ∧
    (State.checkTwinLink s).net = s.net ∧ (State.checkTwinLink s).free = s.free ∧
    (State.checkTwinLink s).pending = s.pending := by
  simp [State.checkTwinLink]

@[simp] theorem State.enqueue_frame (s : State) (p : ℕ) (m : Msg) :
    (State.enqueue s p m).cycle = s.cycle ∧ (State.enqueue s p m).subTick = s.subTick ∧
    (State.enqueue s p m).obj = s.obj ∧ (State.enqueue s p m).copy = s.copy ∧ (State.enqueue s p m).blob = s.blob ∧
    (State.enqueue s p m).mem = s.mem ∧ (State.enqueue s p m).arr = s.arr ∧
    (State.enqueue s p m).streams = s.streams ∧ (State.enqueue s p m).hub = s.hub ∧
    (State.enqueue s p m).net = s.net ∧ (State.enqueue s p m).isl = s.isl ∧ (State.enqueue s p m).free = s.free ∧
    (State.enqueue s p m).pending = s.pending := by
  simp [State.enqueue]

@[simp] theorem State.deliver_frame (s : State) (ingress : Option ℕ) (m : Msg) :
    (State.deliver s ingress m).cycle = s.cycle ∧ (State.deliver s ingress m).subTick = s.subTick ∧
    (State.deliver s ingress m).obj = s.obj ∧ (State.deliver s ingress m).copy = s.copy ∧
    (State.deliver s ingress m).blob = s.blob ∧ (State.deliver s ingress m).mem = s.mem ∧
    (State.deliver s ingress m).arr = s.arr ∧ (State.deliver s ingress m).streams = s.streams ∧
    (State.deliver s ingress m).hub = s.hub ∧ (State.deliver s ingress m).net = s.net ∧
    (State.deliver s ingress m).isl = s.isl ∧ (State.deliver s ingress m).free = s.free ∧
    (State.deliver s ingress m).pending = s.pending := by
  simp [State.deliver]

@[simp] theorem State.leave_getD_frame (s : State) (p : Nat) (m : Msg) (b : Bool) (u : State) :
    ((s.leave p m b).getD u).cycle = (if s.portLinked p then s.cycle else u.cycle) ∧
    ((s.leave p m b).getD u).subTick = (if s.portLinked p then s.subTick else u.subTick) ∧
    ((s.leave p m b).getD u).obj = (if s.portLinked p then s.obj else u.obj) ∧
    ((s.leave p m b).getD u).copy = (if s.portLinked p then s.copy else u.copy) ∧
    ((s.leave p m b).getD u).blob = (if s.portLinked p then s.blob else u.blob) ∧
    ((s.leave p m b).getD u).mem = (if s.portLinked p then s.mem else u.mem) ∧
    ((s.leave p m b).getD u).arr = (if s.portLinked p then s.arr else u.arr) ∧
    ((s.leave p m b).getD u).streams = (if s.portLinked p then s.streams else u.streams) ∧
    ((s.leave p m b).getD u).hub = (if s.portLinked p then s.hub else u.hub) ∧
    ((s.leave p m b).getD u).net = (if s.portLinked p then s.net else u.net) ∧
    ((s.leave p m b).getD u).isl = (if s.portLinked p then s.isl else u.isl) ∧
    ((s.leave p m b).getD u).free = (if s.portLinked p then s.free else u.free) ∧
    ((s.leave p m b).getD u).pending = (if s.portLinked p then s.pending else u.pending) := by
  unfold State.leave
  split <;> simp [*]

@[simp] theorem State.sendResponse_frame (s : State) (m : Msg) :
    (State.sendResponse s m).cycle = s.cycle ∧ (State.sendResponse s m).subTick = s.subTick ∧
    (State.sendResponse s m).obj = s.obj ∧ (State.sendResponse s m).copy = s.copy ∧
    (State.sendResponse s m).blob = s.blob ∧ (State.sendResponse s m).mem = s.mem ∧
    (State.sendResponse s m).arr = s.arr ∧ (State.sendResponse s m).streams = s.streams ∧
    (State.sendResponse s m).hub = s.hub ∧ (State.sendResponse s m).net = s.net ∧
    (State.sendResponse s m).isl = s.isl ∧ (State.sendResponse s m).free = s.free ∧
    (State.sendResponse s m).pending = s.pending := by
  unfold State.sendResponse; split <;> simp

@[simp] theorem State.discardMsg_frame (s : State) (m : Msg) :
    (State.discardMsg s m).cycle = s.cycle ∧ (State.discardMsg s m).subTick = s.subTick ∧
    (State.discardMsg s m).copy = s.copy ∧ (State.discardMsg s m).blob = s.blob ∧ (State.discardMsg s m).mem = s.mem ∧
    (State.discardMsg s m).arr = s.arr ∧ (State.discardMsg s m).streams = s.streams ∧
    (State.discardMsg s m).hub = s.hub ∧ (State.discardMsg s m).net = s.net ∧ (State.discardMsg s m).isl = s.isl ∧
    (State.discardMsg s m).free = s.free ∧ (State.discardMsg s m).pending = s.pending := by
  unfold State.discardMsg
  repeat' (first
    | with_reducible rfl | (simp; done) | split | apply And.intro | (intro _)
    | (with_reducible refine (foldl_frame _ _ ?_ _ _).trans ?_))

@[simp] theorem State.sendMsg_frame (s : State) (m : Msg) :
    (State.sendMsg s m).cycle = s.cycle ∧ (State.sendMsg s m).subTick = s.subTick ∧
    (State.sendMsg s m).copy = s.copy ∧ (State.sendMsg s m).blob = s.blob ∧ (State.sendMsg s m).mem = s.mem ∧
    (State.sendMsg s m).arr = s.arr ∧ (State.sendMsg s m).streams = s.streams ∧ (State.sendMsg s m).hub = s.hub ∧
    (State.sendMsg s m).net = s.net ∧ (State.sendMsg s m).isl = s.isl ∧ (State.sendMsg s m).free = s.free ∧
    (State.sendMsg s m).pending = s.pending := by
  unfold State.sendMsg
  repeat' (first
    | with_reducible rfl | (simp; done) | split | apply And.intro | (intro _)
    | (with_reducible refine (foldl_frame _ _ ?_ _ _).trans ?_))

@[simp] theorem State.feedMirror_frame (s : State) (p : ℕ) :
    (State.feedMirror s p).cycle = s.cycle ∧ (State.feedMirror s p).subTick = s.subTick ∧
    (State.feedMirror s p).obj = s.obj ∧ (State.feedMirror s p).copy = s.copy ∧ (State.feedMirror s p).blob = s.blob ∧
    (State.feedMirror s p).mem = s.mem ∧ (State.feedMirror s p).arr = s.arr ∧
    (State.feedMirror s p).streams = s.streams ∧ (State.feedMirror s p).hub = s.hub ∧
    (State.feedMirror s p).net = s.net ∧ (State.feedMirror s p).isl = s.isl ∧ (State.feedMirror s p).free = s.free ∧
    (State.feedMirror s p).pending = s.pending := by
  unfold State.feedMirror
  repeat' (first
    | with_reducible rfl | (simp; done) | split | apply And.intro | (intro _)
    | (with_reducible refine (foldl_frame _ _ ?_ _ _).trans ?_))

@[simp] theorem State.sendLane_frame (s : State) (p : ℕ) (l : ℕ) :
    (State.sendLane s p l).cycle = s.cycle ∧ (State.sendLane s p l).subTick = s.subTick ∧
    (State.sendLane s p l).copy = s.copy ∧ (State.sendLane s p l).blob = s.blob ∧ (State.sendLane s p l).mem = s.mem ∧
    (State.sendLane s p l).arr = s.arr ∧ (State.sendLane s p l).streams = s.streams ∧
    (State.sendLane s p l).hub = s.hub ∧ (State.sendLane s p l).net = s.net ∧ (State.sendLane s p l).isl = s.isl ∧
    (State.sendLane s p l).free = s.free ∧ (State.sendLane s p l).pending = s.pending := by
  unfold State.sendLane
  repeat' (first
    | with_reducible rfl | (simp; done) | split | apply And.intro | (intro _)
    | (with_reducible refine (foldl_frame _ _ ?_ _ _).trans ?_)
    | (with_reducible refine (foldl_frame_fst _ _ ?_ _ _).trans ?_)
    | (with_reducible refine (foldl_frame_snd _ _ ?_ _ _).trans ?_)
    | (with_reducible refine (foldl_frame_mid _ _ ?_ _ _).trans ?_)
    | (with_reducible refine (foldl_frame_last2 _ _ ?_ _ _).trans ?_)
    | (with_reducible refine (foldl_frame_last3 _ _ ?_ _ _).trans ?_) | simp)

@[simp] theorem State.sendData_frame (s : State) (p : ℕ) (l : ℕ) :
    (State.sendData s p l).cycle = s.cycle ∧ (State.sendData s p l).subTick = s.subTick ∧
    (State.sendData s p l).copy = s.copy ∧ (State.sendData s p l).blob = s.blob ∧ (State.sendData s p l).mem = s.mem ∧
    (State.sendData s p l).arr = s.arr ∧ (State.sendData s p l).streams = s.streams ∧
    (State.sendData s p l).hub = s.hub ∧ (State.sendData s p l).net = s.net ∧ (State.sendData s p l).isl = s.isl ∧
    (State.sendData s p l).free = s.free ∧ (State.sendData s p l).pending = s.pending := by
  simp [State.sendData]

@[simp] theorem State.replayPort_frame (s : State) (p : ℕ) :
    (State.replayPort s p).cycle = s.cycle ∧ (State.replayPort s p).subTick = s.subTick ∧
    (State.replayPort s p).copy = s.copy ∧ (State.replayPort s p).blob = s.blob ∧ (State.replayPort s p).arr = s.arr ∧
    (State.replayPort s p).streams = s.streams ∧ (State.replayPort s p).net = s.net ∧
    (State.replayPort s p).free = s.free ∧ (State.replayPort s p).pending = s.pending := by
  unfold State.replayPort
  repeat' (first
    | with_reducible rfl | (simp; done) | split | apply And.intro | (intro _)
    | (with_reducible refine (foldl_frame _ _ ?_ _ _).trans ?_)
    | (with_reducible refine (foldl_frame_fst _ _ ?_ _ _).trans ?_)
    | (with_reducible refine (foldl_frame_snd _ _ ?_ _ _).trans ?_)
    | (with_reducible refine (foldl_frame_mid _ _ ?_ _ _).trans ?_)
    | (with_reducible refine (foldl_frame_last2 _ _ ?_ _ _).trans ?_)
    | (with_reducible refine (foldl_frame_last3 _ _ ?_ _ _).trans ?_) | simp)

@[simp] theorem State.portDown_frame (s : State) (p : ℕ) (st : ℕ) :
    (State.portDown s p st).cycle = s.cycle ∧ (State.portDown s p st).subTick = s.subTick ∧
    (State.portDown s p st).copy = s.copy ∧ (State.portDown s p st).blob = s.blob ∧
    (State.portDown s p st).arr = s.arr ∧ (State.portDown s p st).streams = s.streams ∧
    (State.portDown s p st).net = s.net ∧ (State.portDown s p st).free = s.free ∧
    (State.portDown s p st).pending = s.pending := by
  unfold State.portDown
  repeat' (first
    | with_reducible rfl | (simp; done) | split | apply And.intro | (intro _)
    | (with_reducible refine (foldl_frame _ _ ?_ _ _).trans ?_)
    | (with_reducible refine (foldl_frame_fst _ _ ?_ _ _).trans ?_)
    | (with_reducible refine (foldl_frame_snd _ _ ?_ _ _).trans ?_)
    | (with_reducible refine (foldl_frame_mid _ _ ?_ _ _).trans ?_)
    | (with_reducible refine (foldl_frame_last2 _ _ ?_ _ _).trans ?_)
    | (with_reducible refine (foldl_frame_last3 _ _ ?_ _ _).trans ?_) | simp)

@[simp] theorem State.putGroup_frame (s : State) (g : ℕ) (x : McGroup) :
    (State.putGroup s g x).cycle = s.cycle ∧ (State.putGroup s g x).subTick = s.subTick ∧
    (State.putGroup s g x).obj = s.obj ∧ (State.putGroup s g x).copy = s.copy ∧ (State.putGroup s g x).blob = s.blob ∧
    (State.putGroup s g x).mem = s.mem ∧ (State.putGroup s g x).arr = s.arr ∧
    (State.putGroup s g x).streams = s.streams ∧ (State.putGroup s g x).hub = s.hub ∧
    (State.putGroup s g x).net = s.net ∧ (State.putGroup s g x).isl = s.isl ∧ (State.putGroup s g x).free = s.free ∧
    (State.putGroup s g x).pending = s.pending := by
  simp [State.putGroup]

@[simp] theorem State.mcCount_frame (s : State) (g : ℕ) :
    (State.mcCount s g).cycle = s.cycle ∧ (State.mcCount s g).subTick = s.subTick ∧
    (State.mcCount s g).copy = s.copy ∧ (State.mcCount s g).blob = s.blob ∧ (State.mcCount s g).mem = s.mem ∧
    (State.mcCount s g).arr = s.arr ∧ (State.mcCount s g).streams = s.streams ∧ (State.mcCount s g).hub = s.hub ∧
    (State.mcCount s g).net = s.net ∧ (State.mcCount s g).fab = s.fab ∧ (State.mcCount s g).isl = s.isl ∧
    (State.mcCount s g).free = s.free ∧ (State.mcCount s g).pending = s.pending := by
  simp [State.mcCount]

@[simp] theorem State.replicate_frame (s : State) (g : ℕ) (m : Msg) (forwarded : Bool) :
    (State.replicate s g m forwarded).cycle = s.cycle ∧ (State.replicate s g m forwarded).subTick = s.subTick ∧
    (State.replicate s g m forwarded).obj = s.obj ∧ (State.replicate s g m forwarded).copy = s.copy ∧
    (State.replicate s g m forwarded).blob = s.blob ∧ (State.replicate s g m forwarded).mem = s.mem ∧
    (State.replicate s g m forwarded).arr = s.arr ∧ (State.replicate s g m forwarded).streams = s.streams ∧
    (State.replicate s g m forwarded).hub = s.hub ∧ (State.replicate s g m forwarded).net = s.net ∧
    (State.replicate s g m forwarded).isl = s.isl ∧ (State.replicate s g m forwarded).free = s.free ∧
    (State.replicate s g m forwarded).pending = s.pending := by
  unfold State.replicate
  repeat' (first
    | with_reducible rfl | (simp; done) | split | apply And.intro | (intro _)
    | (with_reducible refine (foldl_frame _ _ ?_ _ _).trans ?_))

@[simp] theorem State.mcShed_frame (s : State) (g : ℕ) (id : ℕ) :
    (State.mcShed s g id).cycle = s.cycle ∧ (State.mcShed s g id).subTick = s.subTick ∧
    (State.mcShed s g id).copy = s.copy ∧ (State.mcShed s g id).blob = s.blob ∧ (State.mcShed s g id).arr = s.arr ∧
    (State.mcShed s g id).streams = s.streams ∧ (State.mcShed s g id).net = s.net ∧
    (State.mcShed s g id).free = s.free ∧ (State.mcShed s g id).pending = s.pending := by
  simp [State.mcShed]

@[simp] theorem State.mcPumpFuel_frame (x0 : ℕ) (x1 : State) (x2 : ℕ) :
    (State.mcPumpFuel x0 x1 x2).cycle = x1.cycle ∧ (State.mcPumpFuel x0 x1 x2).subTick = x1.subTick ∧
    (State.mcPumpFuel x0 x1 x2).copy = x1.copy ∧ (State.mcPumpFuel x0 x1 x2).blob = x1.blob ∧
    (State.mcPumpFuel x0 x1 x2).arr = x1.arr ∧ (State.mcPumpFuel x0 x1 x2).streams = x1.streams ∧
    (State.mcPumpFuel x0 x1 x2).net = x1.net ∧ (State.mcPumpFuel x0 x1 x2).free = x1.free ∧
    (State.mcPumpFuel x0 x1 x2).pending = x1.pending := by
  induction x0 generalizing x1 x2 with
  | zero => simp [State.mcPumpFuel]
  | succ k ih =>
    unfold State.mcPumpFuel
    repeat' (first | with_reducible rfl | (simp [ih]; done) | split | apply And.intro | intro _ | (with_reducible refine (foldl_frame _ _ ?_ _ _).trans ?_) | simp [ih])

@[simp] theorem State.mcPump_frame (s : State) (g : ℕ) :
    (State.mcPump s g).cycle = s.cycle ∧ (State.mcPump s g).subTick = s.subTick ∧ (State.mcPump s g).copy = s.copy ∧
    (State.mcPump s g).blob = s.blob ∧ (State.mcPump s g).arr = s.arr ∧ (State.mcPump s g).streams = s.streams ∧
    (State.mcPump s g).net = s.net ∧ (State.mcPump s g).free = s.free ∧ (State.mcPump s g).pending = s.pending := by
  simp [State.mcPump]

@[simp] theorem State.mcPlace_frame (s : State) (g : ℕ) (x : ℕ) (data : List Byte) (poison : List Bool) :
    (State.mcPlace s g x data poison).cycle = s.cycle ∧ (State.mcPlace s g x data poison).subTick = s.subTick ∧
    (State.mcPlace s g x data poison).copy = s.copy ∧ (State.mcPlace s g x data poison).blob = s.blob ∧
    (State.mcPlace s g x data poison).arr = s.arr ∧ (State.mcPlace s g x data poison).streams = s.streams ∧
    (State.mcPlace s g x data poison).hub = s.hub ∧ (State.mcPlace s g x data poison).net = s.net ∧
    (State.mcPlace s g x data poison).isl = s.isl ∧ (State.mcPlace s g x data poison).free = s.free ∧
    (State.mcPlace s g x data poison).pending = s.pending := by
  unfold State.mcPlace
  repeat' (first
    | with_reducible rfl | (simp; done) | split | apply And.intro | (intro _)
    | (with_reducible refine (foldl_frame _ _ ?_ _ _).trans ?_)
    | (with_reducible refine (foldl_frame_fst _ _ ?_ _ _).trans ?_)
    | (with_reducible refine (foldl_frame_snd _ _ ?_ _ _).trans ?_)
    | (with_reducible refine (foldl_frame_mid _ _ ?_ _ _).trans ?_)
    | (with_reducible refine (foldl_frame_last2 _ _ ?_ _ _).trans ?_)
    | (with_reducible refine (foldl_frame_last3 _ _ ?_ _ _).trans ?_) | simp)

@[simp] theorem State.mcPoison_frame (s : State) (g : ℕ) :
    (State.mcPoison s g).cycle = s.cycle ∧ (State.mcPoison s g).subTick = s.subTick ∧
    (State.mcPoison s g).copy = s.copy ∧ (State.mcPoison s g).blob = s.blob ∧ (State.mcPoison s g).arr = s.arr ∧
    (State.mcPoison s g).streams = s.streams ∧ (State.mcPoison s g).hub = s.hub ∧ (State.mcPoison s g).net = s.net ∧
    (State.mcPoison s g).isl = s.isl ∧ (State.mcPoison s g).pending = s.pending := by
  simp [State.mcPoison]

end Sys2Proof.Machine
end

