-- ==== Sys2Proof/Laws/FramesArray.lean ====
section
/-!
SUPPORT. What the array, the streams and the fence leave untouched: for each operation, the components of the state it
does not write, once, so that a proof about a command does not unfold the operations the command is made of.
Modules in order: Array, StreamOps, Net, Fence, Schedule, Accum, Hbm, Tier, Issue, Streams.
-/

namespace Sys2Proof.Machine

@[simp] theorem State.putOps_frame (s : State) (l : List OpCtx) :
    (State.putOps s l).cycle = s.cycle ∧ (State.putOps s l).subTick = s.subTick ∧ (State.putOps s l).obj = s.obj ∧
    (State.putOps s l).copy = s.copy ∧ (State.putOps s l).blob = s.blob ∧ (State.putOps s l).mem = s.mem ∧
    (State.putOps s l).streams = s.streams ∧ (State.putOps s l).hub = s.hub ∧ (State.putOps s l).net = s.net ∧
    (State.putOps s l).fab = s.fab ∧ (State.putOps s l).isl = s.isl ∧ (State.putOps s l).free = s.free ∧
    (State.putOps s l).pending = s.pending := by
  simp [State.putOps]

@[simp] theorem State.onOp_frame (s : State) (i : ℕ) (f : OpCtx → OpCtx) :
    (State.onOp s i f).cycle = s.cycle ∧ (State.onOp s i f).subTick = s.subTick ∧ (State.onOp s i f).obj = s.obj ∧
    (State.onOp s i f).copy = s.copy ∧ (State.onOp s i f).blob = s.blob ∧ (State.onOp s i f).mem = s.mem ∧
    (State.onOp s i f).streams = s.streams ∧ (State.onOp s i f).hub = s.hub ∧ (State.onOp s i f).net = s.net ∧
    (State.onOp s i f).fab = s.fab ∧ (State.onOp s i f).isl = s.isl ∧ (State.onOp s i f).free = s.free ∧
    (State.onOp s i f).pending = s.pending := by
  unfold State.onOp; split <;> simp

@[simp] theorem State.opCount_frame (s : State) (i : ℕ) (f : Counts → Counts) :
    (State.opCount s i f).cycle = s.cycle ∧ (State.opCount s i f).subTick = s.subTick ∧
    (State.opCount s i f).obj = s.obj ∧ (State.opCount s i f).copy = s.copy ∧ (State.opCount s i f).blob = s.blob ∧
    (State.opCount s i f).mem = s.mem ∧ (State.opCount s i f).streams = s.streams ∧
    (State.opCount s i f).hub = s.hub ∧ (State.opCount s i f).net = s.net ∧ (State.opCount s i f).fab = s.fab ∧
    (State.opCount s i f).isl = s.isl ∧ (State.opCount s i f).free = s.free ∧
    (State.opCount s i f).pending = s.pending := by
  simp [State.opCount]

@[simp] theorem State.putHold_frame (s : State) (d : ℕ) (h : DieHold) :
    (State.putHold s d h).cycle = s.cycle ∧ (State.putHold s d h).subTick = s.subTick ∧
    (State.putHold s d h).obj = s.obj ∧ (State.putHold s d h).copy = s.copy ∧ (State.putHold s d h).blob = s.blob ∧
    (State.putHold s d h).mem = s.mem ∧ (State.putHold s d h).streams = s.streams ∧
    (State.putHold s d h).hub = s.hub ∧ (State.putHold s d h).net = s.net ∧ (State.putHold s d h).fab = s.fab ∧
    (State.putHold s d h).isl = s.isl ∧ (State.putHold s d h).free = s.free ∧
    (State.putHold s d h).pending = s.pending := by
  simp [State.putHold]

@[simp] theorem State.eccHold_frame (s : State) (d : ℕ) :
    (State.eccHold s d).cycle = s.cycle ∧ (State.eccHold s d).subTick = s.subTick ∧
    (State.eccHold s d).copy = s.copy ∧ (State.eccHold s d).blob = s.blob ∧ (State.eccHold s d).mem = s.mem ∧
    (State.eccHold s d).streams = s.streams ∧ (State.eccHold s d).hub = s.hub ∧ (State.eccHold s d).net = s.net ∧
    (State.eccHold s d).fab = s.fab ∧ (State.eccHold s d).isl = s.isl ∧ (State.eccHold s d).free = s.free ∧
    (State.eccHold s d).pending = s.pending := by
  simp [State.eccHold]

@[simp] theorem State.supplyHold_frame (s : State) (d : ℕ) :
    (State.supplyHold s d).cycle = s.cycle ∧ (State.supplyHold s d).subTick = s.subTick ∧
    (State.supplyHold s d).copy = s.copy ∧ (State.supplyHold s d).blob = s.blob ∧ (State.supplyHold s d).mem = s.mem ∧
    (State.supplyHold s d).streams = s.streams ∧ (State.supplyHold s d).hub = s.hub ∧
    (State.supplyHold s d).net = s.net ∧ (State.supplyHold s d).fab = s.fab ∧ (State.supplyHold s d).isl = s.isl ∧
    (State.supplyHold s d).free = s.free ∧ (State.supplyHold s d).pending = s.pending := by
  simp [State.supplyHold]

@[simp] theorem State.opReads_frame (s : State) (i : ℕ) (d : ℕ) (ranges : List (ℕ × ℕ)) :
    (State.opReads s i d ranges).cycle = s.cycle ∧ (State.opReads s i d ranges).subTick = s.subTick ∧
    (State.opReads s i d ranges).copy = s.copy ∧ (State.opReads s i d ranges).blob = s.blob ∧
    (State.opReads s i d ranges).mem = s.mem ∧ (State.opReads s i d ranges).streams = s.streams ∧
    (State.opReads s i d ranges).hub = s.hub ∧ (State.opReads s i d ranges).net = s.net ∧
    (State.opReads s i d ranges).fab = s.fab ∧ (State.opReads s i d ranges).isl = s.isl ∧
    (State.opReads s i d ranges).free = s.free ∧ (State.opReads s i d ranges).pending = s.pending := by
  unfold State.opReads
  repeat' (first
    | with_reducible rfl | (simp; done) | split | apply And.intro | (intro _)
    | (with_reducible refine (foldl_frame _ _ ?_ _ _).trans ?_))

@[simp] theorem State.controlPoison_frame (s : State) (unit : ℕ) (sub : ℕ) (addr : ℕ) (tag : ℕ) :
    (State.controlPoison s unit sub addr tag).cycle = s.cycle ∧
    (State.controlPoison s unit sub addr tag).subTick = s.subTick ∧
    (State.controlPoison s unit sub addr tag).copy = s.copy ∧
    (State.controlPoison s unit sub addr tag).blob = s.blob ∧ (State.controlPoison s unit sub addr tag).arr = s.arr ∧
    (State.controlPoison s unit sub addr tag).streams = s.streams ∧
    (State.controlPoison s unit sub addr tag).net = s.net ∧ (State.controlPoison s unit sub addr tag).free = s.free ∧
    (State.controlPoison s unit sub addr tag).pending = s.pending := by
  simp [State.controlPoison]

@[simp] theorem State.countWords_frame (s : State) (corrected : ℕ) (bad : Bool) :
    (State.countWords s corrected bad).cycle = s.cycle ∧ (State.countWords s corrected bad).subTick = s.subTick ∧
    (State.countWords s corrected bad).copy = s.copy ∧ (State.countWords s corrected bad).blob = s.blob ∧
    (State.countWords s corrected bad).mem = s.mem ∧ (State.countWords s corrected bad).arr = s.arr ∧
    (State.countWords s corrected bad).streams = s.streams ∧ (State.countWords s corrected bad).hub = s.hub ∧
    (State.countWords s corrected bad).net = s.net ∧ (State.countWords s corrected bad).fab = s.fab ∧
    (State.countWords s corrected bad).isl = s.isl ∧ (State.countWords s corrected bad).free = s.free ∧
    (State.countWords s corrected bad).pending = s.pending := by
  simp [State.countWords]

@[simp] theorem State.accApply_frame (s : State) (i : ℕ) (d : ℕ) (req : AccReq) (errs : List WordErr) :
    (State.accApply s i d req errs).cycle = s.cycle ∧ (State.accApply s i d req errs).subTick = s.subTick ∧
    (State.accApply s i d req errs).copy = s.copy ∧ (State.accApply s i d req errs).blob = s.blob ∧
    (State.accApply s i d req errs).mem = s.mem ∧ (State.accApply s i d req errs).streams = s.streams ∧
    (State.accApply s i d req errs).hub = s.hub ∧ (State.accApply s i d req errs).net = s.net ∧
    (State.accApply s i d req errs).fab = s.fab ∧ (State.accApply s i d req errs).isl = s.isl ∧
    (State.accApply s i d req errs).free = s.free ∧ (State.accApply s i d req errs).pending = s.pending := by
  unfold State.accApply; split <;> simp

@[simp] theorem State.putFlush_frame (s : State) (d : ℕ) (r : ℕ) (f : Flush) :
    (State.putFlush s d r f).cycle = s.cycle ∧ (State.putFlush s d r f).subTick = s.subTick ∧
    (State.putFlush s d r f).obj = s.obj ∧ (State.putFlush s d r f).copy = s.copy ∧
    (State.putFlush s d r f).blob = s.blob ∧ (State.putFlush s d r f).mem = s.mem ∧
    (State.putFlush s d r f).streams = s.streams ∧ (State.putFlush s d r f).hub = s.hub ∧
    (State.putFlush s d r f).net = s.net ∧ (State.putFlush s d r f).fab = s.fab ∧
    (State.putFlush s d r f).isl = s.isl ∧ (State.putFlush s d r f).free = s.free ∧
    (State.putFlush s d r f).pending = s.pending := by
  simp [State.putFlush]

@[simp] theorem State.putConf_frame (s : State) (d : ℕ) (b : ℕ) (l : List AccReq) :
    (State.putConf s d b l).cycle = s.cycle ∧ (State.putConf s d b l).subTick = s.subTick ∧
    (State.putConf s d b l).obj = s.obj ∧ (State.putConf s d b l).copy = s.copy ∧
    (State.putConf s d b l).blob = s.blob ∧ (State.putConf s d b l).mem = s.mem ∧
    (State.putConf s d b l).streams = s.streams ∧ (State.putConf s d b l).hub = s.hub ∧
    (State.putConf s d b l).net = s.net ∧ (State.putConf s d b l).fab = s.fab ∧ (State.putConf s d b l).isl = s.isl ∧
    (State.putConf s d b l).free = s.free ∧ (State.putConf s d b l).pending = s.pending := by
  simp [State.putConf]

@[simp] theorem State.drainAcc_frame (s : State) (i : ℕ) (d : ℕ) :
    (State.drainAcc s i d).cycle = s.cycle ∧ (State.drainAcc s i d).subTick = s.subTick ∧
    (State.drainAcc s i d).copy = s.copy ∧ (State.drainAcc s i d).blob = s.blob ∧ (State.drainAcc s i d).mem = s.mem ∧
    (State.drainAcc s i d).streams = s.streams ∧ (State.drainAcc s i d).hub = s.hub ∧
    (State.drainAcc s i d).net = s.net ∧ (State.drainAcc s i d).fab = s.fab ∧ (State.drainAcc s i d).isl = s.isl ∧
    (State.drainAcc s i d).free = s.free ∧ (State.drainAcc s i d).pending = s.pending := by
  unfold State.drainAcc
  repeat' (first
    | with_reducible rfl | (simp; done) | split | apply And.intro | (intro _)
    | (with_reducible refine (foldl_frame _ _ ?_ _ _).trans ?_)
    | (with_reducible refine (foldl_frame_fst _ _ ?_ _ _).trans ?_)
    | (with_reducible refine (foldl_frame_snd _ _ ?_ _ _).trans ?_)
    | (with_reducible refine (foldl_frame_mid _ _ ?_ _ _).trans ?_)
    | (with_reducible refine (foldl_frame_last2 _ _ ?_ _ _).trans ?_)
    | (with_reducible refine (foldl_frame_last3 _ _ ?_ _ _).trans ?_) | simp)

@[simp] theorem State.dropAcc_frame (s : State) (d : ℕ) :
    (State.dropAcc s d).cycle = s.cycle ∧ (State.dropAcc s d).subTick = s.subTick ∧ (State.dropAcc s d).obj = s.obj ∧
    (State.dropAcc s d).copy = s.copy ∧ (State.dropAcc s d).blob = s.blob ∧ (State.dropAcc s d).mem = s.mem ∧
    (State.dropAcc s d).streams = s.streams ∧ (State.dropAcc s d).hub = s.hub ∧ (State.dropAcc s d).net = s.net ∧
    (State.dropAcc s d).fab = s.fab ∧ (State.dropAcc s d).isl = s.isl ∧ (State.dropAcc s d).free = s.free ∧
    (State.dropAcc s d).pending = s.pending := by
  unfold State.dropAcc
  repeat' (first
    | with_reducible rfl | (simp; done) | split | apply And.intro | (intro _)
    | (with_reducible refine (foldl_frame _ _ ?_ _ _).trans ?_))

@[simp] theorem State.clearValid_frame (s : State) (d : ℕ) :
    (State.clearValid s d).cycle = s.cycle ∧ (State.clearValid s d).subTick = s.subTick ∧
    (State.clearValid s d).obj = s.obj ∧ (State.clearValid s d).copy = s.copy ∧ (State.clearValid s d).blob = s.blob ∧
    (State.clearValid s d).mem = s.mem ∧ (State.clearValid s d).streams = s.streams ∧
    (State.clearValid s d).hub = s.hub ∧ (State.clearValid s d).net = s.net ∧ (State.clearValid s d).fab = s.fab ∧
    (State.clearValid s d).isl = s.isl ∧ (State.clearValid s d).free = s.free ∧
    (State.clearValid s d).pending = s.pending := by
  simp [State.clearValid]

@[simp] theorem State.loadFlush_frame (s : State) (i : ℕ) (d : ℕ) (e : OpEnv) (pl : Plan) (p : Product) (tiles : List Tile) (res : Bool) (segs : List Segment) :
    (State.loadFlush s i d e pl p tiles res segs).cycle = s.cycle ∧
    (State.loadFlush s i d e pl p tiles res segs).subTick = s.subTick ∧
    (State.loadFlush s i d e pl p tiles res segs).copy = s.copy ∧
    (State.loadFlush s i d e pl p tiles res segs).blob = s.blob ∧
    (State.loadFlush s i d e pl p tiles res segs).mem = s.mem ∧
    (State.loadFlush s i d e pl p tiles res segs).streams = s.streams ∧
    (State.loadFlush s i d e pl p tiles res segs).hub = s.hub ∧
    (State.loadFlush s i d e pl p tiles res segs).net = s.net ∧
    (State.loadFlush s i d e pl p tiles res segs).fab = s.fab ∧
    (State.loadFlush s i d e pl p tiles res segs).isl = s.isl ∧
    (State.loadFlush s i d e pl p tiles res segs).free = s.free ∧
    (State.loadFlush s i d e pl p tiles res segs).pending = s.pending := by
  unfold State.loadFlush
  repeat' (first
    | with_reducible rfl | (simp; done) | split | apply And.intro | (intro _)
    | (with_reducible refine (foldl_frame _ _ ?_ _ _).trans ?_))

@[simp] theorem State.countCollected_frame (s : State) (i : ℕ) (wraps : ℕ) (clips : ℕ) :
    (State.countCollected s i wraps clips).cycle = s.cycle ∧
    (State.countCollected s i wraps clips).subTick = s.subTick ∧
    (State.countCollected s i wraps clips).copy = s.copy ∧ (State.countCollected s i wraps clips).blob = s.blob ∧
    (State.countCollected s i wraps clips).mem = s.mem ∧ (State.countCollected s i wraps clips).streams = s.streams ∧
    (State.countCollected s i wraps clips).hub = s.hub ∧ (State.countCollected s i wraps clips).net = s.net ∧
    (State.countCollected s i wraps clips).fab = s.fab ∧ (State.countCollected s i wraps clips).isl = s.isl ∧
    (State.countCollected s i wraps clips).free = s.free ∧
    (State.countCollected s i wraps clips).pending = s.pending := by
  simp [State.countCollected]

@[simp] theorem State.countPredicted_frame (s : State) (r : Predicted) :
    (State.countPredicted s r).cycle = s.cycle ∧ (State.countPredicted s r).subTick = s.subTick ∧
    (State.countPredicted s r).copy = s.copy ∧ (State.countPredicted s r).blob = s.blob ∧
    (State.countPredicted s r).mem = s.mem ∧ (State.countPredicted s r).arr = s.arr ∧
    (State.countPredicted s r).streams = s.streams ∧ (State.countPredicted s r).hub = s.hub ∧
    (State.countPredicted s r).net = s.net ∧ (State.countPredicted s r).fab = s.fab ∧
    (State.countPredicted s r).isl = s.isl ∧ (State.countPredicted s r).free = s.free ∧
    (State.countPredicted s r).pending = s.pending := by
  simp [State.countPredicted]

@[simp] theorem State.countMisses_frame (s : State) (i : ℕ) (pl : Plan) :
    (State.countMisses s i pl).cycle = s.cycle ∧ (State.countMisses s i pl).subTick = s.subTick ∧
    (State.countMisses s i pl).copy = s.copy ∧ (State.countMisses s i pl).blob = s.blob ∧
    (State.countMisses s i pl).mem = s.mem ∧ (State.countMisses s i pl).streams = s.streams ∧
    (State.countMisses s i pl).hub = s.hub ∧ (State.countMisses s i pl).net = s.net ∧
    (State.countMisses s i pl).fab = s.fab ∧ (State.countMisses s i pl).isl = s.isl ∧
    (State.countMisses s i pl).free = s.free ∧ (State.countMisses s i pl).pending = s.pending := by
  simp [State.countMisses]

@[simp] theorem State.readFinal_frame (s : State) (i : ℕ) (active : List ℕ) (ranges : ℕ → List (ℕ × ℕ)) :
    (State.readFinal s i active ranges).cycle = s.cycle ∧ (State.readFinal s i active ranges).subTick = s.subTick ∧
    (State.readFinal s i active ranges).copy = s.copy ∧ (State.readFinal s i active ranges).blob = s.blob ∧
    (State.readFinal s i active ranges).mem = s.mem ∧ (State.readFinal s i active ranges).streams = s.streams ∧
    (State.readFinal s i active ranges).hub = s.hub ∧ (State.readFinal s i active ranges).net = s.net ∧
    (State.readFinal s i active ranges).fab = s.fab ∧ (State.readFinal s i active ranges).isl = s.isl ∧
    (State.readFinal s i active ranges).free = s.free ∧ (State.readFinal s i active ranges).pending = s.pending := by
  unfold State.readFinal
  repeat' (first
    | with_reducible rfl | (simp; done) | split | apply And.intro | (intro _)
    | (with_reducible refine (foldl_frame _ _ ?_ _ _).trans ?_))

@[simp] theorem State.computeWrites_frame (s : State) (i : ℕ) :
    (State.computeWrites s i).cycle = s.cycle ∧ (State.computeWrites s i).subTick = s.subTick ∧
    (State.computeWrites s i).copy = s.copy ∧ (State.computeWrites s i).blob = s.blob ∧
    (State.computeWrites s i).mem = s.mem ∧ (State.computeWrites s i).streams = s.streams ∧
    (State.computeWrites s i).hub = s.hub ∧ (State.computeWrites s i).net = s.net ∧
    (State.computeWrites s i).fab = s.fab ∧ (State.computeWrites s i).isl = s.isl ∧
    (State.computeWrites s i).free = s.free ∧ (State.computeWrites s i).pending = s.pending := by
  unfold State.computeWrites
  refine ⟨?_, ?_, ?_, ?_, ?_, ?_, ?_, ?_, ?_, ?_, ?_, ?_⟩
  repeat' (first
    | with_reducible rfl
    | simp; done
    | split
    | apply And.intro
    | intro _
    | with_reducible refine (foldl_frame _ _ ?_ _ _).trans ?_
    | with_reducible refine (foldl_frame_fst _ _ ?_ _ _).trans ?_
    | with_reducible refine (foldl_frame_snd _ _ ?_ _ _).trans ?_
    | with_reducible refine (foldl_frame_mid _ _ ?_ _ _).trans ?_
    | with_reducible refine (foldl_frame_last2 _ _ ?_ _ _).trans ?_
    | with_reducible refine (foldl_frame_last3 _ _ ?_ _ _).trans ?_
    | simp)

@[simp] theorem State.commitWrites_frame (s : State) (i : ℕ) (d : ℕ) :
    (State.commitWrites s i d).cycle = s.cycle ∧ (State.commitWrites s i d).subTick = s.subTick ∧
    (State.commitWrites s i d).copy = s.copy ∧ (State.commitWrites s i d).blob = s.blob ∧
    (State.commitWrites s i d).streams = s.streams ∧ (State.commitWrites s i d).hub = s.hub ∧
    (State.commitWrites s i d).net = s.net ∧ (State.commitWrites s i d).isl = s.isl ∧
    (State.commitWrites s i d).free = s.free ∧ (State.commitWrites s i d).pending = s.pending := by
  unfold State.commitWrites
  repeat' (first
    | with_reducible rfl | (simp; done) | split | apply And.intro | (intro _)
    | (with_reducible refine (foldl_frame _ _ ?_ _ _).trans ?_)
    | (with_reducible refine (foldl_frame_fst _ _ ?_ _ _).trans ?_)
    | (with_reducible refine (foldl_frame_snd _ _ ?_ _ _).trans ?_)
    | (with_reducible refine (foldl_frame_mid _ _ ?_ _ _).trans ?_)
    | (with_reducible refine (foldl_frame_last2 _ _ ?_ _ _).trans ?_)
    | (with_reducible refine (foldl_frame_last3 _ _ ?_ _ _).trans ?_) | simp)

@[simp] theorem State.countIndices_frame (s : State) (i : ℕ) :
    (State.countIndices s i).cycle = s.cycle ∧ (State.countIndices s i).subTick = s.subTick ∧
    (State.countIndices s i).copy = s.copy ∧ (State.countIndices s i).blob = s.blob ∧
    (State.countIndices s i).mem = s.mem ∧ (State.countIndices s i).streams = s.streams ∧
    (State.countIndices s i).hub = s.hub ∧ (State.countIndices s i).net = s.net ∧
    (State.countIndices s i).fab = s.fab ∧ (State.countIndices s i).isl = s.isl ∧
    (State.countIndices s i).free = s.free ∧ (State.countIndices s i).pending = s.pending := by
  unfold State.countIndices
  repeat' (first
    | with_reducible rfl | (simp; done) | split | apply And.intro | (intro _)
    | (with_reducible refine (foldl_frame _ _ ?_ _ _).trans ?_)
    | (with_reducible refine (foldl_frame_fst _ _ ?_ _ _).trans ?_)
    | (with_reducible refine (foldl_frame_snd _ _ ?_ _ _).trans ?_)
    | (with_reducible refine (foldl_frame_mid _ _ ?_ _ _).trans ?_)
    | (with_reducible refine (foldl_frame_last2 _ _ ?_ _ _).trans ?_)
    | (with_reducible refine (foldl_frame_last3 _ _ ?_ _ _).trans ?_) | simp)

@[simp] theorem State.enterRun_frame (s : State) :
    (State.enterRun s).cycle = s.cycle ∧ (State.enterRun s).subTick = s.subTick ∧ (State.enterRun s).copy = s.copy ∧
    (State.enterRun s).blob = s.blob ∧ (State.enterRun s).mem = s.mem ∧ (State.enterRun s).arr = s.arr ∧
    (State.enterRun s).streams = s.streams ∧ (State.enterRun s).hub = s.hub ∧ (State.enterRun s).net = s.net ∧
    (State.enterRun s).fab = s.fab ∧ (State.enterRun s).isl = s.isl ∧ (State.enterRun s).free = s.free ∧
    (State.enterRun s).pending = s.pending := by
  simp [State.enterRun]

@[simp] theorem State.phaseReads_frame (s : State) (i : ℕ) (d : ℕ) (ph : ℕ) (ranges : List (ℕ × ℕ)) :
    (State.phaseReads s i d ph ranges).cycle = s.cycle ∧ (State.phaseReads s i d ph ranges).subTick = s.subTick ∧
    (State.phaseReads s i d ph ranges).copy = s.copy ∧ (State.phaseReads s i d ph ranges).blob = s.blob ∧
    (State.phaseReads s i d ph ranges).mem = s.mem ∧ (State.phaseReads s i d ph ranges).streams = s.streams ∧
    (State.phaseReads s i d ph ranges).hub = s.hub ∧ (State.phaseReads s i d ph ranges).net = s.net ∧
    (State.phaseReads s i d ph ranges).fab = s.fab ∧ (State.phaseReads s i d ph ranges).isl = s.isl ∧
    (State.phaseReads s i d ph ranges).free = s.free ∧ (State.phaseReads s i d ph ranges).pending = s.pending := by
  simp [State.phaseReads]

@[simp] theorem State.phaseUpdates_frame (s : State) (i : ℕ) (d : ℕ) (ph : ℕ) (e : OpEnv) (pl : Plan) (p : Product) (tiles : List Tile) :
    (State.phaseUpdates s i d ph e pl p tiles).cycle = s.cycle ∧
    (State.phaseUpdates s i d ph e pl p tiles).subTick = s.subTick ∧
    (State.phaseUpdates s i d ph e pl p tiles).copy = s.copy ∧
    (State.phaseUpdates s i d ph e pl p tiles).blob = s.blob ∧
    (State.phaseUpdates s i d ph e pl p tiles).mem = s.mem ∧
    (State.phaseUpdates s i d ph e pl p tiles).streams = s.streams ∧
    (State.phaseUpdates s i d ph e pl p tiles).hub = s.hub ∧ (State.phaseUpdates s i d ph e pl p tiles).net = s.net ∧
    (State.phaseUpdates s i d ph e pl p tiles).fab = s.fab ∧ (State.phaseUpdates s i d ph e pl p tiles).isl = s.isl ∧
    (State.phaseUpdates s i d ph e pl p tiles).free = s.free ∧
    (State.phaseUpdates s i d ph e pl p tiles).pending = s.pending := by
  simp [State.phaseUpdates]

@[simp] theorem State.phaseWork_frame (s : State) (i : ℕ) (d : ℕ) (ph : ℕ) :
    (State.phaseWork s i d ph).cycle = s.cycle ∧ (State.phaseWork s i d ph).subTick = s.subTick ∧
    (State.phaseWork s i d ph).copy = s.copy ∧ (State.phaseWork s i d ph).blob = s.blob ∧
    (State.phaseWork s i d ph).mem = s.mem ∧ (State.phaseWork s i d ph).streams = s.streams ∧
    (State.phaseWork s i d ph).hub = s.hub ∧ (State.phaseWork s i d ph).net = s.net ∧
    (State.phaseWork s i d ph).fab = s.fab ∧ (State.phaseWork s i d ph).isl = s.isl ∧
    (State.phaseWork s i d ph).free = s.free ∧ (State.phaseWork s i d ph).pending = s.pending := by
  unfold State.phaseWork; split <;> simp

@[simp] theorem State.settleConv_frame (s : State) (i : ℕ) :
    (State.settleConv s i).cycle = s.cycle ∧ (State.settleConv s i).subTick = s.subTick ∧
    (State.settleConv s i).copy = s.copy ∧ (State.settleConv s i).blob = s.blob ∧ (State.settleConv s i).mem = s.mem ∧
    (State.settleConv s i).streams = s.streams ∧ (State.settleConv s i).hub = s.hub ∧
    (State.settleConv s i).net = s.net ∧ (State.settleConv s i).fab = s.fab ∧ (State.settleConv s i).isl = s.isl ∧
    (State.settleConv s i).free = s.free ∧ (State.settleConv s i).pending = s.pending := by
  unfold State.settleConv
  repeat' (first
    | with_reducible rfl | (simp; done) | split | apply And.intro | (intro _)
    | (with_reducible refine (foldl_frame _ _ ?_ _ _).trans ?_)
    | (with_reducible refine (foldl_frame_fst _ _ ?_ _ _).trans ?_)
    | (with_reducible refine (foldl_frame_snd _ _ ?_ _ _).trans ?_)
    | (with_reducible refine (foldl_frame_mid _ _ ?_ _ _).trans ?_)
    | (with_reducible refine (foldl_frame_last2 _ _ ?_ _ _).trans ?_)
    | (with_reducible refine (foldl_frame_last3 _ _ ?_ _ _).trans ?_) | simp)

@[simp] theorem State.phaseWrites_frame (s : State) (i : ℕ) (d : ℕ) :
    (State.phaseWrites s i d).cycle = s.cycle ∧ (State.phaseWrites s i d).subTick = s.subTick ∧
    (State.phaseWrites s i d).copy = s.copy ∧ (State.phaseWrites s i d).blob = s.blob ∧
    (State.phaseWrites s i d).streams = s.streams ∧ (State.phaseWrites s i d).hub = s.hub ∧
    (State.phaseWrites s i d).net = s.net ∧ (State.phaseWrites s i d).isl = s.isl ∧
    (State.phaseWrites s i d).free = s.free ∧ (State.phaseWrites s i d).pending = s.pending := by
  simp [State.phaseWrites]

@[simp] theorem State.beginPhase_frame (s : State) (i : ℕ) (d : ℕ) (ph : ℕ) :
    (State.beginPhase s i d ph).cycle = s.cycle ∧ (State.beginPhase s i d ph).subTick = s.subTick ∧
    (State.beginPhase s i d ph).copy = s.copy ∧ (State.beginPhase s i d ph).blob = s.blob ∧
    (State.beginPhase s i d ph).mem = s.mem ∧ (State.beginPhase s i d ph).streams = s.streams ∧
    (State.beginPhase s i d ph).hub = s.hub ∧ (State.beginPhase s i d ph).net = s.net ∧
    (State.beginPhase s i d ph).fab = s.fab ∧ (State.beginPhase s i d ph).isl = s.isl ∧
    (State.beginPhase s i d ph).free = s.free ∧ (State.beginPhase s i d ph).pending = s.pending := by
  simp [State.beginPhase]

@[simp] theorem State.arrive_frame (s : State) (i : ℕ) (d : ℕ) :
    (State.arrive s i d).cycle = s.cycle ∧ (State.arrive s i d).subTick = s.subTick ∧
    (State.arrive s i d).obj = s.obj ∧ (State.arrive s i d).copy = s.copy ∧ (State.arrive s i d).blob = s.blob ∧
    (State.arrive s i d).mem = s.mem ∧ (State.arrive s i d).streams = s.streams ∧ (State.arrive s i d).hub = s.hub ∧
    (State.arrive s i d).net = s.net ∧ (State.arrive s i d).fab = s.fab ∧ (State.arrive s i d).isl = s.isl ∧
    (State.arrive s i d).free = s.free ∧ (State.arrive s i d).pending = s.pending := by
  simp [State.arrive]

@[simp] theorem State.applyBanks_frame (s : State) (d : ℕ) (mask : U64) :
    (State.applyBanks s d mask).cycle = s.cycle ∧ (State.applyBanks s d mask).subTick = s.subTick ∧
    (State.applyBanks s d mask).copy = s.copy ∧ (State.applyBanks s d mask).blob = s.blob ∧
    (State.applyBanks s d mask).arr = s.arr ∧ (State.applyBanks s d mask).streams = s.streams ∧
    (State.applyBanks s d mask).hub = s.hub ∧ (State.applyBanks s d mask).net = s.net ∧
    (State.applyBanks s d mask).fab = s.fab ∧ (State.applyBanks s d mask).isl = s.isl ∧
    (State.applyBanks s d mask).free = s.free ∧ (State.applyBanks s d mask).pending = s.pending := by
  simp [State.applyBanks]

@[simp] theorem State.closeEffects_frame (s : State) (d : ℕ) :
    (State.closeEffects s d).cycle = s.cycle ∧ (State.closeEffects s d).subTick = s.subTick ∧
    (State.closeEffects s d).copy = s.copy ∧ (State.closeEffects s d).blob = s.blob ∧
    (State.closeEffects s d).arr = s.arr ∧ (State.closeEffects s d).streams = s.streams ∧
    (State.closeEffects s d).hub = s.hub ∧ (State.closeEffects s d).net = s.net ∧
    (State.closeEffects s d).fab = s.fab ∧ (State.closeEffects s d).isl = s.isl ∧
    (State.closeEffects s d).free = s.free ∧ (State.closeEffects s d).pending = s.pending := by
  unfold State.closeEffects; split <;> simp

@[simp] theorem State.applyClock_frame (s : State) :
    (State.applyClock s).cycle = s.cycle ∧ (State.applyClock s).subTick = s.subTick ∧
    (State.applyClock s).copy = s.copy ∧ (State.applyClock s).blob = s.blob ∧ (State.applyClock s).mem = s.mem ∧
    (State.applyClock s).streams = s.streams ∧ (State.applyClock s).hub = s.hub ∧ (State.applyClock s).net = s.net ∧
    (State.applyClock s).fab = s.fab ∧ (State.applyClock s).isl = s.isl ∧ (State.applyClock s).free = s.free ∧
    (State.applyClock s).pending = s.pending := by
  unfold State.applyClock; split <;> simp

@[simp] theorem State.applyClockOn_frame (s : State) (d : ℕ) (active : List ℕ) :
    (State.applyClockOn s d active).cycle = s.cycle ∧ (State.applyClockOn s d active).subTick = s.subTick ∧
    (State.applyClockOn s d active).copy = s.copy ∧ (State.applyClockOn s d active).blob = s.blob ∧
    (State.applyClockOn s d active).mem = s.mem ∧ (State.applyClockOn s d active).streams = s.streams ∧
    (State.applyClockOn s d active).hub = s.hub ∧ (State.applyClockOn s d active).net = s.net ∧
    (State.applyClockOn s d active).fab = s.fab ∧ (State.applyClockOn s d active).isl = s.isl ∧
    (State.applyClockOn s d active).free = s.free ∧ (State.applyClockOn s d active).pending = s.pending := by
  unfold State.applyClockOn; split <;> simp

@[simp] theorem State.requestClock_frame (s : State) :
    (State.requestClock s).cycle = s.cycle ∧ (State.requestClock s).subTick = s.subTick ∧
    (State.requestClock s).copy = s.copy ∧ (State.requestClock s).blob = s.blob ∧ (State.requestClock s).mem = s.mem ∧
    (State.requestClock s).streams = s.streams ∧ (State.requestClock s).hub = s.hub ∧
    (State.requestClock s).net = s.net ∧ (State.requestClock s).fab = s.fab ∧ (State.requestClock s).isl = s.isl ∧
    (State.requestClock s).free = s.free ∧ (State.requestClock s).pending = s.pending := by
  simp [State.requestClock]

@[simp] theorem State.beginFetch_frame (s : State) (i : ℕ) (d : ℕ) (start : ℕ) (await : Bool) :
    (State.beginFetch s i d start await).cycle = s.cycle ∧ (State.beginFetch s i d start await).subTick = s.subTick ∧
    (State.beginFetch s i d start await).obj = s.obj ∧ (State.beginFetch s i d start await).copy = s.copy ∧
    (State.beginFetch s i d start await).blob = s.blob ∧ (State.beginFetch s i d start await).mem = s.mem ∧
    (State.beginFetch s i d start await).streams = s.streams ∧ (State.beginFetch s i d start await).hub = s.hub ∧
    (State.beginFetch s i d start await).net = s.net ∧ (State.beginFetch s i d start await).fab = s.fab ∧
    (State.beginFetch s i d start await).isl = s.isl ∧ (State.beginFetch s i d start await).free = s.free ∧
    (State.beginFetch s i d start await).pending = s.pending := by
  simp [State.beginFetch]

@[simp] theorem State.closeDie_frame (s : State) (i : ℕ) (d : ℕ) :
    (State.closeDie s i d).cycle = s.cycle ∧ (State.closeDie s i d).subTick = s.subTick ∧
    (State.closeDie s i d).copy = s.copy ∧ (State.closeDie s i d).blob = s.blob ∧
    (State.closeDie s i d).streams = s.streams ∧ (State.closeDie s i d).hub = s.hub ∧
    (State.closeDie s i d).net = s.net ∧ (State.closeDie s i d).fab = s.fab ∧ (State.closeDie s i d).isl = s.isl ∧
    (State.closeDie s i d).free = s.free ∧ (State.closeDie s i d).pending = s.pending := by
  unfold State.closeDie
  repeat' (first
    | with_reducible rfl | (simp; done) | split | apply And.intro | (intro _)
    | (with_reducible refine (foldl_frame _ _ ?_ _ _).trans ?_)
    | (with_reducible refine (foldl_frame_fst _ _ ?_ _ _).trans ?_)
    | (with_reducible refine (foldl_frame_snd _ _ ?_ _ _).trans ?_)
    | (with_reducible refine (foldl_frame_mid _ _ ?_ _ _).trans ?_)
    | (with_reducible refine (foldl_frame_last2 _ _ ?_ _ _).trans ?_)
    | (with_reducible refine (foldl_frame_last3 _ _ ?_ _ _).trans ?_) | simp)

@[simp] theorem State.completeOp_frame (s : State) (status : ℕ) (xcode : ℕ) (poison : Bool) :
    (State.completeOp s status xcode poison).cycle = s.cycle ∧
    (State.completeOp s status xcode poison).subTick = s.subTick ∧
    (State.completeOp s status xcode poison).copy = s.copy ∧ (State.completeOp s status xcode poison).blob = s.blob ∧
    (State.completeOp s status xcode poison).streams = s.streams ∧
    (State.completeOp s status xcode poison).net = s.net ∧ (State.completeOp s status xcode poison).free = s.free ∧
    (State.completeOp s status xcode poison).pending = s.pending := by
  unfold State.completeOp; split <;> simp

@[simp] theorem State.putThread_frame (s : State) (eng : ℕ) (thr : ℕ) (t : Thread) :
    (State.putThread s eng thr t).cycle = s.cycle ∧ (State.putThread s eng thr t).subTick = s.subTick ∧
    (State.putThread s eng thr t).obj = s.obj ∧ (State.putThread s eng thr t).copy = s.copy ∧
    (State.putThread s eng thr t).blob = s.blob ∧ (State.putThread s eng thr t).mem = s.mem ∧
    (State.putThread s eng thr t).arr = s.arr ∧ (State.putThread s eng thr t).hub = s.hub ∧
    (State.putThread s eng thr t).net = s.net ∧ (State.putThread s eng thr t).fab = s.fab ∧
    (State.putThread s eng thr t).isl = s.isl ∧ (State.putThread s eng thr t).free = s.free ∧
    (State.putThread s eng thr t).pending = s.pending := by
  simp [State.putThread]

@[simp] theorem State.threadRecord_frame (s : State) (t : Thread) (status : ℕ) (sync : ℕ) :
    (State.threadRecord s t status sync).cycle = s.cycle ∧ (State.threadRecord s t status sync).subTick = s.subTick ∧
    (State.threadRecord s t status sync).copy = s.copy ∧ (State.threadRecord s t status sync).blob = s.blob ∧
    (State.threadRecord s t status sync).arr = s.arr ∧ (State.threadRecord s t status sync).streams = s.streams ∧
    (State.threadRecord s t status sync).net = s.net ∧ (State.threadRecord s t status sync).free = s.free ∧
    (State.threadRecord s t status sync).pending = s.pending := by
  simp [State.threadRecord]

@[simp] theorem State.commandRecord_frame (s : State) (code : ℕ) (tag : ℕ) (cring : ℕ) (deadline : ℕ) (taken : ℕ) (status : ℕ) (state : ℕ) :
    (State.commandRecord s code tag cring deadline taken status state).cycle = s.cycle ∧
    (State.commandRecord s code tag cring deadline taken status state).subTick = s.subTick ∧
    (State.commandRecord s code tag cring deadline taken status state).copy = s.copy ∧
    (State.commandRecord s code tag cring deadline taken status state).blob = s.blob ∧
    (State.commandRecord s code tag cring deadline taken status state).arr = s.arr ∧
    (State.commandRecord s code tag cring deadline taken status state).streams = s.streams ∧
    (State.commandRecord s code tag cring deadline taken status state).net = s.net ∧
    (State.commandRecord s code tag cring deadline taken status state).free = s.free ∧
    (State.commandRecord s code tag cring deadline taken status state).pending = s.pending := by
  simp [State.commandRecord]

@[simp] theorem State.idleThread_frame (s : State) (eng : ℕ) (thr : ℕ) :
    (State.idleThread s eng thr).cycle = s.cycle ∧ (State.idleThread s eng thr).subTick = s.subTick ∧
    (State.idleThread s eng thr).obj = s.obj ∧ (State.idleThread s eng thr).copy = s.copy ∧
    (State.idleThread s eng thr).blob = s.blob ∧ (State.idleThread s eng thr).mem = s.mem ∧
    (State.idleThread s eng thr).arr = s.arr ∧ (State.idleThread s eng thr).hub = s.hub ∧
    (State.idleThread s eng thr).net = s.net ∧ (State.idleThread s eng thr).isl = s.isl ∧
    (State.idleThread s eng thr).free = s.free ∧ (State.idleThread s eng thr).pending = s.pending := by
  simp [State.idleThread]

@[simp] theorem State.killEngine_frame (s : State) (eng : ℕ) :
    (State.killEngine s eng).cycle = s.cycle ∧ (State.killEngine s eng).subTick = s.subTick ∧
    (State.killEngine s eng).copy = s.copy ∧ (State.killEngine s eng).blob = s.blob ∧
    (State.killEngine s eng).arr = s.arr ∧ (State.killEngine s eng).net = s.net ∧
    (State.killEngine s eng).free = s.free ∧ (State.killEngine s eng).pending = s.pending := by
  unfold State.killEngine
  repeat' (first
    | with_reducible rfl | (simp; done) | split | apply And.intro | (intro _)
    | (with_reducible refine (foldl_frame _ _ ?_ _ _).trans ?_)
    | (with_reducible refine (foldl_frame_fst _ _ ?_ _ _).trans ?_)
    | (with_reducible refine (foldl_frame_snd _ _ ?_ _ _).trans ?_)
    | (with_reducible refine (foldl_frame_mid _ _ ?_ _ _).trans ?_)
    | (with_reducible refine (foldl_frame_last2 _ _ ?_ _ _).trans ?_)
    | (with_reducible refine (foldl_frame_last3 _ _ ?_ _ _).trans ?_) | simp)

@[simp] theorem State.noteClosed_frame (s : State) (d : ℕ) (lastAt : ℕ) (lens : List ℕ) :
    (State.noteClosed s d lastAt lens).cycle = s.cycle ∧ (State.noteClosed s d lastAt lens).subTick = s.subTick ∧
    (State.noteClosed s d lastAt lens).obj = s.obj ∧ (State.noteClosed s d lastAt lens).copy = s.copy ∧
    (State.noteClosed s d lastAt lens).blob = s.blob ∧ (State.noteClosed s d lastAt lens).mem = s.mem ∧
    (State.noteClosed s d lastAt lens).arr = s.arr ∧ (State.noteClosed s d lastAt lens).hub = s.hub ∧
    (State.noteClosed s d lastAt lens).net = s.net ∧ (State.noteClosed s d lastAt lens).fab = s.fab ∧
    (State.noteClosed s d lastAt lens).isl = s.isl ∧ (State.noteClosed s d lastAt lens).free = s.free ∧
    (State.noteClosed s d lastAt lens).pending = s.pending := by
  unfold State.noteClosed
  repeat' (first
    | with_reducible rfl | (simp; done) | split | apply And.intro | (intro _)
    | (with_reducible refine (foldl_frame _ _ ?_ _ _).trans ?_))

@[simp] theorem State.putLace_frame (s : State) (eng : ℕ) (n : ℕ) (l : Lace) :
    (State.putLace s eng n l).cycle = s.cycle ∧ (State.putLace s eng n l).subTick = s.subTick ∧
    (State.putLace s eng n l).obj = s.obj ∧ (State.putLace s eng n l).copy = s.copy ∧
    (State.putLace s eng n l).blob = s.blob ∧ (State.putLace s eng n l).mem = s.mem ∧
    (State.putLace s eng n l).arr = s.arr ∧ (State.putLace s eng n l).hub = s.hub ∧
    (State.putLace s eng n l).net = s.net ∧ (State.putLace s eng n l).fab = s.fab ∧
    (State.putLace s eng n l).isl = s.isl ∧ (State.putLace s eng n l).free = s.free ∧
    (State.putLace s eng n l).pending = s.pending := by
  simp [State.putLace]

@[simp] theorem State.streamRead_frame (s : State) (w : Window) (die : ℕ) (a : ℕ) (n : ℕ) (c : Counts) :
    (State.streamRead s w die a n c).2.1.cycle = s.cycle ∧ (State.streamRead s w die a n c).2.1.subTick = s.subTick ∧
    (State.streamRead s w die a n c).2.1.copy = s.copy ∧ (State.streamRead s w die a n c).2.1.blob = s.blob ∧
    (State.streamRead s w die a n c).2.1.mem = s.mem ∧ (State.streamRead s w die a n c).2.1.arr = s.arr ∧
    (State.streamRead s w die a n c).2.1.streams = s.streams ∧ (State.streamRead s w die a n c).2.1.hub = s.hub ∧
    (State.streamRead s w die a n c).2.1.net = s.net ∧ (State.streamRead s w die a n c).2.1.fab = s.fab ∧
    (State.streamRead s w die a n c).2.1.isl = s.isl ∧ (State.streamRead s w die a n c).2.1.free = s.free ∧
    (State.streamRead s w die a n c).2.1.pending = s.pending := by
  unfold State.streamRead
  repeat' (first
    | with_reducible rfl | (simp; done) | split | apply And.intro | (intro _)
    | (with_reducible refine (foldl_frame _ _ ?_ _ _).trans ?_)
    | (with_reducible refine (foldl_frame_fst _ _ ?_ _ _).trans ?_)
    | (with_reducible refine (foldl_frame_snd _ _ ?_ _ _).trans ?_)
    | (with_reducible refine (foldl_frame_mid _ _ ?_ _ _).trans ?_))

@[simp] theorem State.streamWrite_frame (s : State) (w : Window) (die : ℕ) (a : ℕ) (data : List (Byte × Bool)) (c : Counts) :
    (State.streamWrite s w die a data c).1.cycle = s.cycle ∧
    (State.streamWrite s w die a data c).1.subTick = s.subTick ∧
    (State.streamWrite s w die a data c).1.copy = s.copy ∧ (State.streamWrite s w die a data c).1.blob = s.blob ∧
    (State.streamWrite s w die a data c).1.arr = s.arr ∧ (State.streamWrite s w die a data c).1.streams = s.streams ∧
    (State.streamWrite s w die a data c).1.hub = s.hub ∧ (State.streamWrite s w die a data c).1.net = s.net ∧
    (State.streamWrite s w die a data c).1.isl = s.isl ∧ (State.streamWrite s w die a data c).1.free = s.free ∧
    (State.streamWrite s w die a data c).1.pending = s.pending := by
  unfold State.streamWrite
  repeat' (first
    | with_reducible rfl | (simp; done) | split | apply And.intro | (intro _)
    | (with_reducible refine (foldl_frame _ _ ?_ _ _).trans ?_)
    | (with_reducible refine (foldl_frame_fst _ _ ?_ _ _).trans ?_))

@[simp] theorem State.rowData_frame (s : State) (eng : ℕ) (t : Thread) (e : Entry) (h : ℕ) (r : ℕ) (bad : Bool) (c : Counts) :
    (State.rowData s eng t e h r bad c).2.1.cycle = s.cycle ∧
    (State.rowData s eng t e h r bad c).2.1.subTick = s.subTick ∧
    (State.rowData s eng t e h r bad c).2.1.copy = s.copy ∧ (State.rowData s eng t e h r bad c).2.1.blob = s.blob ∧
    (State.rowData s eng t e h r bad c).2.1.mem = s.mem ∧ (State.rowData s eng t e h r bad c).2.1.arr = s.arr ∧
    (State.rowData s eng t e h r bad c).2.1.streams = s.streams ∧
    (State.rowData s eng t e h r bad c).2.1.hub = s.hub ∧ (State.rowData s eng t e h r bad c).2.1.net = s.net ∧
    (State.rowData s eng t e h r bad c).2.1.fab = s.fab ∧ (State.rowData s eng t e h r bad c).2.1.isl = s.isl ∧
    (State.rowData s eng t e h r bad c).2.1.free = s.free ∧
    (State.rowData s eng t e h r bad c).2.1.pending = s.pending := by
  unfold State.rowData; split <;> simp

@[simp] theorem State.takeTag_frame (s : State) :
    (State.takeTag s).2.cycle = s.cycle ∧ (State.takeTag s).2.subTick = s.subTick ∧ (State.takeTag s).2.obj = s.obj ∧
    (State.takeTag s).2.copy = s.copy ∧ (State.takeTag s).2.blob = s.blob ∧ (State.takeTag s).2.mem = s.mem ∧
    (State.takeTag s).2.arr = s.arr ∧ (State.takeTag s).2.streams = s.streams ∧ (State.takeTag s).2.hub = s.hub ∧
    (State.takeTag s).2.net = s.net ∧ (State.takeTag s).2.isl = s.isl ∧ (State.takeTag s).2.free = s.free ∧
    (State.takeTag s).2.pending = s.pending := by
  simp [State.takeTag]

@[simp] theorem State.onEntry_frame (s : State) (eng : ℕ) (thr : ℕ) (index : ℕ) (f : IssuedEntry → IssuedEntry) :
    (State.onEntry s eng thr index f).cycle = s.cycle ∧ (State.onEntry s eng thr index f).subTick = s.subTick ∧
    (State.onEntry s eng thr index f).obj = s.obj ∧ (State.onEntry s eng thr index f).copy = s.copy ∧
    (State.onEntry s eng thr index f).blob = s.blob ∧ (State.onEntry s eng thr index f).mem = s.mem ∧
    (State.onEntry s eng thr index f).arr = s.arr ∧ (State.onEntry s eng thr index f).hub = s.hub ∧
    (State.onEntry s eng thr index f).net = s.net ∧ (State.onEntry s eng thr index f).fab = s.fab ∧
    (State.onEntry s eng thr index f).isl = s.isl ∧ (State.onEntry s eng thr index f).free = s.free ∧
    (State.onEntry s eng thr index f).pending = s.pending := by
  simp [State.onEntry]

@[simp] theorem State.addRemote_frame (s : State) (eng : ℕ) (thr : ℕ) (index : ℕ) (up : Bool) :
    (State.addRemote s eng thr index up).cycle = s.cycle ∧ (State.addRemote s eng thr index up).subTick = s.subTick ∧
    (State.addRemote s eng thr index up).obj = s.obj ∧ (State.addRemote s eng thr index up).copy = s.copy ∧
    (State.addRemote s eng thr index up).blob = s.blob ∧ (State.addRemote s eng thr index up).mem = s.mem ∧
    (State.addRemote s eng thr index up).arr = s.arr ∧ (State.addRemote s eng thr index up).hub = s.hub ∧
    (State.addRemote s eng thr index up).net = s.net ∧ (State.addRemote s eng thr index up).fab = s.fab ∧
    (State.addRemote s eng thr index up).isl = s.isl ∧ (State.addRemote s eng thr index up).free = s.free ∧
    (State.addRemote s eng thr index up).pending = s.pending := by
  simp [State.addRemote]

@[simp] theorem State.remoteRead_frame (s : State) (eng : ℕ) (thr : ℕ) (index : ℕ) (dev : ℕ) (addr : ℕ) (len : ℕ) (dst : ℕ) (remoteDst : Bool) :
    (State.remoteRead s eng thr index dev addr len dst remoteDst).cycle = s.cycle ∧
    (State.remoteRead s eng thr index dev addr len dst remoteDst).subTick = s.subTick ∧
    (State.remoteRead s eng thr index dev addr len dst remoteDst).copy = s.copy ∧
    (State.remoteRead s eng thr index dev addr len dst remoteDst).blob = s.blob ∧
    (State.remoteRead s eng thr index dev addr len dst remoteDst).mem = s.mem ∧
    (State.remoteRead s eng thr index dev addr len dst remoteDst).arr = s.arr ∧
    (State.remoteRead s eng thr index dev addr len dst remoteDst).hub = s.hub ∧
    (State.remoteRead s eng thr index dev addr len dst remoteDst).net = s.net ∧
    (State.remoteRead s eng thr index dev addr len dst remoteDst).isl = s.isl ∧
    (State.remoteRead s eng thr index dev addr len dst remoteDst).free = s.free ∧
    (State.remoteRead s eng thr index dev addr len dst remoteDst).pending = s.pending := by
  simp [State.remoteRead]

@[simp] theorem State.remoteWrite_frame (s : State) (eng : ℕ) (thr : ℕ) (index : ℕ) (dev : ℕ) (addr : ℕ) (data : List (Byte × Bool)) :
    (State.remoteWrite s eng thr index dev addr data).cycle = s.cycle ∧
    (State.remoteWrite s eng thr index dev addr data).subTick = s.subTick ∧
    (State.remoteWrite s eng thr index dev addr data).copy = s.copy ∧
    (State.remoteWrite s eng thr index dev addr data).blob = s.blob ∧
    (State.remoteWrite s eng thr index dev addr data).mem = s.mem ∧
    (State.remoteWrite s eng thr index dev addr data).arr = s.arr ∧
    (State.remoteWrite s eng thr index dev addr data).hub = s.hub ∧
    (State.remoteWrite s eng thr index dev addr data).net = s.net ∧
    (State.remoteWrite s eng thr index dev addr data).isl = s.isl ∧
    (State.remoteWrite s eng thr index dev addr data).free = s.free ∧
    (State.remoteWrite s eng thr index dev addr data).pending = s.pending := by
  simp [State.remoteWrite]

@[simp] theorem State.remoteRun_frame (s : State) (eng : ℕ) (thr : ℕ) (index : ℕ) (dev : ℕ) (addr : ℕ) (data : List (Byte × Bool)) :
    (State.remoteRun s eng thr index dev addr data).cycle = s.cycle ∧
    (State.remoteRun s eng thr index dev addr data).subTick = s.subTick ∧
    (State.remoteRun s eng thr index dev addr data).copy = s.copy ∧
    (State.remoteRun s eng thr index dev addr data).blob = s.blob ∧
    (State.remoteRun s eng thr index dev addr data).mem = s.mem ∧
    (State.remoteRun s eng thr index dev addr data).arr = s.arr ∧
    (State.remoteRun s eng thr index dev addr data).hub = s.hub ∧
    (State.remoteRun s eng thr index dev addr data).net = s.net ∧
    (State.remoteRun s eng thr index dev addr data).isl = s.isl ∧
    (State.remoteRun s eng thr index dev addr data).free = s.free ∧
    (State.remoteRun s eng thr index dev addr data).pending = s.pending := by
  unfold State.remoteRun
  repeat' (first
    | with_reducible rfl | (simp; done) | split | apply And.intro | (intro _)
    | (with_reducible refine (foldl_frame _ _ ?_ _ _).trans ?_))

@[simp] theorem State.mcAppend_frame (s : State) (g : ℕ) (data : List (Byte × Bool)) (c : Counts) :
    (State.mcAppend s g data c).1.cycle = s.cycle ∧ (State.mcAppend s g data c).1.subTick = s.subTick ∧
    (State.mcAppend s g data c).1.copy = s.copy ∧ (State.mcAppend s g data c).1.blob = s.blob ∧
    (State.mcAppend s g data c).1.arr = s.arr ∧ (State.mcAppend s g data c).1.streams = s.streams ∧
    (State.mcAppend s g data c).1.net = s.net ∧ (State.mcAppend s g data c).1.free = s.free ∧
    (State.mcAppend s g data c).1.pending = s.pending := by
  unfold State.mcAppend; split <;> simp

theorem State.askRemote_frame (s : State) (eng thr index : Nat) (t : State) (e : s.askRemote eng thr index = some t) :
    t.cycle = s.cycle ∧ t.subTick = s.subTick ∧ t.copy = s.copy ∧ t.blob = s.blob ∧ t.mem = s.mem ∧ t.arr = s.arr ∧ t.hub = s.hub ∧ t.net = s.net ∧ t.isl = s.isl ∧ t.free = s.free ∧ t.pending = s.pending := by
  unfold State.askRemote at e
  dsimp only at e
  repeat' (split at e)
  all_goals first
    | (simp at e; done)
    | (simp only [Option.some.injEq] at e; subst e; simp)

@[simp] theorem State.askAll_frame (s : State) (eng : ℕ) (thr : ℕ) (index : ℕ) (x4 : ℕ) :
    (State.askAll s eng thr index x4).cycle = s.cycle ∧ (State.askAll s eng thr index x4).subTick = s.subTick ∧
    (State.askAll s eng thr index x4).copy = s.copy ∧ (State.askAll s eng thr index x4).blob = s.blob ∧
    (State.askAll s eng thr index x4).mem = s.mem ∧ (State.askAll s eng thr index x4).arr = s.arr ∧
    (State.askAll s eng thr index x4).hub = s.hub ∧ (State.askAll s eng thr index x4).net = s.net ∧
    (State.askAll s eng thr index x4).isl = s.isl ∧ (State.askAll s eng thr index x4).free = s.free ∧
    (State.askAll s eng thr index x4).pending = s.pending := by
  induction x4 generalizing s with
  | zero => simp [State.askAll]
  | succ k ih =>
    unfold State.askAll
    split
    · rename_i t e
      simp [ih, State.askRemote_frame _ _ _ _ _ e]
    · simp

@[simp] theorem State.askNow_frame (s : State) (eng : ℕ) (thr : ℕ) (index : ℕ) (e : Entry) :
    (State.askNow s eng thr index e).cycle = s.cycle ∧ (State.askNow s eng thr index e).subTick = s.subTick ∧
    (State.askNow s eng thr index e).copy = s.copy ∧ (State.askNow s eng thr index e).blob = s.blob ∧
    (State.askNow s eng thr index e).mem = s.mem ∧ (State.askNow s eng thr index e).arr = s.arr ∧
    (State.askNow s eng thr index e).hub = s.hub ∧ (State.askNow s eng thr index e).net = s.net ∧
    (State.askNow s eng thr index e).isl = s.isl ∧ (State.askNow s eng thr index e).free = s.free ∧
    (State.askNow s eng thr index e).pending = s.pending := by
  simp [State.askNow]

@[simp] theorem State.deliverRow_frame (s : State) (eng : ℕ) (thr : ℕ) (index : ℕ) (t : Thread) (e : Entry) (h : ℕ) (r : ℕ) (bad : Bool) (c : Counts) :
    (State.deliverRow s eng thr index t e h r bad c).1.cycle = s.cycle ∧
    (State.deliverRow s eng thr index t e h r bad c).1.subTick = s.subTick ∧
    (State.deliverRow s eng thr index t e h r bad c).1.copy = s.copy ∧
    (State.deliverRow s eng thr index t e h r bad c).1.blob = s.blob ∧
    (State.deliverRow s eng thr index t e h r bad c).1.arr = s.arr ∧
    (State.deliverRow s eng thr index t e h r bad c).1.net = s.net ∧
    (State.deliverRow s eng thr index t e h r bad c).1.free = s.free ∧
    (State.deliverRow s eng thr index t e h r bad c).1.pending = s.pending := by
  unfold State.deliverRow; split <;> simp

@[simp] theorem State.noteAppend_frame (s : State) (eng : ℕ) (thr : ℕ) (index : ℕ) (g : ℕ) :
    (State.noteAppend s eng thr index g).cycle = s.cycle ∧ (State.noteAppend s eng thr index g).subTick = s.subTick ∧
    (State.noteAppend s eng thr index g).obj = s.obj ∧ (State.noteAppend s eng thr index g).copy = s.copy ∧
    (State.noteAppend s eng thr index g).blob = s.blob ∧ (State.noteAppend s eng thr index g).mem = s.mem ∧
    (State.noteAppend s eng thr index g).arr = s.arr ∧ (State.noteAppend s eng thr index g).hub = s.hub ∧
    (State.noteAppend s eng thr index g).net = s.net ∧ (State.noteAppend s eng thr index g).fab = s.fab ∧
    (State.noteAppend s eng thr index g).isl = s.isl ∧ (State.noteAppend s eng thr index g).free = s.free ∧
    (State.noteAppend s eng thr index g).pending = s.pending := by
  simp [State.noteAppend]

@[simp] theorem State.sendEntry_frame (s : State) (eng : ℕ) (thr : ℕ) (index : ℕ) (t : Thread) (e : Entry) (h : ℕ) (bad : Bool) :
    (State.sendEntry s eng thr index t e h bad).1.cycle = s.cycle ∧
    (State.sendEntry s eng thr index t e h bad).1.subTick = s.subTick ∧
    (State.sendEntry s eng thr index t e h bad).1.copy = s.copy ∧
    (State.sendEntry s eng thr index t e h bad).1.blob = s.blob ∧
    (State.sendEntry s eng thr index t e h bad).1.arr = s.arr ∧
    (State.sendEntry s eng thr index t e h bad).1.net = s.net ∧
    (State.sendEntry s eng thr index t e h bad).1.free = s.free ∧
    (State.sendEntry s eng thr index t e h bad).1.pending = s.pending := by
  unfold State.sendEntry
  refine ⟨?_, ?_, ?_, ?_, ?_, ?_, ?_, ?_⟩
  repeat' (first
    | with_reducible rfl
    | simp; done
    | split
    | apply And.intro
    | intro _
    | with_reducible refine (foldl_frame _ _ ?_ _ _).trans ?_
    | with_reducible refine (foldl_frame_fst _ _ ?_ _ _).trans ?_
    | with_reducible refine (foldl_frame_snd _ _ ?_ _ _).trans ?_
    | with_reducible refine (foldl_frame_mid _ _ ?_ _ _).trans ?_
    | with_reducible refine (foldl_frame_last2 _ _ ?_ _ _).trans ?_
    | with_reducible refine (foldl_frame_last3 _ _ ?_ _ _).trans ?_
    | simp)

theorem State.requestLine_frame (s : State) (eng thr used : Nat) (t : State) (e : s.requestLine eng thr used = some t) :
    t.cycle = s.cycle ∧ t.subTick = s.subTick ∧ t.copy = s.copy ∧ t.blob = s.blob ∧ t.mem = s.mem ∧ t.arr = s.arr ∧ t.hub = s.hub ∧ t.net = s.net ∧ t.fab = s.fab ∧ t.isl = s.isl ∧ t.free = s.free ∧ t.pending = s.pending := by
  unfold State.requestLine at e
  dsimp only at e
  split at e
  · simp at e
  · split at e
    · simp at e
    · simp only [Option.some.injEq] at e
      subst e
      split <;> simp

@[simp] theorem State.threadRequests_frame (s : State) (eng : ℕ) (thr : ℕ) (x3 : ℕ) (x4 : ℕ) :
    (State.threadRequests s eng thr x3 x4).1.cycle = s.cycle ∧
    (State.threadRequests s eng thr x3 x4).1.subTick = s.subTick ∧
    (State.threadRequests s eng thr x3 x4).1.copy = s.copy ∧ (State.threadRequests s eng thr x3 x4).1.blob = s.blob ∧
    (State.threadRequests s eng thr x3 x4).1.mem = s.mem ∧ (State.threadRequests s eng thr x3 x4).1.arr = s.arr ∧
    (State.threadRequests s eng thr x3 x4).1.hub = s.hub ∧ (State.threadRequests s eng thr x3 x4).1.net = s.net ∧
    (State.threadRequests s eng thr x3 x4).1.fab = s.fab ∧ (State.threadRequests s eng thr x3 x4).1.isl = s.isl ∧
    (State.threadRequests s eng thr x3 x4).1.free = s.free ∧
    (State.threadRequests s eng thr x3 x4).1.pending = s.pending := by
  induction x3 generalizing s x4 with
  | zero => simp [State.threadRequests]
  | succ k ih =>
    unfold State.threadRequests
    split
    · rename_i t e
      simp [ih, State.requestLine_frame _ _ _ _ _ e]
    · simp

@[simp] theorem State.engineRequests_frame (s : State) (eng : ℕ) :
    (State.engineRequests s eng).cycle = s.cycle ∧ (State.engineRequests s eng).subTick = s.subTick ∧
    (State.engineRequests s eng).copy = s.copy ∧ (State.engineRequests s eng).blob = s.blob ∧
    (State.engineRequests s eng).mem = s.mem ∧ (State.engineRequests s eng).arr = s.arr ∧
    (State.engineRequests s eng).hub = s.hub ∧ (State.engineRequests s eng).net = s.net ∧
    (State.engineRequests s eng).fab = s.fab ∧ (State.engineRequests s eng).isl = s.isl ∧
    (State.engineRequests s eng).free = s.free ∧ (State.engineRequests s eng).pending = s.pending := by
  unfold State.engineRequests
  repeat' (first
    | with_reducible rfl | (simp; done) | split | apply And.intro | (intro _)
    | (with_reducible refine (foldl_frame _ _ ?_ _ _).trans ?_)
    | (with_reducible refine (foldl_frame_fst _ _ ?_ _ _).trans ?_)
    | (with_reducible refine (foldl_frame_snd _ _ ?_ _ _).trans ?_)
    | (with_reducible refine (foldl_frame_mid _ _ ?_ _ _).trans ?_)
    | (with_reducible refine (foldl_frame_last2 _ _ ?_ _ _).trans ?_)
    | (with_reducible refine (foldl_frame_last3 _ _ ?_ _ _).trans ?_) | simp)

@[simp] theorem State.clearMark_frame (s : State) (eng : ℕ) (thr : ℕ) (index : ℕ) (addr : ℕ) :
    (State.clearMark s eng thr index addr).cycle = s.cycle ∧
    (State.clearMark s eng thr index addr).subTick = s.subTick ∧ (State.clearMark s eng thr index addr).obj = s.obj ∧
    (State.clearMark s eng thr index addr).copy = s.copy ∧ (State.clearMark s eng thr index addr).blob = s.blob ∧
    (State.clearMark s eng thr index addr).mem = s.mem ∧ (State.clearMark s eng thr index addr).arr = s.arr ∧
    (State.clearMark s eng thr index addr).hub = s.hub ∧ (State.clearMark s eng thr index addr).net = s.net ∧
    (State.clearMark s eng thr index addr).fab = s.fab ∧ (State.clearMark s eng thr index addr).isl = s.isl ∧
    (State.clearMark s eng thr index addr).free = s.free ∧
    (State.clearMark s eng thr index addr).pending = s.pending := by
  unfold State.clearMark; split <;> simp

@[simp] theorem State.landLine_frame (s : State) (eng : ℕ) (thr : ℕ) (index : ℕ) (l : LineWrite) :
    (State.landLine s eng thr index l).cycle = s.cycle ∧ (State.landLine s eng thr index l).subTick = s.subTick ∧
    (State.landLine s eng thr index l).copy = s.copy ∧ (State.landLine s eng thr index l).blob = s.blob ∧
    (State.landLine s eng thr index l).arr = s.arr ∧ (State.landLine s eng thr index l).hub = s.hub ∧
    (State.landLine s eng thr index l).net = s.net ∧ (State.landLine s eng thr index l).isl = s.isl ∧
    (State.landLine s eng thr index l).free = s.free ∧ (State.landLine s eng thr index l).pending = s.pending := by
  simp [State.landLine]

@[simp] theorem State.landEntry_frame (s : State) (eng : ℕ) (thr : ℕ) (x : IssuedEntry) :
    (State.landEntry s eng thr x).cycle = s.cycle ∧ (State.landEntry s eng thr x).subTick = s.subTick ∧
    (State.landEntry s eng thr x).copy = s.copy ∧ (State.landEntry s eng thr x).blob = s.blob ∧
    (State.landEntry s eng thr x).arr = s.arr ∧ (State.landEntry s eng thr x).hub = s.hub ∧
    (State.landEntry s eng thr x).net = s.net ∧ (State.landEntry s eng thr x).isl = s.isl ∧
    (State.landEntry s eng thr x).free = s.free ∧ (State.landEntry s eng thr x).pending = s.pending := by
  unfold State.landEntry
  repeat' (first
    | with_reducible rfl | (simp; done) | split | apply And.intro | (intro _)
    | (with_reducible refine (foldl_frame _ _ ?_ _ _).trans ?_)
    | (with_reducible refine (foldl_frame_fst _ _ ?_ _ _).trans ?_)
    | (with_reducible refine (foldl_frame_snd _ _ ?_ _ _).trans ?_)
    | (with_reducible refine (foldl_frame_mid _ _ ?_ _ _).trans ?_)
    | (with_reducible refine (foldl_frame_last2 _ _ ?_ _ _).trans ?_)
    | (with_reducible refine (foldl_frame_last3 _ _ ?_ _ _).trans ?_) | simp)

@[simp] theorem State.markMore_frame (s : State) (eng : ℕ) (thr : ℕ) (x : IssuedEntry) :
    (State.markMore s eng thr x).cycle = s.cycle ∧ (State.markMore s eng thr x).subTick = s.subTick ∧
    (State.markMore s eng thr x).obj = s.obj ∧ (State.markMore s eng thr x).copy = s.copy ∧
    (State.markMore s eng thr x).blob = s.blob ∧ (State.markMore s eng thr x).mem = s.mem ∧
    (State.markMore s eng thr x).arr = s.arr ∧ (State.markMore s eng thr x).hub = s.hub ∧
    (State.markMore s eng thr x).net = s.net ∧ (State.markMore s eng thr x).fab = s.fab ∧
    (State.markMore s eng thr x).isl = s.isl ∧ (State.markMore s eng thr x).free = s.free ∧
    (State.markMore s eng thr x).pending = s.pending := by
  simp [State.markMore]

@[simp] theorem State.entryCycle_frame (s : State) (eng : ℕ) (thr : ℕ) (x : IssuedEntry) :
    (State.entryCycle s eng thr x).cycle = s.cycle ∧ (State.entryCycle s eng thr x).subTick = s.subTick ∧
    (State.entryCycle s eng thr x).copy = s.copy ∧ (State.entryCycle s eng thr x).blob = s.blob ∧
    (State.entryCycle s eng thr x).arr = s.arr ∧ (State.entryCycle s eng thr x).hub = s.hub ∧
    (State.entryCycle s eng thr x).net = s.net ∧ (State.entryCycle s eng thr x).isl = s.isl ∧
    (State.entryCycle s eng thr x).free = s.free ∧ (State.entryCycle s eng thr x).pending = s.pending := by
  simp [State.entryCycle]

@[simp] theorem State.engineCycle_frame (s : State) (eng : ℕ) :
    (State.engineCycle s eng).cycle = s.cycle ∧ (State.engineCycle s eng).subTick = s.subTick ∧
    (State.engineCycle s eng).copy = s.copy ∧ (State.engineCycle s eng).blob = s.blob ∧
    (State.engineCycle s eng).arr = s.arr ∧ (State.engineCycle s eng).hub = s.hub ∧
    (State.engineCycle s eng).net = s.net ∧ (State.engineCycle s eng).isl = s.isl ∧
    (State.engineCycle s eng).free = s.free ∧ (State.engineCycle s eng).pending = s.pending := by
  unfold State.engineCycle
  repeat' (first
    | with_reducible rfl | (simp; done) | split | apply And.intro | (intro _)
    | (with_reducible refine (foldl_frame _ _ ?_ _ _).trans ?_)
    | (with_reducible refine (foldl_frame_fst _ _ ?_ _ _).trans ?_)
    | (with_reducible refine (foldl_frame_snd _ _ ?_ _ _).trans ?_)
    | (with_reducible refine (foldl_frame_mid _ _ ?_ _ _).trans ?_)
    | (with_reducible refine (foldl_frame_last2 _ _ ?_ _ _).trans ?_)
    | (with_reducible refine (foldl_frame_last3 _ _ ?_ _ _).trans ?_) | simp)

@[simp] theorem State.streamCycle_frame (s : State) :
    (State.streamCycle s).cycle = s.cycle ∧ (State.streamCycle s).subTick = s.subTick ∧
    (State.streamCycle s).copy = s.copy ∧ (State.streamCycle s).blob = s.blob ∧ (State.streamCycle s).arr = s.arr ∧
    (State.streamCycle s).hub = s.hub ∧ (State.streamCycle s).net = s.net ∧ (State.streamCycle s).isl = s.isl ∧
    (State.streamCycle s).free = s.free ∧ (State.streamCycle s).pending = s.pending := by
  unfold State.streamCycle
  repeat' (first
    | with_reducible rfl | (simp; done) | split | apply And.intro | (intro _)
    | (with_reducible refine (foldl_frame _ _ ?_ _ _).trans ?_))

@[simp] theorem State.noteLost_frame (s : State) (unit : ℕ) (cause : ℕ) :
    (State.noteLost s unit cause).cycle = s.cycle ∧ (State.noteLost s unit cause).subTick = s.subTick ∧
    (State.noteLost s unit cause).obj = s.obj ∧ (State.noteLost s unit cause).copy = s.copy ∧
    (State.noteLost s unit cause).blob = s.blob ∧ (State.noteLost s unit cause).mem = s.mem ∧
    (State.noteLost s unit cause).arr = s.arr ∧ (State.noteLost s unit cause).streams = s.streams ∧
    (State.noteLost s unit cause).hub = s.hub ∧ (State.noteLost s unit cause).net = s.net ∧
    (State.noteLost s unit cause).fab = s.fab ∧ (State.noteLost s unit cause).free = s.free ∧
    (State.noteLost s unit cause).pending = s.pending := by
  simp [State.noteLost]

@[simp] theorem State.putBuf_frame (s : State) (k : ℕ) (l : List Xfer) :
    (State.putBuf s k l).cycle = s.cycle ∧ (State.putBuf s k l).subTick = s.subTick ∧
    (State.putBuf s k l).obj = s.obj ∧ (State.putBuf s k l).copy = s.copy ∧ (State.putBuf s k l).blob = s.blob ∧
    (State.putBuf s k l).mem = s.mem ∧ (State.putBuf s k l).arr = s.arr ∧ (State.putBuf s k l).streams = s.streams ∧
    (State.putBuf s k l).hub = s.hub ∧ (State.putBuf s k l).fab = s.fab ∧ (State.putBuf s k l).isl = s.isl ∧
    (State.putBuf s k l).free = s.free ∧ (State.putBuf s k l).pending = s.pending := by
  simp [State.putBuf]

@[simp] theorem State.putArbiter_frame (s : State) (a : Arbiter) :
    (State.putArbiter s a).cycle = s.cycle ∧ (State.putArbiter s a).subTick = s.subTick ∧
    (State.putArbiter s a).obj = s.obj ∧ (State.putArbiter s a).copy = s.copy ∧ (State.putArbiter s a).blob = s.blob ∧
    (State.putArbiter s a).mem = s.mem ∧ (State.putArbiter s a).arr = s.arr ∧
    (State.putArbiter s a).streams = s.streams ∧ (State.putArbiter s a).hub = s.hub ∧
    (State.putArbiter s a).fab = s.fab ∧ (State.putArbiter s a).isl = s.isl ∧ (State.putArbiter s a).free = s.free ∧
    (State.putArbiter s a).pending = s.pending := by
  simp [State.putArbiter]

@[simp] theorem State.putWaiters_frame (s : State) (id : ArbId) (l : List Waiter) :
    (State.putWaiters s id l).cycle = s.cycle ∧ (State.putWaiters s id l).subTick = s.subTick ∧
    (State.putWaiters s id l).obj = s.obj ∧ (State.putWaiters s id l).copy = s.copy ∧
    (State.putWaiters s id l).blob = s.blob ∧ (State.putWaiters s id l).mem = s.mem ∧
    (State.putWaiters s id l).arr = s.arr ∧ (State.putWaiters s id l).streams = s.streams ∧
    (State.putWaiters s id l).hub = s.hub ∧ (State.putWaiters s id l).fab = s.fab ∧
    (State.putWaiters s id l).isl = s.isl ∧ (State.putWaiters s id l).free = s.free ∧
    (State.putWaiters s id l).pending = s.pending := by
  simp [State.putWaiters]

@[simp] theorem State.countLost_frame (s : State) (l : List Waiter) :
    (State.countLost s l).cycle = s.cycle ∧ (State.countLost s l).subTick = s.subTick ∧
    (State.countLost s l).copy = s.copy ∧ (State.countLost s l).blob = s.blob ∧ (State.countLost s l).mem = s.mem ∧
    (State.countLost s l).arr = s.arr ∧ (State.countLost s l).streams = s.streams ∧
    (State.countLost s l).hub = s.hub ∧ (State.countLost s l).net = s.net ∧ (State.countLost s l).fab = s.fab ∧
    (State.countLost s l).isl = s.isl ∧ (State.countLost s l).free = s.free ∧
    (State.countLost s l).pending = s.pending := by
  simp [State.countLost]

@[simp] theorem State.presentJob_frame (s : State) (die : ℕ) (addr : ℕ) (wr : Option Beat) (x : Xfer) :
    (State.presentJob s die addr wr x).cycle = s.cycle ∧ (State.presentJob s die addr wr x).subTick = s.subTick ∧
    (State.presentJob s die addr wr x).obj = s.obj ∧ (State.presentJob s die addr wr x).copy = s.copy ∧
    (State.presentJob s die addr wr x).blob = s.blob ∧ (State.presentJob s die addr wr x).mem = s.mem ∧
    (State.presentJob s die addr wr x).arr = s.arr ∧ (State.presentJob s die addr wr x).streams = s.streams ∧
    (State.presentJob s die addr wr x).hub = s.hub ∧ (State.presentJob s die addr wr x).fab = s.fab ∧
    (State.presentJob s die addr wr x).isl = s.isl ∧ (State.presentJob s die addr wr x).free = s.free ∧
    (State.presentJob s die addr wr x).pending = s.pending := by
  unfold State.presentJob; split <;> simp

@[simp] theorem State.release_frame (s : State) (d : ℕ) (n : ℕ) :
    (State.release s d n).cycle = s.cycle ∧ (State.release s d n).subTick = s.subTick ∧
    (State.release s d n).obj = s.obj ∧ (State.release s d n).copy = s.copy ∧ (State.release s d n).blob = s.blob ∧
    (State.release s d n).mem = s.mem ∧ (State.release s d n).arr = s.arr ∧
    (State.release s d n).streams = s.streams ∧ (State.release s d n).hub = s.hub ∧
    (State.release s d n).fab = s.fab ∧ (State.release s d n).isl = s.isl ∧ (State.release s d n).free = s.free ∧
    (State.release s d n).pending = s.pending := by
  simp [State.release]

@[simp] theorem State.finishXfer_frame (s : State) (die : ℕ) (x : Xfer) :
    (State.finishXfer s die x).cycle = s.cycle ∧ (State.finishXfer s die x).subTick = s.subTick ∧
    (State.finishXfer s die x).obj = s.obj ∧ (State.finishXfer s die x).copy = s.copy ∧
    (State.finishXfer s die x).blob = s.blob ∧ (State.finishXfer s die x).mem = s.mem ∧
    (State.finishXfer s die x).arr = s.arr ∧ (State.finishXfer s die x).streams = s.streams ∧
    (State.finishXfer s die x).hub = s.hub ∧ (State.finishXfer s die x).fab = s.fab ∧
    (State.finishXfer s die x).isl = s.isl ∧ (State.finishXfer s die x).free = s.free ∧
    (State.finishXfer s die x).pending = s.pending := by
  unfold State.finishXfer
  repeat' (first
    | with_reducible rfl | (simp; done) | split | apply And.intro | (intro _)
    | (with_reducible refine (foldl_frame _ _ ?_ _ _).trans ?_))

@[simp] theorem State.reachEnd_frame (s : State) (die : ℕ) (x : Xfer) :
    (State.reachEnd s die x).cycle = s.cycle ∧ (State.reachEnd s die x).subTick = s.subTick ∧
    (State.reachEnd s die x).obj = s.obj ∧ (State.reachEnd s die x).copy = s.copy ∧
    (State.reachEnd s die x).blob = s.blob ∧ (State.reachEnd s die x).mem = s.mem ∧
    (State.reachEnd s die x).arr = s.arr ∧ (State.reachEnd s die x).streams = s.streams ∧
    (State.reachEnd s die x).hub = s.hub ∧ (State.reachEnd s die x).fab = s.fab ∧
    (State.reachEnd s die x).isl = s.isl ∧ (State.reachEnd s die x).free = s.free ∧
    (State.reachEnd s die x).pending = s.pending := by
  simp [State.reachEnd]

@[simp] theorem State.answerLost_frame (s : State) (x : Xfer) :
    (State.answerLost s x).cycle = s.cycle ∧ (State.answerLost s x).subTick = s.subTick ∧
    (State.answerLost s x).copy = s.copy ∧ (State.answerLost s x).blob = s.blob ∧ (State.answerLost s x).mem = s.mem ∧
    (State.answerLost s x).arr = s.arr ∧ (State.answerLost s x).streams = s.streams ∧
    (State.answerLost s x).hub = s.hub ∧ (State.answerLost s x).fab = s.fab ∧ (State.answerLost s x).isl = s.isl ∧
    (State.answerLost s x).free = s.free ∧ (State.answerLost s x).pending = s.pending := by
  unfold State.answerLost; split <;> simp

@[simp] theorem State.takeBeats_frame (s : State) (die : ℕ) (port : ℕ) (x : Xfer) :
    (State.takeBeats s die port x).cycle = s.cycle ∧ (State.takeBeats s die port x).subTick = s.subTick ∧
    (State.takeBeats s die port x).copy = s.copy ∧ (State.takeBeats s die port x).blob = s.blob ∧
    (State.takeBeats s die port x).mem = s.mem ∧ (State.takeBeats s die port x).arr = s.arr ∧
    (State.takeBeats s die port x).streams = s.streams ∧ (State.takeBeats s die port x).hub = s.hub ∧
    (State.takeBeats s die port x).fab = s.fab ∧ (State.takeBeats s die port x).isl = s.isl ∧
    (State.takeBeats s die port x).free = s.free ∧ (State.takeBeats s die port x).pending = s.pending := by
  unfold State.takeBeats; (repeat' split) <;> simp

@[simp] theorem State.noteXfer_frame (s : State) (x : Xfer) :
    (State.noteXfer s x).cycle = s.cycle ∧ (State.noteXfer s x).subTick = s.subTick ∧
    (State.noteXfer s x).copy = s.copy ∧ (State.noteXfer s x).blob = s.blob ∧ (State.noteXfer s x).mem = s.mem ∧
    (State.noteXfer s x).arr = s.arr ∧ (State.noteXfer s x).streams = s.streams ∧ (State.noteXfer s x).hub = s.hub ∧
    (State.noteXfer s x).fab = s.fab ∧ (State.noteXfer s x).isl = s.isl ∧ (State.noteXfer s x).free = s.free ∧
    (State.noteXfer s x).pending = s.pending := by
  simp [State.noteXfer]

@[simp] theorem State.enterFrame_frame (s : State) (src : ℕ) (die : ℕ) (port : ℕ) (f : Frame) :
    (State.enterFrame s src die port f).cycle = s.cycle ∧ (State.enterFrame s src die port f).subTick = s.subTick ∧
    (State.enterFrame s src die port f).copy = s.copy ∧ (State.enterFrame s src die port f).blob = s.blob ∧
    (State.enterFrame s src die port f).mem = s.mem ∧ (State.enterFrame s src die port f).arr = s.arr ∧
    (State.enterFrame s src die port f).streams = s.streams ∧ (State.enterFrame s src die port f).hub = s.hub ∧
    (State.enterFrame s src die port f).fab = s.fab ∧ (State.enterFrame s src die port f).isl = s.isl ∧
    (State.enterFrame s src die port f).free = s.free ∧ (State.enterFrame s src die port f).pending = s.pending := by
  unfold State.enterFrame
  repeat' (first
    | with_reducible rfl | (simp; done) | split | apply And.intro | (intro _)
    | (with_reducible refine (foldl_frame _ _ ?_ _ _).trans ?_)
    | (with_reducible refine (foldl_frame_fst _ _ ?_ _ _).trans ?_)
    | (with_reducible refine (foldl_frame_snd _ _ ?_ _ _).trans ?_)
    | (with_reducible refine (foldl_frame_mid _ _ ?_ _ _).trans ?_)
    | (with_reducible refine (foldl_frame_last2 _ _ ?_ _ _).trans ?_)
    | (with_reducible refine (foldl_frame_last3 _ _ ?_ _ _).trans ?_) | simp)

@[simp] theorem State.owe_frame (s : State) (a : OwedLine) :
    (State.owe s a).cycle = s.cycle ∧ (State.owe s a).subTick = s.subTick ∧ (State.owe s a).obj = s.obj ∧
    (State.owe s a).copy = s.copy ∧ (State.owe s a).blob = s.blob ∧ (State.owe s a).mem = s.mem ∧
    (State.owe s a).arr = s.arr ∧ (State.owe s a).streams = s.streams ∧ (State.owe s a).hub = s.hub ∧
    (State.owe s a).fab = s.fab ∧ (State.owe s a).isl = s.isl ∧ (State.owe s a).free = s.free ∧
    (State.owe s a).pending = s.pending := by
  simp [State.owe]

@[simp] theorem State.respond_frame (s : State) (a : OwedLine) :
    (State.respond s a).cycle = s.cycle ∧ (State.respond s a).subTick = s.subTick ∧
    (State.respond s a).copy = s.copy ∧ (State.respond s a).blob = s.blob ∧ (State.respond s a).mem = s.mem ∧
    (State.respond s a).arr = s.arr ∧ (State.respond s a).streams = s.streams ∧ (State.respond s a).hub = s.hub ∧
    (State.respond s a).fab = s.fab ∧ (State.respond s a).isl = s.isl ∧ (State.respond s a).free = s.free ∧
    (State.respond s a).pending = s.pending := by
  simp [State.respond]

@[simp] theorem State.drainEdge_frame (s : State) (die : ℕ) (port : ℕ) :
    (State.drainEdge s die port).cycle = s.cycle ∧ (State.drainEdge s die port).subTick = s.subTick ∧
    (State.drainEdge s die port).obj = s.obj ∧ (State.drainEdge s die port).copy = s.copy ∧
    (State.drainEdge s die port).blob = s.blob ∧ (State.drainEdge s die port).mem = s.mem ∧
    (State.drainEdge s die port).arr = s.arr ∧ (State.drainEdge s die port).streams = s.streams ∧
    (State.drainEdge s die port).hub = s.hub ∧ (State.drainEdge s die port).fab = s.fab ∧
    (State.drainEdge s die port).isl = s.isl ∧ (State.drainEdge s die port).free = s.free ∧
    (State.drainEdge s die port).pending = s.pending := by
  unfold State.drainEdge
  repeat' (first
    | with_reducible rfl | (simp; done) | split | apply And.intro | (intro _)
    | (with_reducible refine (foldl_frame _ _ ?_ _ _).trans ?_))

@[simp] theorem State.netCycle_frame (s : State) :
    (State.netCycle s).cycle = s.cycle ∧ (State.netCycle s).subTick = s.subTick ∧ (State.netCycle s).copy = s.copy ∧
    (State.netCycle s).blob = s.blob ∧ (State.netCycle s).mem = s.mem ∧ (State.netCycle s).arr = s.arr ∧
    (State.netCycle s).streams = s.streams ∧ (State.netCycle s).hub = s.hub ∧ (State.netCycle s).fab = s.fab ∧
    (State.netCycle s).isl = s.isl ∧ (State.netCycle s).free = s.free ∧ (State.netCycle s).pending = s.pending := by
  unfold State.netCycle
  repeat' (first
    | with_reducible rfl | (simp; done) | split | apply And.intro | (intro _)
    | (with_reducible refine (foldl_frame _ _ ?_ _ _).trans ?_))

@[simp] theorem State.startFetch_frame (s : State) (i : ℕ) (d : ℕ) :
    (State.startFetch s i d).cycle = s.cycle ∧ (State.startFetch s i d).subTick = s.subTick ∧
    (State.startFetch s i d).obj = s.obj ∧ (State.startFetch s i d).copy = s.copy ∧
    (State.startFetch s i d).blob = s.blob ∧ (State.startFetch s i d).mem = s.mem ∧
    (State.startFetch s i d).streams = s.streams ∧ (State.startFetch s i d).hub = s.hub ∧
    (State.startFetch s i d).net = s.net ∧ (State.startFetch s i d).fab = s.fab ∧
    (State.startFetch s i d).isl = s.isl ∧ (State.startFetch s i d).free = s.free ∧
    (State.startFetch s i d).pending = s.pending := by
  simp [State.startFetch]

@[simp] theorem State.replan_frame (s : State) (i : ℕ) :
    (State.replan s i).cycle = s.cycle ∧ (State.replan s i).subTick = s.subTick ∧ (State.replan s i).obj = s.obj ∧
    (State.replan s i).copy = s.copy ∧ (State.replan s i).blob = s.blob ∧ (State.replan s i).mem = s.mem ∧
    (State.replan s i).streams = s.streams ∧ (State.replan s i).hub = s.hub ∧ (State.replan s i).net = s.net ∧
    (State.replan s i).fab = s.fab ∧ (State.replan s i).isl = s.isl ∧ (State.replan s i).free = s.free ∧
    (State.replan s i).pending = s.pending := by
  unfold State.replan
  repeat' (first
    | with_reducible rfl | (simp; done) | split | apply And.intro | (intro _)
    | (with_reducible refine (foldl_frame _ _ ?_ _ _).trans ?_))

@[simp] theorem State.finishAbandoned_frame (x0 : ℕ) (x1 : State) :
    (State.finishAbandoned x0 x1).cycle = x1.cycle ∧ (State.finishAbandoned x0 x1).subTick = x1.subTick ∧
    (State.finishAbandoned x0 x1).copy = x1.copy ∧ (State.finishAbandoned x0 x1).blob = x1.blob ∧
    (State.finishAbandoned x0 x1).streams = x1.streams ∧ (State.finishAbandoned x0 x1).net = x1.net ∧
    (State.finishAbandoned x0 x1).free = x1.free ∧ (State.finishAbandoned x0 x1).pending = x1.pending := by
  induction x0 generalizing x1 with
  | zero => simp [State.finishAbandoned]
  | succ k ih =>
    unfold State.finishAbandoned
    repeat' (first | with_reducible rfl | (simp [ih]; done) | split | apply And.intro | intro _ | (with_reducible refine (foldl_frame _ _ ?_ _ _).trans ?_) | simp [ih])

@[simp] theorem State.sortOps_frame (s : State) (abandon : Bool) (lost : Bool) :
    (State.sortOps s abandon lost).cycle = s.cycle ∧ (State.sortOps s abandon lost).subTick = s.subTick ∧
    (State.sortOps s abandon lost).copy = s.copy ∧ (State.sortOps s abandon lost).blob = s.blob ∧
    (State.sortOps s abandon lost).streams = s.streams ∧ (State.sortOps s abandon lost).net = s.net ∧
    (State.sortOps s abandon lost).free = s.free ∧ (State.sortOps s abandon lost).pending = s.pending := by
  unfold State.sortOps
  repeat' (first
    | with_reducible rfl | (simp; done) | split | apply And.intro | (intro _)
    | (with_reducible refine (foldl_frame _ _ ?_ _ _).trans ?_)
    | (with_reducible refine (foldl_frame_fst _ _ ?_ _ _).trans ?_)
    | (with_reducible refine (foldl_frame_snd _ _ ?_ _ _).trans ?_)
    | (with_reducible refine (foldl_frame_mid _ _ ?_ _ _).trans ?_)
    | (with_reducible refine (foldl_frame_last2 _ _ ?_ _ _).trans ?_)
    | (with_reducible refine (foldl_frame_last3 _ _ ?_ _ _).trans ?_) | simp)

@[simp] theorem State.moduleLost_frame (s : State) :
    (State.moduleLost s).cycle = s.cycle ∧ (State.moduleLost s).subTick = s.subTick ∧
    (State.moduleLost s).copy = s.copy ∧ (State.moduleLost s).blob = s.blob ∧ (State.moduleLost s).arr = s.arr ∧
    (State.moduleLost s).streams = s.streams ∧ (State.moduleLost s).net = s.net ∧ (State.moduleLost s).free = s.free ∧
    (State.moduleLost s).pending = s.pending := by
  simp [State.moduleLost]

@[simp] theorem State.lossRecords_frame (s : State) (l : List (ℕ × ℕ)) :
    (State.lossRecords s l).cycle = s.cycle ∧ (State.lossRecords s l).subTick = s.subTick ∧
    (State.lossRecords s l).copy = s.copy ∧ (State.lossRecords s l).blob = s.blob ∧
    (State.lossRecords s l).arr = s.arr ∧ (State.lossRecords s l).streams = s.streams ∧
    (State.lossRecords s l).net = s.net ∧ (State.lossRecords s l).free = s.free ∧
    (State.lossRecords s l).pending = s.pending := by
  unfold State.lossRecords
  repeat' (first
    | with_reducible rfl | (simp; done) | split | apply And.intro | (intro _)
    | (with_reducible refine (foldl_frame _ _ ?_ _ _).trans ?_))

@[simp] theorem State.darken_frame (s : State) (newly : ℕ) :
    (State.darken s newly).cycle = s.cycle ∧ (State.darken s newly).subTick = s.subTick ∧
    (State.darken s newly).copy = s.copy ∧ (State.darken s newly).blob = s.blob ∧
    (State.darken s newly).streams = s.streams ∧ (State.darken s newly).net = s.net ∧
    (State.darken s newly).free = s.free ∧ (State.darken s newly).pending = s.pending := by
  unfold State.darken
  repeat' (first
    | with_reducible rfl | (simp; done) | split | apply And.intro | (intro _)
    | (with_reducible refine (foldl_frame _ _ ?_ _ _).trans ?_))

@[simp] theorem State.setUnits_frame (s : State) (fenced : ℕ) (stk : ℕ) (active : List ℕ) :
    (State.setUnits s fenced stk active).cycle = s.cycle ∧ (State.setUnits s fenced stk active).subTick = s.subTick ∧
    (State.setUnits s fenced stk active).copy = s.copy ∧ (State.setUnits s fenced stk active).blob = s.blob ∧
    (State.setUnits s fenced stk active).mem = s.mem ∧ (State.setUnits s fenced stk active).arr = s.arr ∧
    (State.setUnits s fenced stk active).streams = s.streams ∧ (State.setUnits s fenced stk active).hub = s.hub ∧
    (State.setUnits s fenced stk active).net = s.net ∧ (State.setUnits s fenced stk active).fab = s.fab ∧
    (State.setUnits s fenced stk active).isl = s.isl ∧ (State.setUnits s fenced stk active).free = s.free ∧
    (State.setUnits s fenced stk active).pending = s.pending := by
  simp [State.setUnits]

@[simp] theorem State.killEngines_frame (s : State) (newly : ℕ) :
    (State.killEngines s newly).cycle = s.cycle ∧ (State.killEngines s newly).subTick = s.subTick ∧
    (State.killEngines s newly).copy = s.copy ∧ (State.killEngines s newly).blob = s.blob ∧
    (State.killEngines s newly).arr = s.arr ∧ (State.killEngines s newly).net = s.net ∧
    (State.killEngines s newly).free = s.free ∧ (State.killEngines s newly).pending = s.pending := by
  unfold State.killEngines
  repeat' (first
    | with_reducible rfl | (simp; done) | split | apply And.intro | (intro _)
    | (with_reducible refine (foldl_frame _ _ ?_ _ _).trans ?_))

@[simp] theorem State.answerHeld_frame (s : State) (newly : ℕ) (active : List ℕ) :
    (State.answerHeld s newly active).cycle = s.cycle ∧ (State.answerHeld s newly active).subTick = s.subTick ∧
    (State.answerHeld s newly active).copy = s.copy ∧ (State.answerHeld s newly active).blob = s.blob ∧
    (State.answerHeld s newly active).mem = s.mem ∧ (State.answerHeld s newly active).arr = s.arr ∧
    (State.answerHeld s newly active).streams = s.streams ∧ (State.answerHeld s newly active).hub = s.hub ∧
    (State.answerHeld s newly active).fab = s.fab ∧ (State.answerHeld s newly active).isl = s.isl ∧
    (State.answerHeld s newly active).free = s.free ∧ (State.answerHeld s newly active).pending = s.pending := by
  unfold State.answerHeld
  repeat' (first
    | with_reducible rfl | (simp; done) | split | apply And.intro | (intro _)
    | (with_reducible refine (foldl_frame _ _ ?_ _ _).trans ?_))

@[simp] theorem State.loseUnits_frame (s : State) (direct : List (ℕ × ℕ)) (stks : ℕ) :
    (State.loseUnits s direct stks).cycle = s.cycle ∧ (State.loseUnits s direct stks).subTick = s.subTick ∧
    (State.loseUnits s direct stks).copy = s.copy ∧ (State.loseUnits s direct stks).blob = s.blob ∧
    (State.loseUnits s direct stks).free = s.free ∧ (State.loseUnits s direct stks).pending = s.pending := by
  unfold State.loseUnits
  refine ⟨?_, ?_, ?_, ?_, ?_, ?_⟩
  repeat' (first
    | with_reducible rfl
    | simp; done
    | split
    | apply And.intro
    | intro _
    | with_reducible refine (foldl_frame _ _ ?_ _ _).trans ?_
    | with_reducible refine (foldl_frame_fst _ _ ?_ _ _).trans ?_
    | with_reducible refine (foldl_frame_snd _ _ ?_ _ _).trans ?_
    | with_reducible refine (foldl_frame_mid _ _ ?_ _ _).trans ?_
    | with_reducible refine (foldl_frame_last2 _ _ ?_ _ _).trans ?_
    | with_reducible refine (foldl_frame_last3 _ _ ?_ _ _).trans ?_
    | simp)

@[simp] theorem State.settleFence_frame (s : State) :
    (State.settleFence s).cycle = s.cycle ∧ (State.settleFence s).subTick = s.subTick ∧
    (State.settleFence s).copy = s.copy ∧ (State.settleFence s).blob = s.blob ∧ (State.settleFence s).free = s.free ∧
    (State.settleFence s).pending = s.pending := by
  simp [State.settleFence]

@[simp] theorem State.refuseOp_frame (s : State) (i : ℕ) (status : ℕ) (xcode : ℕ) (found : ℕ) :
    (State.refuseOp s i status xcode found).cycle = s.cycle ∧
    (State.refuseOp s i status xcode found).subTick = s.subTick ∧
    (State.refuseOp s i status xcode found).obj = s.obj ∧ (State.refuseOp s i status xcode found).copy = s.copy ∧
    (State.refuseOp s i status xcode found).blob = s.blob ∧ (State.refuseOp s i status xcode found).mem = s.mem ∧
    (State.refuseOp s i status xcode found).streams = s.streams ∧
    (State.refuseOp s i status xcode found).hub = s.hub ∧ (State.refuseOp s i status xcode found).net = s.net ∧
    (State.refuseOp s i status xcode found).fab = s.fab ∧ (State.refuseOp s i status xcode found).isl = s.isl ∧
    (State.refuseOp s i status xcode found).free = s.free ∧
    (State.refuseOp s i status xcode found).pending = s.pending := by
  simp [State.refuseOp]

@[simp] theorem State.countPlan_frame (s : State) (i : ℕ) (pl : Plan) (pc : PlanCounts) :
    (State.countPlan s i pl pc).cycle = s.cycle ∧ (State.countPlan s i pl pc).subTick = s.subTick ∧
    (State.countPlan s i pl pc).copy = s.copy ∧ (State.countPlan s i pl pc).blob = s.blob ∧
    (State.countPlan s i pl pc).mem = s.mem ∧ (State.countPlan s i pl pc).streams = s.streams ∧
    (State.countPlan s i pl pc).hub = s.hub ∧ (State.countPlan s i pl pc).net = s.net ∧
    (State.countPlan s i pl pc).fab = s.fab ∧ (State.countPlan s i pl pc).isl = s.isl ∧
    (State.countPlan s i pl pc).free = s.free ∧ (State.countPlan s i pl pc).pending = s.pending := by
  simp [State.countPlan]

@[simp] theorem State.lastingReads_frame (s : State) (i : ℕ) (die : ℕ) (pl : Plan) :
    (State.lastingReads s i die pl).cycle = s.cycle ∧ (State.lastingReads s i die pl).subTick = s.subTick ∧
    (State.lastingReads s i die pl).copy = s.copy ∧ (State.lastingReads s i die pl).blob = s.blob ∧
    (State.lastingReads s i die pl).streams = s.streams ∧ (State.lastingReads s i die pl).net = s.net ∧
    (State.lastingReads s i die pl).free = s.free ∧ (State.lastingReads s i die pl).pending = s.pending := by
  unfold State.lastingReads
  repeat' (first
    | with_reducible rfl | (simp; done) | split | apply And.intro | (intro _)
    | (with_reducible refine (foldl_frame _ _ ?_ _ _).trans ?_)
    | (with_reducible refine (foldl_frame_fst _ _ ?_ _ _).trans ?_)
    | (with_reducible refine (foldl_frame_snd _ _ ?_ _ _).trans ?_)
    | (with_reducible refine (foldl_frame_mid _ _ ?_ _ _).trans ?_)
    | (with_reducible refine (foldl_frame_last2 _ _ ?_ _ _).trans ?_)
    | (with_reducible refine (foldl_frame_last3 _ _ ?_ _ _).trans ?_) | simp)

@[simp] theorem State.allClosed_frame (s : State) (i : ℕ) :
    (State.allClosed s i).cycle = s.cycle ∧ (State.allClosed s i).subTick = s.subTick ∧
    (State.allClosed s i).copy = s.copy ∧ (State.allClosed s i).blob = s.blob ∧ (State.allClosed s i).free = s.free ∧
    (State.allClosed s i).pending = s.pending := by
  unfold State.allClosed
  refine ⟨?_, ?_, ?_, ?_, ?_, ?_⟩
  repeat' (first
    | with_reducible rfl
    | simp; done
    | split
    | apply And.intro
    | intro _
    | with_reducible refine (foldl_frame _ _ ?_ _ _).trans ?_
    | with_reducible refine (foldl_frame_fst _ _ ?_ _ _).trans ?_
    | with_reducible refine (foldl_frame_snd _ _ ?_ _ _).trans ?_
    | with_reducible refine (foldl_frame_mid _ _ ?_ _ _).trans ?_
    | with_reducible refine (foldl_frame_last2 _ _ ?_ _ _).trans ?_
    | with_reducible refine (foldl_frame_last3 _ _ ?_ _ _).trans ?_
    | simp)

@[simp] theorem State.advance_frame (s : State) (i : ℕ) (die : ℕ) :
    (State.advance s i die).cycle = s.cycle ∧ (State.advance s i die).subTick = s.subTick ∧
    (State.advance s i die).copy = s.copy ∧ (State.advance s i die).blob = s.blob ∧
    (State.advance s i die).free = s.free ∧ (State.advance s i die).pending = s.pending := by
  simp [State.advance]

@[simp] theorem State.proceed_frame (s : State) (i : ℕ) (die : ℕ) :
    (State.proceed s i die).cycle = s.cycle ∧ (State.proceed s i die).subTick = s.subTick ∧
    (State.proceed s i die).copy = s.copy ∧ (State.proceed s i die).blob = s.blob ∧
    (State.proceed s i die).free = s.free ∧ (State.proceed s i die).pending = s.pending := by
  simp [State.proceed]

@[simp] theorem State.forecast_frame (s : State) (i : ℕ) :
    (State.forecast s i).cycle = s.cycle ∧ (State.forecast s i).subTick = s.subTick ∧
    (State.forecast s i).copy = s.copy ∧ (State.forecast s i).blob = s.blob ∧
    (State.forecast s i).streams = s.streams ∧ (State.forecast s i).net = s.net ∧ (State.forecast s i).free = s.free ∧
    (State.forecast s i).pending = s.pending := by
  unfold State.forecast
  repeat' (first
    | with_reducible rfl | (simp; done) | split | apply And.intro | (intro _)
    | (with_reducible refine (foldl_frame _ _ ?_ _ _).trans ?_)
    | (with_reducible refine (foldl_frame_fst _ _ ?_ _ _).trans ?_)
    | (with_reducible refine (foldl_frame_snd _ _ ?_ _ _).trans ?_)
    | (with_reducible refine (foldl_frame_mid _ _ ?_ _ _).trans ?_)
    | (with_reducible refine (foldl_frame_last2 _ _ ?_ _ _).trans ?_)
    | (with_reducible refine (foldl_frame_last3 _ _ ?_ _ _).trans ?_) | simp)

@[simp] theorem State.countSlip_frame (s : State) (i : ℕ) (die : ℕ) :
    (State.countSlip s i die).cycle = s.cycle ∧ (State.countSlip s i die).subTick = s.subTick ∧
    (State.countSlip s i die).copy = s.copy ∧ (State.countSlip s i die).blob = s.blob ∧
    (State.countSlip s i die).mem = s.mem ∧ (State.countSlip s i die).streams = s.streams ∧
    (State.countSlip s i die).hub = s.hub ∧ (State.countSlip s i die).net = s.net ∧
    (State.countSlip s i die).fab = s.fab ∧ (State.countSlip s i die).isl = s.isl ∧
    (State.countSlip s i die).free = s.free ∧ (State.countSlip s i die).pending = s.pending := by
  simp [State.countSlip]

@[simp] theorem State.lapCopy_frame (s : State) (i : ℕ) (sender : ℕ) (taker : ℕ) (src : ℕ) (dst : ℕ) (n : ℕ) :
    (State.lapCopy s i sender taker src dst n).cycle = s.cycle ∧
    (State.lapCopy s i sender taker src dst n).subTick = s.subTick ∧
    (State.lapCopy s i sender taker src dst n).copy = s.copy ∧
    (State.lapCopy s i sender taker src dst n).blob = s.blob ∧
    (State.lapCopy s i sender taker src dst n).streams = s.streams ∧
    (State.lapCopy s i sender taker src dst n).hub = s.hub ∧ (State.lapCopy s i sender taker src dst n).net = s.net ∧
    (State.lapCopy s i sender taker src dst n).isl = s.isl ∧
    (State.lapCopy s i sender taker src dst n).free = s.free ∧
    (State.lapCopy s i sender taker src dst n).pending = s.pending := by
  unfold State.lapCopy
  repeat' (first
    | with_reducible rfl | (simp; done) | split | apply And.intro | (intro _)
    | (with_reducible refine (foldl_frame _ _ ?_ _ _).trans ?_)
    | (with_reducible refine (foldl_frame_fst _ _ ?_ _ _).trans ?_)
    | (with_reducible refine (foldl_frame_snd _ _ ?_ _ _).trans ?_)
    | (with_reducible refine (foldl_frame_mid _ _ ?_ _ _).trans ?_)
    | (with_reducible refine (foldl_frame_last2 _ _ ?_ _ _).trans ?_)
    | (with_reducible refine (foldl_frame_last3 _ _ ?_ _ _).trans ?_) | simp)

@[simp] theorem State.accParity_frame (s : State) (die : ℕ) (requester : ℕ) (req : AccReq) (parity : Bool) :
    (State.accParity s die requester req parity).2.cycle = s.cycle ∧
    (State.accParity s die requester req parity).2.subTick = s.subTick ∧
    (State.accParity s die requester req parity).2.copy = s.copy ∧
    (State.accParity s die requester req parity).2.blob = s.blob ∧
    (State.accParity s die requester req parity).2.arr = s.arr ∧
    (State.accParity s die requester req parity).2.streams = s.streams ∧
    (State.accParity s die requester req parity).2.net = s.net ∧
    (State.accParity s die requester req parity).2.free = s.free ∧
    (State.accParity s die requester req parity).2.pending = s.pending := by
  unfold State.accParity; split <;> simp

@[simp] theorem State.rowWon_frame (s : State) (die : ℕ) (bank : ℕ) (requester : ℕ) :
    (State.rowWon s die bank requester).cycle = s.cycle ∧ (State.rowWon s die bank requester).subTick = s.subTick ∧
    (State.rowWon s die bank requester).obj = s.obj ∧ (State.rowWon s die bank requester).copy = s.copy ∧
    (State.rowWon s die bank requester).blob = s.blob ∧ (State.rowWon s die bank requester).mem = s.mem ∧
    (State.rowWon s die bank requester).arr = s.arr ∧ (State.rowWon s die bank requester).streams = s.streams ∧
    (State.rowWon s die bank requester).hub = s.hub ∧ (State.rowWon s die bank requester).fab = s.fab ∧
    (State.rowWon s die bank requester).isl = s.isl ∧ (State.rowWon s die bank requester).free = s.free ∧
    (State.rowWon s die bank requester).pending = s.pending := by
  simp [State.rowWon]

@[simp] theorem State.rowLost_frame (s : State) (die : ℕ) (bank : ℕ) (requester : ℕ) :
    (State.rowLost s die bank requester).cycle = s.cycle ∧ (State.rowLost s die bank requester).subTick = s.subTick ∧
    (State.rowLost s die bank requester).copy = s.copy ∧ (State.rowLost s die bank requester).blob = s.blob ∧
    (State.rowLost s die bank requester).mem = s.mem ∧ (State.rowLost s die bank requester).arr = s.arr ∧
    (State.rowLost s die bank requester).streams = s.streams ∧ (State.rowLost s die bank requester).hub = s.hub ∧
    (State.rowLost s die bank requester).fab = s.fab ∧ (State.rowLost s die bank requester).isl = s.isl ∧
    (State.rowLost s die bank requester).free = s.free ∧
    (State.rowLost s die bank requester).pending = s.pending := by
  simp [State.rowLost]

@[simp] theorem State.presentRow_frame (s : State) (i : ℕ) (die : ℕ) (requester : ℕ) (errs : List WordErr) (parity : Bool) :
    (State.presentRow s i die requester errs parity).cycle = s.cycle ∧
    (State.presentRow s i die requester errs parity).subTick = s.subTick ∧
    (State.presentRow s i die requester errs parity).copy = s.copy ∧
    (State.presentRow s i die requester errs parity).blob = s.blob ∧
    (State.presentRow s i die requester errs parity).streams = s.streams ∧
    (State.presentRow s i die requester errs parity).free = s.free ∧
    (State.presentRow s i die requester errs parity).pending = s.pending := by
  unfold State.presentRow
  repeat' (first
    | with_reducible rfl | (simp; done) | split | apply And.intro | (intro _)
    | (with_reducible refine (foldl_frame _ _ ?_ _ _).trans ?_)
    | (with_reducible refine (foldl_frame_fst _ _ ?_ _ _).trans ?_)
    | (with_reducible refine (foldl_frame_snd _ _ ?_ _ _).trans ?_)
    | (with_reducible refine (foldl_frame_mid _ _ ?_ _ _).trans ?_)
    | (with_reducible refine (foldl_frame_last2 _ _ ?_ _ _).trans ?_)
    | (with_reducible refine (foldl_frame_last3 _ _ ?_ _ _).trans ?_) | simp)

@[simp] theorem State.onRecord_frame (s : State) (rq : Requester) (f : Counts → Counts) :
    (State.onRecord s rq f).cycle = s.cycle ∧ (State.onRecord s rq f).subTick = s.subTick ∧
    (State.onRecord s rq f).obj = s.obj ∧ (State.onRecord s rq f).copy = s.copy ∧
    (State.onRecord s rq f).blob = s.blob ∧ (State.onRecord s rq f).mem = s.mem ∧
    (State.onRecord s rq f).hub = s.hub ∧ (State.onRecord s rq f).net = s.net ∧ (State.onRecord s rq f).fab = s.fab ∧
    (State.onRecord s rq f).isl = s.isl ∧ (State.onRecord s rq f).free = s.free ∧
    (State.onRecord s rq f).pending = s.pending := by
  unfold State.onRecord; (repeat' split) <;> simp

@[simp] theorem State.oweWriteback_frame (s : State) (line : ℕ) (d : Decoded) :
    (State.oweWriteback s line d).cycle = s.cycle ∧ (State.oweWriteback s line d).subTick = s.subTick ∧
    (State.oweWriteback s line d).obj = s.obj ∧ (State.oweWriteback s line d).copy = s.copy ∧
    (State.oweWriteback s line d).blob = s.blob ∧ (State.oweWriteback s line d).arr = s.arr ∧
    (State.oweWriteback s line d).streams = s.streams ∧ (State.oweWriteback s line d).hub = s.hub ∧
    (State.oweWriteback s line d).net = s.net ∧ (State.oweWriteback s line d).fab = s.fab ∧
    (State.oweWriteback s line d).isl = s.isl ∧ (State.oweWriteback s line d).free = s.free ∧
    (State.oweWriteback s line d).pending = s.pending := by
  simp [State.oweWriteback]

@[simp] theorem State.noteWear_frame (s : State) (unit : ℕ) :
    (State.noteWear s unit).cycle = s.cycle ∧ (State.noteWear s unit).subTick = s.subTick ∧
    (State.noteWear s unit).obj = s.obj ∧ (State.noteWear s unit).copy = s.copy ∧
    (State.noteWear s unit).blob = s.blob ∧ (State.noteWear s unit).mem = s.mem ∧
    (State.noteWear s unit).arr = s.arr ∧ (State.noteWear s unit).streams = s.streams ∧
    (State.noteWear s unit).hub = s.hub ∧ (State.noteWear s unit).net = s.net ∧ (State.noteWear s unit).fab = s.fab ∧
    (State.noteWear s unit).free = s.free ∧ (State.noteWear s unit).pending = s.pending := by
  simp [State.noteWear]

@[simp] theorem State.takeChannel_frame (s : State) (ch : ℕ) (n : ℕ) :
    (State.takeChannel s ch n).cycle = s.cycle ∧ (State.takeChannel s ch n).subTick = s.subTick ∧
    (State.takeChannel s ch n).obj = s.obj ∧ (State.takeChannel s ch n).copy = s.copy ∧
    (State.takeChannel s ch n).blob = s.blob ∧ (State.takeChannel s ch n).arr = s.arr ∧
    (State.takeChannel s ch n).streams = s.streams ∧ (State.takeChannel s ch n).hub = s.hub ∧
    (State.takeChannel s ch n).net = s.net ∧ (State.takeChannel s ch n).fab = s.fab ∧
    (State.takeChannel s ch n).isl = s.isl ∧ (State.takeChannel s ch n).free = s.free ∧
    (State.takeChannel s ch n).pending = s.pending := by
  simp [State.takeChannel]

@[simp] theorem State.deliverLine_frame (s : State) (rq : Requester) (wait : ℕ) (addr : ℕ) (data : List Byte) (poison : Bool) :
    (State.deliverLine s rq wait addr data poison).cycle = s.cycle ∧
    (State.deliverLine s rq wait addr data poison).subTick = s.subTick ∧
    (State.deliverLine s rq wait addr data poison).obj = s.obj ∧
    (State.deliverLine s rq wait addr data poison).copy = s.copy ∧
    (State.deliverLine s rq wait addr data poison).blob = s.blob ∧
    (State.deliverLine s rq wait addr data poison).arr = s.arr ∧
    (State.deliverLine s rq wait addr data poison).streams = s.streams ∧
    (State.deliverLine s rq wait addr data poison).hub = s.hub ∧
    (State.deliverLine s rq wait addr data poison).net = s.net ∧
    (State.deliverLine s rq wait addr data poison).fab = s.fab ∧
    (State.deliverLine s rq wait addr data poison).isl = s.isl ∧
    (State.deliverLine s rq wait addr data poison).free = s.free ∧
    (State.deliverLine s rq wait addr data poison).pending = s.pending := by
  simp [State.deliverLine]

@[simp] theorem State.acceptRead_frame (s : State) (die : ℕ) (off : ℕ) (addr : ℕ) (rq : Requester) (waited : ℕ) (reply : Option (ℕ × ℕ)) :
    (State.acceptRead s die off addr rq waited reply).cycle = s.cycle ∧
    (State.acceptRead s die off addr rq waited reply).subTick = s.subTick ∧
    (State.acceptRead s die off addr rq waited reply).obj = s.obj ∧
    (State.acceptRead s die off addr rq waited reply).copy = s.copy ∧
    (State.acceptRead s die off addr rq waited reply).blob = s.blob ∧
    (State.acceptRead s die off addr rq waited reply).arr = s.arr ∧
    (State.acceptRead s die off addr rq waited reply).streams = s.streams ∧
    (State.acceptRead s die off addr rq waited reply).hub = s.hub ∧
    (State.acceptRead s die off addr rq waited reply).net = s.net ∧
    (State.acceptRead s die off addr rq waited reply).fab = s.fab ∧
    (State.acceptRead s die off addr rq waited reply).isl = s.isl ∧
    (State.acceptRead s die off addr rq waited reply).free = s.free ∧
    (State.acceptRead s die off addr rq waited reply).pending = s.pending := by
  simp [State.acceptRead]

@[simp] theorem State.uncorrRecord_frame (s : State) (p : Place) (data : List Byte) :
    (State.uncorrRecord s p data).cycle = s.cycle ∧ (State.uncorrRecord s p data).subTick = s.subTick ∧
    (State.uncorrRecord s p data).copy = s.copy ∧ (State.uncorrRecord s p data).blob = s.blob ∧
    (State.uncorrRecord s p data).arr = s.arr ∧ (State.uncorrRecord s p data).streams = s.streams ∧
    (State.uncorrRecord s p data).net = s.net ∧ (State.uncorrRecord s p data).free = s.free ∧
    (State.uncorrRecord s p data).pending = s.pending := by
  unfold State.uncorrRecord; split <;> simp

@[simp] theorem State.lineDecoded_frame (s : State) (p : Place) (addr : ℕ) (rq : Requester) (tag : U16) (d : Decoded) (stale : Bool) :
    (State.lineDecoded s p addr rq tag d stale).cycle = s.cycle ∧
    (State.lineDecoded s p addr rq tag d stale).subTick = s.subTick ∧
    (State.lineDecoded s p addr rq tag d stale).copy = s.copy ∧
    (State.lineDecoded s p addr rq tag d stale).blob = s.blob ∧
    (State.lineDecoded s p addr rq tag d stale).net = s.net ∧
    (State.lineDecoded s p addr rq tag d stale).free = s.free ∧
    (State.lineDecoded s p addr rq tag d stale).pending = s.pending := by
  unfold State.lineDecoded; (repeat' split) <;> simp

@[simp] theorem State.countCorrection_frame (s : State) (p : Place) (n : ℕ) :
    (State.countCorrection s p n).cycle = s.cycle ∧ (State.countCorrection s p n).subTick = s.subTick ∧
    (State.countCorrection s p n).copy = s.copy ∧ (State.countCorrection s p n).blob = s.blob ∧
    (State.countCorrection s p n).mem = s.mem ∧ (State.countCorrection s p n).arr = s.arr ∧
    (State.countCorrection s p n).streams = s.streams ∧ (State.countCorrection s p n).hub = s.hub ∧
    (State.countCorrection s p n).net = s.net ∧ (State.countCorrection s p n).fab = s.fab ∧
    (State.countCorrection s p n).free = s.free ∧ (State.countCorrection s p n).pending = s.pending := by
  unfold State.countCorrection; split <;> simp

@[simp] theorem State.resumeDie_frame (s : State) (die : ℕ) :
    (State.resumeDie s die).cycle = s.cycle ∧ (State.resumeDie s die).subTick = s.subTick ∧
    (State.resumeDie s die).copy = s.copy ∧ (State.resumeDie s die).blob = s.blob ∧
    (State.resumeDie s die).free = s.free ∧ (State.resumeDie s die).pending = s.pending := by
  unfold State.resumeDie; split <;> simp

@[simp] theorem State.mergeLine_frame (s : State) (p : Place) (l : ℕ) (enable : U64) (data : List Byte) (poison : Bool) (rq : Requester) (err : List (ℕ × Byte)) :
    (State.mergeLine s p l enable data poison rq err).cycle = s.cycle ∧
    (State.mergeLine s p l enable data poison rq err).subTick = s.subTick ∧
    (State.mergeLine s p l enable data poison rq err).copy = s.copy ∧
    (State.mergeLine s p l enable data poison rq err).blob = s.blob ∧
    (State.mergeLine s p l enable data poison rq err).net = s.net ∧
    (State.mergeLine s p l enable data poison rq err).free = s.free ∧
    (State.mergeLine s p l enable data poison rq err).pending = s.pending := by
  simp [State.mergeLine]

@[simp] theorem State.oweScrub_frame (s : State) (line : ℕ) (tag : U16) (d : Decoded) :
    (State.oweScrub s line tag d).cycle = s.cycle ∧ (State.oweScrub s line tag d).subTick = s.subTick ∧
    (State.oweScrub s line tag d).obj = s.obj ∧ (State.oweScrub s line tag d).copy = s.copy ∧
    (State.oweScrub s line tag d).blob = s.blob ∧ (State.oweScrub s line tag d).arr = s.arr ∧
    (State.oweScrub s line tag d).streams = s.streams ∧ (State.oweScrub s line tag d).hub = s.hub ∧
    (State.oweScrub s line tag d).net = s.net ∧ (State.oweScrub s line tag d).fab = s.fab ∧
    (State.oweScrub s line tag d).isl = s.isl ∧ (State.oweScrub s line tag d).free = s.free ∧
    (State.oweScrub s line tag d).pending = s.pending := by
  unfold State.oweScrub; split <;> simp

@[simp] theorem State.scrubLine_frame (s : State) (p : Place) (l : ℕ) (err : List (ℕ × Byte)) :
    (State.scrubLine s p l err).cycle = s.cycle ∧ (State.scrubLine s p l err).subTick = s.subTick ∧
    (State.scrubLine s p l err).copy = s.copy ∧ (State.scrubLine s p l err).blob = s.blob ∧
    (State.scrubLine s p l err).net = s.net ∧ (State.scrubLine s p l err).free = s.free ∧
    (State.scrubLine s p l err).pending = s.pending := by
  simp [State.scrubLine]

@[simp] theorem State.takeBank_frame (s : State) (die : ℕ) (bank : ℕ) :
    (State.takeBank s die bank).cycle = s.cycle ∧ (State.takeBank s die bank).subTick = s.subTick ∧
    (State.takeBank s die bank).obj = s.obj ∧ (State.takeBank s die bank).copy = s.copy ∧
    (State.takeBank s die bank).blob = s.blob ∧ (State.takeBank s die bank).arr = s.arr ∧
    (State.takeBank s die bank).streams = s.streams ∧ (State.takeBank s die bank).hub = s.hub ∧
    (State.takeBank s die bank).net = s.net ∧ (State.takeBank s die bank).fab = s.fab ∧
    (State.takeBank s die bank).isl = s.isl ∧ (State.takeBank s die bank).free = s.free ∧
    (State.takeBank s die bank).pending = s.pending := by
  simp [State.takeBank]

@[simp] theorem State.bankAccess_frame (s : State) (rq : Requester) (die : ℕ) (o : ℕ) (wr : Option SpWrite) (errs : List WordErr) (parity : Bool) :
    (State.bankAccess s rq die o wr errs parity).cycle = s.cycle ∧
    (State.bankAccess s rq die o wr errs parity).subTick = s.subTick ∧
    (State.bankAccess s rq die o wr errs parity).copy = s.copy ∧
    (State.bankAccess s rq die o wr errs parity).blob = s.blob ∧
    (State.bankAccess s rq die o wr errs parity).arr = s.arr ∧
    (State.bankAccess s rq die o wr errs parity).streams = s.streams ∧
    (State.bankAccess s rq die o wr errs parity).net = s.net ∧
    (State.bankAccess s rq die o wr errs parity).free = s.free ∧
    (State.bankAccess s rq die o wr errs parity).pending = s.pending := by
  unfold State.bankAccess; (repeat' split) <;> simp

@[simp] theorem State.writeSpEnable_frame (s : State) (die : ℕ) (mask : U64) :
    (State.writeSpEnable s die mask).cycle = s.cycle ∧ (State.writeSpEnable s die mask).subTick = s.subTick ∧
    (State.writeSpEnable s die mask).copy = s.copy ∧ (State.writeSpEnable s die mask).blob = s.blob ∧
    (State.writeSpEnable s die mask).arr = s.arr ∧ (State.writeSpEnable s die mask).streams = s.streams ∧
    (State.writeSpEnable s die mask).hub = s.hub ∧ (State.writeSpEnable s die mask).net = s.net ∧
    (State.writeSpEnable s die mask).fab = s.fab ∧ (State.writeSpEnable s die mask).isl = s.isl ∧
    (State.writeSpEnable s die mask).free = s.free ∧ (State.writeSpEnable s die mask).pending = s.pending := by
  simp [State.writeSpEnable]

@[simp] theorem State.readyDie_frame (s : State) (die : ℕ) :
    (State.readyDie s die).cycle = s.cycle ∧ (State.readyDie s die).subTick = s.subTick ∧
    (State.readyDie s die).copy = s.copy ∧ (State.readyDie s die).blob = s.blob ∧ (State.readyDie s die).arr = s.arr ∧
    (State.readyDie s die).streams = s.streams ∧ (State.readyDie s die).net = s.net ∧
    (State.readyDie s die).free = s.free ∧ (State.readyDie s die).pending = s.pending := by
  simp [State.readyDie]

@[simp] theorem State.writeHbmMode_frame (s : State) (v : Byte) :
    (State.writeHbmMode s v).cycle = s.cycle ∧ (State.writeHbmMode s v).subTick = s.subTick ∧
    (State.writeHbmMode s v).copy = s.copy ∧ (State.writeHbmMode s v).blob = s.blob ∧
    (State.writeHbmMode s v).arr = s.arr ∧ (State.writeHbmMode s v).streams = s.streams ∧
    (State.writeHbmMode s v).hub = s.hub ∧ (State.writeHbmMode s v).net = s.net ∧
    (State.writeHbmMode s v).fab = s.fab ∧ (State.writeHbmMode s v).isl = s.isl ∧
    (State.writeHbmMode s v).free = s.free ∧ (State.writeHbmMode s v).pending = s.pending := by
  unfold State.writeHbmMode
  repeat' (first
    | with_reducible rfl | (simp; done) | split | apply And.intro | (intro _)
    | (with_reducible refine (foldl_frame _ _ ?_ _ _).trans ?_))

@[simp] theorem State.writeDdrMode_frame (s : State) (v : Byte) :
    (State.writeDdrMode s v).cycle = s.cycle ∧ (State.writeDdrMode s v).subTick = s.subTick ∧
    (State.writeDdrMode s v).copy = s.copy ∧ (State.writeDdrMode s v).blob = s.blob ∧
    (State.writeDdrMode s v).mem = s.mem ∧ (State.writeDdrMode s v).arr = s.arr ∧
    (State.writeDdrMode s v).streams = s.streams ∧ (State.writeDdrMode s v).hub = s.hub ∧
    (State.writeDdrMode s v).net = s.net ∧ (State.writeDdrMode s v).fab = s.fab ∧
    (State.writeDdrMode s v).isl = s.isl ∧ (State.writeDdrMode s v).free = s.free ∧
    (State.writeDdrMode s v).pending = s.pending := by
  simp [State.writeDdrMode]

@[simp] theorem State.putDdrState_frame (s : State) (c : ℕ) (st : ℕ) :
    (State.putDdrState s c st).cycle = s.cycle ∧ (State.putDdrState s c st).subTick = s.subTick ∧
    (State.putDdrState s c st).copy = s.copy ∧ (State.putDdrState s c st).blob = s.blob ∧
    (State.putDdrState s c st).mem = s.mem ∧ (State.putDdrState s c st).arr = s.arr ∧
    (State.putDdrState s c st).streams = s.streams ∧ (State.putDdrState s c st).hub = s.hub ∧
    (State.putDdrState s c st).net = s.net ∧ (State.putDdrState s c st).fab = s.fab ∧
    (State.putDdrState s c st).isl = s.isl ∧ (State.putDdrState s c st).free = s.free ∧
    (State.putDdrState s c st).pending = s.pending := by
  simp [State.putDdrState]

@[simp] theorem State.markInterleaved_frame (s : State) (l : List ℕ) :
    (State.markInterleaved s l).cycle = s.cycle ∧ (State.markInterleaved s l).subTick = s.subTick ∧
    (State.markInterleaved s l).copy = s.copy ∧ (State.markInterleaved s l).blob = s.blob ∧
    (State.markInterleaved s l).mem = s.mem ∧ (State.markInterleaved s l).arr = s.arr ∧
    (State.markInterleaved s l).streams = s.streams ∧ (State.markInterleaved s l).hub = s.hub ∧
    (State.markInterleaved s l).net = s.net ∧ (State.markInterleaved s l).fab = s.fab ∧
    (State.markInterleaved s l).isl = s.isl ∧ (State.markInterleaved s l).free = s.free ∧
    (State.markInterleaved s l).pending = s.pending := by
  unfold State.markInterleaved
  repeat' (first
    | with_reducible rfl | (simp; done) | split | apply And.intro | (intro _)
    | (with_reducible refine (foldl_frame _ _ ?_ _ _).trans ?_))

@[simp] theorem State.chooseLayout_frame (s : State) (k : ℕ) :
    (State.chooseLayout s k).cycle = s.cycle ∧ (State.chooseLayout s k).subTick = s.subTick ∧
    (State.chooseLayout s k).copy = s.copy ∧ (State.chooseLayout s k).blob = s.blob ∧
    (State.chooseLayout s k).arr = s.arr ∧ (State.chooseLayout s k).streams = s.streams ∧
    (State.chooseLayout s k).hub = s.hub ∧ (State.chooseLayout s k).net = s.net ∧
    (State.chooseLayout s k).fab = s.fab ∧ (State.chooseLayout s k).isl = s.isl ∧
    (State.chooseLayout s k).free = s.free ∧ (State.chooseLayout s k).pending = s.pending := by
  simp [State.chooseLayout]

@[simp] theorem State.writeWindow_frame (s : State) (t : ℕ) (fld : ℕ) (v : ℕ) :
    (State.writeWindow s t fld v).1.cycle = s.cycle ∧ (State.writeWindow s t fld v).1.subTick = s.subTick ∧
    (State.writeWindow s t fld v).1.copy = s.copy ∧ (State.writeWindow s t fld v).1.blob = s.blob ∧
    (State.writeWindow s t fld v).1.mem = s.mem ∧ (State.writeWindow s t fld v).1.arr = s.arr ∧
    (State.writeWindow s t fld v).1.streams = s.streams ∧ (State.writeWindow s t fld v).1.hub = s.hub ∧
    (State.writeWindow s t fld v).1.net = s.net ∧ (State.writeWindow s t fld v).1.fab = s.fab ∧
    (State.writeWindow s t fld v).1.isl = s.isl ∧ (State.writeWindow s t fld v).1.free = s.free ∧
    (State.writeWindow s t fld v).1.pending = s.pending := by
  unfold State.writeWindow; split <;> simp

@[simp] theorem State.issueAdvance_frame (s : State) :
    (State.issueAdvance s).cycle = s.cycle ∧ (State.issueAdvance s).subTick = s.subTick ∧
    (State.issueAdvance s).obj = s.obj ∧ (State.issueAdvance s).copy = s.copy ∧ (State.issueAdvance s).blob = s.blob ∧
    (State.issueAdvance s).mem = s.mem ∧ (State.issueAdvance s).arr = s.arr ∧
    (State.issueAdvance s).streams = s.streams ∧ (State.issueAdvance s).net = s.net ∧
    (State.issueAdvance s).fab = s.fab ∧ (State.issueAdvance s).isl = s.isl ∧ (State.issueAdvance s).free = s.free ∧
    (State.issueAdvance s).pending = s.pending := by
  simp [State.issueAdvance]

theorem State.issueHead_frame (s : State) (x : IssueEntry) (t : State) (e : s.issueHead = some (x, t)) :
    t.cycle = s.cycle ∧ t.subTick = s.subTick ∧ t.copy = s.copy ∧ t.blob = s.blob ∧ t.mem = s.mem ∧ t.arr = s.arr ∧
    t.streams = s.streams ∧ t.hub = s.hub ∧ t.net = s.net ∧ t.fab = s.fab ∧ t.isl = s.isl ∧ t.free = s.free ∧ t.pending = s.pending := by
  unfold State.issueHead at e
  dsimp only at e
  split at e
  · simp at e
  · simp only [Option.some.injEq, Prod.mk.injEq] at e
    rw [← e.2]
    simp

/-- What the hub's look at the issue ring leaves alone, its taking does if what is taken does. -/
theorem State.takeIssue_keeps {β : Type} (P : State → β) (s : State) (take : IssueEntry → State → Option State)
    (hc : ∀ u : State, P (u.ringCheck 0) = P u) (hr : ∀ (u : State) (r : Ring), P (u.putRing 0 r) = P u)
    (hh : ∀ (u v : State) (x : IssueEntry), u.issueHead = some (x, v) → P v = P u)
    (ht : ∀ (x : IssueEntry) (u v : State), take x u = some v → P v = P u) : P (s.takeIssue take) = P s := by
  unfold State.takeIssue
  split
  · dsimp only
    split
    · exact hc s
    · rename_i x s1 e
      split
      · rename_i s2 e2
        rw [ht _ _ _ e2]
        unfold State.issueAdvance
        rw [hr, hh _ _ _ e, hc]
      · exact hc s
  · rfl


@[simp] theorem State.takeOperation_frame (s : State) (k : OpKind) :
    (State.takeOperation s k).cycle = s.cycle ∧ (State.takeOperation s k).subTick = s.subTick ∧
    (State.takeOperation s k).copy = s.copy ∧ (State.takeOperation s k).blob = s.blob ∧
    (State.takeOperation s k).streams = s.streams ∧ (State.takeOperation s k).net = s.net ∧
    (State.takeOperation s k).free = s.free ∧ (State.takeOperation s k).pending = s.pending := by
  unfold State.takeOperation
  refine ⟨?_, ?_, ?_, ?_, ?_, ?_, ?_, ?_⟩
  all_goals
    refine State.takeIssue_keeps _ _ _ (by intros; simp) (by intros; simp) (fun u v x e => by simp [State.issueHead_frame _ _ _ e]) ?_
    intro x u v e
    dsimp only at e
    split at e
    · simp at e
    · simp only [Option.some.injEq] at e; subst e; simp

/-- Taking a command keeps what the look at the ring and the command keep. -/
theorem State.takeCommand_keeps {β : Type} (P : State → β) (s : State) (p : Command → Bool) (f : Command → State → State)
    (hc : ∀ u : State, P (u.ringCheck 0) = P u) (hr : ∀ (u : State) (r : Ring), P (u.putRing 0 r) = P u)
    (hh : ∀ (u v : State) (x : IssueEntry), u.issueHead = some (x, v) → P v = P u)
    (hm : ∀ (u : State) (a n : Nat), P (u.readPhys a n).2.2.2 = P u)
    (h : ∀ (c : Command) (u : State), P (f c u) = P u) : P (s.takeCommand p f) = P s := by
  refine State.takeIssue_keeps P _ _ hc hr hh ?_
  intro x u v e
  dsimp only at e
  split at e
  · simp at e
  · simp only [Option.some.injEq] at e
    subst e
    rw [h, hm]

/-- A command allowed or refused keeps what both keep. -/
theorem State.allowed_keeps {β : Type} (P : State → β) (s : State) (c : Command) (f : State → State)
    (hb : ∀ (u : State) (n k : Nat), P (u.bump n k) = P u)
    (hr : ∀ (u : State) (a b c' d e f' g : Nat), P (u.commandRecord a b c' d e f' g) = P u)
    (h : P (f s) = P s) : P (s.allowed c f) = P s := by
  unfold State.allowed
  split
  · exact h
  · rw [hr, hb]

end Sys2Proof.Machine
end

