-- ==== Sys2Proof/Laws/FramesFabric.lean ====
section
/-!
SUPPORT. What the fabric, its groups and its twins leave untouched: for each operation, the components of the state it
does not write, once, so that a proof about a command does not unfold the operations the command is made of.
Modules in order: Rings, FabricMsg, Multicast, Twin, FabricLink, Welt.
-/

namespace Sys2Proof.Machine

@[simp] theorem State.lacePush_frame (s : State) (eng : ℕ) (lace : ℕ) (h : U32) :
    (State.lacePush s eng lace h).cycle = s.cycle ∧ (State.lacePush s eng lace h).subTick = s.subTick ∧
    (State.lacePush s eng lace h).copy = s.copy ∧ (State.lacePush s eng lace h).blob = s.blob ∧
    (State.lacePush s eng lace h).mem = s.mem ∧ (State.lacePush s eng lace h).arr = s.arr ∧
    (State.lacePush s eng lace h).hub = s.hub ∧ (State.lacePush s eng lace h).net = s.net ∧
    (State.lacePush s eng lace h).fab = s.fab ∧ (State.lacePush s eng lace h).isl = s.isl ∧
    (State.lacePush s eng lace h).free = s.free ∧ (State.lacePush s eng lace h).pending = s.pending := by
  simp [State.lacePush]

@[simp] theorem State.lacePop_frame (s : State) (eng : ℕ) (lace : ℕ) :
    (State.lacePop s eng lace).2.cycle = s.cycle ∧ (State.lacePop s eng lace).2.subTick = s.subTick ∧
    (State.lacePop s eng lace).2.copy = s.copy ∧ (State.lacePop s eng lace).2.blob = s.blob ∧
    (State.lacePop s eng lace).2.mem = s.mem ∧ (State.lacePop s eng lace).2.arr = s.arr ∧
    (State.lacePop s eng lace).2.hub = s.hub ∧ (State.lacePop s eng lace).2.net = s.net ∧
    (State.lacePop s eng lace).2.fab = s.fab ∧ (State.lacePop s eng lace).2.isl = s.isl ∧
    (State.lacePop s eng lace).2.free = s.free ∧ (State.lacePop s eng lace).2.pending = s.pending := by
  unfold State.lacePop
  repeat' (first
    | with_reducible rfl | (simp; done) | split | apply And.intro | (intro _)
    | (with_reducible refine (foldl_frame _ _ ?_ _ _).trans ?_)
    | (with_reducible refine (foldl_frame_fst _ _ ?_ _ _).trans ?_)
    | (with_reducible refine (foldl_frame_snd _ _ ?_ _ _).trans ?_)
    | (with_reducible refine (foldl_frame_mid _ _ ?_ _ _).trans ?_)
    | (with_reducible refine (foldl_frame_last2 _ _ ?_ _ _).trans ?_)
    | (with_reducible refine (foldl_frame_last3 _ _ ?_ _ _).trans ?_) | simp)

@[simp] theorem State.laceClear_frame (s : State) (eng : ℕ) (lace : ℕ) (v : ℕ) :
    (State.laceClear s eng lace v).cycle = s.cycle ∧ (State.laceClear s eng lace v).subTick = s.subTick ∧
    (State.laceClear s eng lace v).obj = s.obj ∧ (State.laceClear s eng lace v).copy = s.copy ∧
    (State.laceClear s eng lace v).blob = s.blob ∧ (State.laceClear s eng lace v).mem = s.mem ∧
    (State.laceClear s eng lace v).arr = s.arr ∧ (State.laceClear s eng lace v).hub = s.hub ∧
    (State.laceClear s eng lace v).net = s.net ∧ (State.laceClear s eng lace v).fab = s.fab ∧
    (State.laceClear s eng lace v).isl = s.isl ∧ (State.laceClear s eng lace v).free = s.free ∧
    (State.laceClear s eng lace v).pending = s.pending := by
  simp [State.laceClear]

@[simp] theorem State.returned_frame (s : State) (v : List Byte) :
    (State.returned s v).cycle = s.cycle ∧ (State.returned s v).subTick = s.subTick ∧
    (State.returned s v).obj = s.obj ∧ (State.returned s v).copy = s.copy ∧ (State.returned s v).blob = s.blob ∧
    (State.returned s v).mem = s.mem ∧ (State.returned s v).arr = s.arr ∧ (State.returned s v).streams = s.streams ∧
    (State.returned s v).net = s.net ∧ (State.returned s v).fab = s.fab ∧ (State.returned s v).isl = s.isl ∧
    (State.returned s v).free = s.free ∧ (State.returned s v).pending = s.pending := by
  simp [State.returned]

@[simp] theorem State.ringUncorrectable_frame (s : State) (n : ℕ) :
    (State.ringUncorrectable s n).cycle = s.cycle ∧ (State.ringUncorrectable s n).subTick = s.subTick ∧
    (State.ringUncorrectable s n).copy = s.copy ∧ (State.ringUncorrectable s n).blob = s.blob ∧
    (State.ringUncorrectable s n).arr = s.arr ∧ (State.ringUncorrectable s n).streams = s.streams ∧
    (State.ringUncorrectable s n).net = s.net ∧ (State.ringUncorrectable s n).free = s.free ∧
    (State.ringUncorrectable s n).pending = s.pending := by
  simp [State.ringUncorrectable]

@[simp] theorem State.ringPush_frame (s0 : State) (n : ℕ) (entry : List Byte) :
    (State.ringPush s0 n entry).cycle = s0.cycle ∧ (State.ringPush s0 n entry).subTick = s0.subTick ∧
    (State.ringPush s0 n entry).copy = s0.copy ∧ (State.ringPush s0 n entry).blob = s0.blob ∧
    (State.ringPush s0 n entry).arr = s0.arr ∧ (State.ringPush s0 n entry).streams = s0.streams ∧
    (State.ringPush s0 n entry).net = s0.net ∧ (State.ringPush s0 n entry).free = s0.free ∧
    (State.ringPush s0 n entry).pending = s0.pending := by
  simp [State.ringPush]

@[simp] theorem State.ringPop_frame (s0 : State) (n : ℕ) :
    (State.ringPop s0 n).2.cycle = s0.cycle ∧ (State.ringPop s0 n).2.subTick = s0.subTick ∧
    (State.ringPop s0 n).2.copy = s0.copy ∧ (State.ringPop s0 n).2.blob = s0.blob ∧
    (State.ringPop s0 n).2.arr = s0.arr ∧ (State.ringPop s0 n).2.streams = s0.streams ∧
    (State.ringPop s0 n).2.net = s0.net ∧ (State.ringPop s0 n).2.free = s0.free ∧
    (State.ringPop s0 n).2.pending = s0.pending := by
  unfold State.ringPop
  repeat' (first
    | with_reducible rfl | (simp; done) | split | apply And.intro | (intro _)
    | (with_reducible refine (foldl_frame _ _ ?_ _ _).trans ?_)
    | (with_reducible refine (foldl_frame_fst _ _ ?_ _ _).trans ?_)
    | (with_reducible refine (foldl_frame_snd _ _ ?_ _ _).trans ?_)
    | (with_reducible refine (foldl_frame_mid _ _ ?_ _ _).trans ?_)
    | (with_reducible refine (foldl_frame_last2 _ _ ?_ _ _).trans ?_)
    | (with_reducible refine (foldl_frame_last3 _ _ ?_ _ _).trans ?_) | simp)

@[simp] theorem State.ringIndex_frame (s0 : State) (n : ℕ) (which : RingIndex) (v : U32) :
    (State.ringIndex s0 n which v).cycle = s0.cycle ∧ (State.ringIndex s0 n which v).subTick = s0.subTick ∧
    (State.ringIndex s0 n which v).copy = s0.copy ∧ (State.ringIndex s0 n which v).blob = s0.blob ∧
    (State.ringIndex s0 n which v).arr = s0.arr ∧ (State.ringIndex s0 n which v).streams = s0.streams ∧
    (State.ringIndex s0 n which v).net = s0.net ∧ (State.ringIndex s0 n which v).free = s0.free ∧
    (State.ringIndex s0 n which v).pending = s0.pending := by
  unfold State.ringIndex; split <;> simp

@[simp] theorem State.ringField_frame (s : State) (n : ℕ) (fld : RingField) (v : ℕ) :
    (State.ringField s n fld v).cycle = s.cycle ∧ (State.ringField s n fld v).subTick = s.subTick ∧
    (State.ringField s n fld v).obj = s.obj ∧ (State.ringField s n fld v).copy = s.copy ∧
    (State.ringField s n fld v).blob = s.blob ∧ (State.ringField s n fld v).mem = s.mem ∧
    (State.ringField s n fld v).arr = s.arr ∧ (State.ringField s n fld v).streams = s.streams ∧
    (State.ringField s n fld v).net = s.net ∧ (State.ringField s n fld v).fab = s.fab ∧
    (State.ringField s n fld v).isl = s.isl ∧ (State.ringField s n fld v).free = s.free ∧
    (State.ringField s n fld v).pending = s.pending := by
  unfold State.ringField; split <;> simp

@[simp] theorem State.putPushBuffer_frame (s : State) (w : RingWriter) (n : ℕ) (b : List Byte) :
    (State.putPushBuffer s w n b).cycle = s.cycle ∧ (State.putPushBuffer s w n b).subTick = s.subTick ∧
    (State.putPushBuffer s w n b).obj = s.obj ∧ (State.putPushBuffer s w n b).copy = s.copy ∧
    (State.putPushBuffer s w n b).blob = s.blob ∧ (State.putPushBuffer s w n b).mem = s.mem ∧
    (State.putPushBuffer s w n b).arr = s.arr ∧ (State.putPushBuffer s w n b).streams = s.streams ∧
    (State.putPushBuffer s w n b).net = s.net ∧ (State.putPushBuffer s w n b).fab = s.fab ∧
    (State.putPushBuffer s w n b).isl = s.isl ∧ (State.putPushBuffer s w n b).free = s.free ∧
    (State.putPushBuffer s w n b).pending = s.pending := by
  unfold State.putPushBuffer; split <;> simp

@[simp] theorem State.pushStore_frame (s : State) (w : RingWriter) (n : ℕ) (off : ℕ) (len : ℕ) (v : ℕ) :
    (State.pushStore s w n off len v).cycle = s.cycle ∧ (State.pushStore s w n off len v).subTick = s.subTick ∧
    (State.pushStore s w n off len v).copy = s.copy ∧ (State.pushStore s w n off len v).blob = s.blob ∧
    (State.pushStore s w n off len v).arr = s.arr ∧ (State.pushStore s w n off len v).streams = s.streams ∧
    (State.pushStore s w n off len v).net = s.net ∧ (State.pushStore s w n off len v).free = s.free ∧
    (State.pushStore s w n off len v).pending = s.pending := by
  simp [State.pushStore]

@[simp] theorem State.syncSet_frame (s : State) (k : ℕ) (v : ℕ) :
    (State.syncSet s k v).cycle = s.cycle ∧ (State.syncSet s k v).subTick = s.subTick ∧
    (State.syncSet s k v).obj = s.obj ∧ (State.syncSet s k v).copy = s.copy ∧ (State.syncSet s k v).blob = s.blob ∧
    (State.syncSet s k v).mem = s.mem ∧ (State.syncSet s k v).arr = s.arr ∧
    (State.syncSet s k v).streams = s.streams ∧ (State.syncSet s k v).net = s.net ∧
    (State.syncSet s k v).fab = s.fab ∧ (State.syncSet s k v).isl = s.isl ∧ (State.syncSet s k v).free = s.free ∧
    (State.syncSet s k v).pending = s.pending := by
  simp [State.syncSet]

@[simp] theorem State.syncWindowAdd_frame (s : State) (k : ℕ) (v : ℕ) :
    (State.syncWindowAdd s k v).cycle = s.cycle ∧ (State.syncWindowAdd s k v).subTick = s.subTick ∧
    (State.syncWindowAdd s k v).obj = s.obj ∧ (State.syncWindowAdd s k v).copy = s.copy ∧
    (State.syncWindowAdd s k v).blob = s.blob ∧ (State.syncWindowAdd s k v).mem = s.mem ∧
    (State.syncWindowAdd s k v).arr = s.arr ∧ (State.syncWindowAdd s k v).streams = s.streams ∧
    (State.syncWindowAdd s k v).net = s.net ∧ (State.syncWindowAdd s k v).fab = s.fab ∧
    (State.syncWindowAdd s k v).isl = s.isl ∧ (State.syncWindowAdd s k v).free = s.free ∧
    (State.syncWindowAdd s k v).pending = s.pending := by
  simp [State.syncWindowAdd]

@[simp] theorem State.freeBuffer_frame (s : State) (p : ℕ) (l : ℕ) :
    (State.freeBuffer s p l).cycle = s.cycle ∧ (State.freeBuffer s p l).subTick = s.subTick ∧
    (State.freeBuffer s p l).obj = s.obj ∧ (State.freeBuffer s p l).copy = s.copy ∧
    (State.freeBuffer s p l).blob = s.blob ∧ (State.freeBuffer s p l).mem = s.mem ∧
    (State.freeBuffer s p l).arr = s.arr ∧ (State.freeBuffer s p l).streams = s.streams ∧
    (State.freeBuffer s p l).hub = s.hub ∧ (State.freeBuffer s p l).net = s.net ∧
    (State.freeBuffer s p l).isl = s.isl ∧ (State.freeBuffer s p l).free = s.free ∧
    (State.freeBuffer s p l).pending = s.pending := by
  simp [State.freeBuffer]

@[simp] theorem State.takeMsg_frame (s : State) (m : Msg) :
    (State.takeMsg s m).2.cycle = s.cycle ∧ (State.takeMsg s m).2.subTick = s.subTick ∧
    (State.takeMsg s m).2.obj = s.obj ∧ (State.takeMsg s m).2.copy = s.copy ∧ (State.takeMsg s m).2.blob = s.blob ∧
    (State.takeMsg s m).2.mem = s.mem ∧ (State.takeMsg s m).2.arr = s.arr ∧
    (State.takeMsg s m).2.streams = s.streams ∧ (State.takeMsg s m).2.hub = s.hub ∧
    (State.takeMsg s m).2.net = s.net ∧ (State.takeMsg s m).2.isl = s.isl ∧ (State.takeMsg s m).2.free = s.free ∧
    (State.takeMsg s m).2.pending = s.pending := by
  unfold State.takeMsg; (repeat' split) <;> simp

@[simp] theorem State.takeKind_frame (s : State) (ok : Msg → Bool) :
    (State.takeKind s ok).2.cycle = s.cycle ∧ (State.takeKind s ok).2.subTick = s.subTick ∧
    (State.takeKind s ok).2.obj = s.obj ∧ (State.takeKind s ok).2.copy = s.copy ∧
    (State.takeKind s ok).2.blob = s.blob ∧ (State.takeKind s ok).2.mem = s.mem ∧
    (State.takeKind s ok).2.arr = s.arr ∧ (State.takeKind s ok).2.streams = s.streams ∧
    (State.takeKind s ok).2.hub = s.hub ∧ (State.takeKind s ok).2.net = s.net ∧ (State.takeKind s ok).2.isl = s.isl ∧
    (State.takeKind s ok).2.free = s.free ∧ (State.takeKind s ok).2.pending = s.pending := by
  unfold State.takeKind; split <;> simp

@[simp] theorem State.dropMsg_frame (s : State) (m : Msg) :
    (State.dropMsg s m).cycle = s.cycle ∧ (State.dropMsg s m).subTick = s.subTick ∧
    (State.dropMsg s m).copy = s.copy ∧ (State.dropMsg s m).blob = s.blob ∧ (State.dropMsg s m).mem = s.mem ∧
    (State.dropMsg s m).arr = s.arr ∧ (State.dropMsg s m).streams = s.streams ∧ (State.dropMsg s m).hub = s.hub ∧
    (State.dropMsg s m).net = s.net ∧ (State.dropMsg s m).isl = s.isl ∧ (State.dropMsg s m).free = s.free ∧
    (State.dropMsg s m).pending = s.pending := by
  simp [State.dropMsg]

@[simp] theorem State.passOn_frame (s : State) (ingress : Option ℕ) (p : ℕ) (m : Msg) :
    (State.passOn s ingress p m).cycle = s.cycle ∧ (State.passOn s ingress p m).subTick = s.subTick ∧
    (State.passOn s ingress p m).copy = s.copy ∧ (State.passOn s ingress p m).blob = s.blob ∧
    (State.passOn s ingress p m).mem = s.mem ∧ (State.passOn s ingress p m).arr = s.arr ∧
    (State.passOn s ingress p m).streams = s.streams ∧ (State.passOn s ingress p m).hub = s.hub ∧
    (State.passOn s ingress p m).net = s.net ∧ (State.passOn s ingress p m).isl = s.isl ∧
    (State.passOn s ingress p m).free = s.free ∧ (State.passOn s ingress p m).pending = s.pending := by
  unfold State.passOn; (repeat' split) <;> simp

@[simp] theorem State.replicateOn_frame (s : State) (ingress : Option ℕ) (g : ℕ) (m : Msg) :
    (State.replicateOn s ingress g m).cycle = s.cycle ∧ (State.replicateOn s ingress g m).subTick = s.subTick ∧
    (State.replicateOn s ingress g m).copy = s.copy ∧ (State.replicateOn s ingress g m).blob = s.blob ∧
    (State.replicateOn s ingress g m).mem = s.mem ∧ (State.replicateOn s ingress g m).arr = s.arr ∧
    (State.replicateOn s ingress g m).streams = s.streams ∧ (State.replicateOn s ingress g m).hub = s.hub ∧
    (State.replicateOn s ingress g m).net = s.net ∧ (State.replicateOn s ingress g m).isl = s.isl ∧
    (State.replicateOn s ingress g m).free = s.free ∧ (State.replicateOn s ingress g m).pending = s.pending := by
  unfold State.replicateOn
  repeat' (first
    | with_reducible rfl | (simp; done) | split | apply And.intro | (intro _)
    | (with_reducible refine (foldl_frame _ _ ?_ _ _).trans ?_))

@[simp] theorem State.forward_frame (s : State) (ingress : Option ℕ) (m : Msg) :
    (State.forward s ingress m).cycle = s.cycle ∧ (State.forward s ingress m).subTick = s.subTick ∧
    (State.forward s ingress m).copy = s.copy ∧ (State.forward s ingress m).blob = s.blob ∧
    (State.forward s ingress m).mem = s.mem ∧ (State.forward s ingress m).arr = s.arr ∧
    (State.forward s ingress m).streams = s.streams ∧ (State.forward s ingress m).hub = s.hub ∧
    (State.forward s ingress m).net = s.net ∧ (State.forward s ingress m).isl = s.isl ∧
    (State.forward s ingress m).free = s.free ∧ (State.forward s ingress m).pending = s.pending := by
  unfold State.forward; (repeat' split) <;> simp

@[simp] theorem State.remotePiece_frame (s : State) (src : ℕ) (a : ℕ) (n : ℕ) :
    (State.remotePiece s src a n).2.2.cycle = s.cycle ∧ (State.remotePiece s src a n).2.2.subTick = s.subTick ∧
    (State.remotePiece s src a n).2.2.copy = s.copy ∧ (State.remotePiece s src a n).2.2.blob = s.blob ∧
    (State.remotePiece s src a n).2.2.mem = s.mem ∧ (State.remotePiece s src a n).2.2.arr = s.arr ∧
    (State.remotePiece s src a n).2.2.streams = s.streams ∧ (State.remotePiece s src a n).2.2.hub = s.hub ∧
    (State.remotePiece s src a n).2.2.net = s.net ∧ (State.remotePiece s src a n).2.2.fab = s.fab ∧
    (State.remotePiece s src a n).2.2.isl = s.isl ∧ (State.remotePiece s src a n).2.2.free = s.free ∧
    (State.remotePiece s src a n).2.2.pending = s.pending := by
  unfold State.remotePiece
  repeat' (first
    | with_reducible rfl | (simp; done) | split | apply And.intro | (intro _)
    | (with_reducible refine (foldl_frame _ _ ?_ _ _).trans ?_)
    | (with_reducible refine (foldl_frame_fst _ _ ?_ _ _).trans ?_)
    | (with_reducible refine (foldl_frame_snd _ _ ?_ _ _).trans ?_)
    | (with_reducible refine (foldl_frame_mid _ _ ?_ _ _).trans ?_)
    | (with_reducible refine (foldl_frame_last2 _ _ ?_ _ _).trans ?_)
    | (with_reducible refine (foldl_frame_last3 _ _ ?_ _ _).trans ?_) | simp)

@[simp] theorem State.remoteFetch_frame (s : State) (src : ℕ) (a : ℕ) (n : ℕ) :
    (State.remoteFetch s src a n).2.2.cycle = s.cycle ∧ (State.remoteFetch s src a n).2.2.subTick = s.subTick ∧
    (State.remoteFetch s src a n).2.2.copy = s.copy ∧ (State.remoteFetch s src a n).2.2.blob = s.blob ∧
    (State.remoteFetch s src a n).2.2.mem = s.mem ∧ (State.remoteFetch s src a n).2.2.arr = s.arr ∧
    (State.remoteFetch s src a n).2.2.streams = s.streams ∧ (State.remoteFetch s src a n).2.2.hub = s.hub ∧
    (State.remoteFetch s src a n).2.2.net = s.net ∧ (State.remoteFetch s src a n).2.2.fab = s.fab ∧
    (State.remoteFetch s src a n).2.2.isl = s.isl ∧ (State.remoteFetch s src a n).2.2.free = s.free ∧
    (State.remoteFetch s src a n).2.2.pending = s.pending := by
  unfold State.remoteFetch
  repeat' (first
    | with_reducible rfl | (simp; done) | split | apply And.intro | (intro _)
    | (with_reducible refine (foldl_frame _ _ ?_ _ _).trans ?_)
    | (with_reducible refine (foldl_frame_fst _ _ ?_ _ _).trans ?_)
    | (with_reducible refine (foldl_frame_snd _ _ ?_ _ _).trans ?_)
    | (with_reducible refine (foldl_frame_mid _ _ ?_ _ _).trans ?_)
    | (with_reducible refine (foldl_frame_last2 _ _ ?_ _ _).trans ?_))

@[simp] theorem State.serveRead_frame (s : State) (m : Msg) :
    (State.serveRead s m).cycle = s.cycle ∧ (State.serveRead s m).subTick = s.subTick ∧
    (State.serveRead s m).copy = s.copy ∧ (State.serveRead s m).blob = s.blob ∧ (State.serveRead s m).mem = s.mem ∧
    (State.serveRead s m).arr = s.arr ∧ (State.serveRead s m).streams = s.streams ∧
    (State.serveRead s m).hub = s.hub ∧ (State.serveRead s m).net = s.net ∧ (State.serveRead s m).isl = s.isl ∧
    (State.serveRead s m).free = s.free ∧ (State.serveRead s m).pending = s.pending := by
  unfold State.serveRead
  repeat' (first
    | with_reducible rfl | (simp; done) | split | apply And.intro | (intro _)
    | (with_reducible refine (foldl_frame _ _ ?_ _ _).trans ?_))

@[simp] theorem State.writeAdmitted_frame (m : Msg) (data : List Byte) (acc : ℕ × State) (p : ℕ × ℕ) :
    (State.writeAdmitted m data acc p).2.cycle = acc.2.cycle ∧
    (State.writeAdmitted m data acc p).2.subTick = acc.2.subTick ∧
    (State.writeAdmitted m data acc p).2.copy = acc.2.copy ∧ (State.writeAdmitted m data acc p).2.blob = acc.2.blob ∧
    (State.writeAdmitted m data acc p).2.arr = acc.2.arr ∧
    (State.writeAdmitted m data acc p).2.streams = acc.2.streams ∧
    (State.writeAdmitted m data acc p).2.hub = acc.2.hub ∧ (State.writeAdmitted m data acc p).2.net = acc.2.net ∧
    (State.writeAdmitted m data acc p).2.isl = acc.2.isl ∧ (State.writeAdmitted m data acc p).2.free = acc.2.free ∧
    (State.writeAdmitted m data acc p).2.pending = acc.2.pending := by
  unfold State.writeAdmitted
  repeat' (first
    | with_reducible rfl | (simp; done) | split | apply And.intro | (intro _)
    | (with_reducible refine (foldl_frame _ _ ?_ _ _).trans ?_)
    | (with_reducible refine (foldl_frame_fst _ _ ?_ _ _).trans ?_)
    | (with_reducible refine (foldl_frame_snd _ _ ?_ _ _).trans ?_)
    | (with_reducible refine (foldl_frame_mid _ _ ?_ _ _).trans ?_)
    | (with_reducible refine (foldl_frame_last2 _ _ ?_ _ _).trans ?_)
    | (with_reducible refine (foldl_frame_last3 _ _ ?_ _ _).trans ?_) | simp)

@[simp] theorem State.serveWrite_frame (s : State) (m : Msg) :
    (State.serveWrite s m).cycle = s.cycle ∧ (State.serveWrite s m).subTick = s.subTick ∧
    (State.serveWrite s m).copy = s.copy ∧ (State.serveWrite s m).blob = s.blob ∧ (State.serveWrite s m).arr = s.arr ∧
    (State.serveWrite s m).streams = s.streams ∧ (State.serveWrite s m).hub = s.hub ∧
    (State.serveWrite s m).net = s.net ∧ (State.serveWrite s m).isl = s.isl ∧ (State.serveWrite s m).free = s.free ∧
    (State.serveWrite s m).pending = s.pending := by
  unfold State.serveWrite
  repeat' (first
    | with_reducible rfl | (simp; done) | split | apply And.intro | (intro _)
    | (with_reducible refine (foldl_frame _ _ ?_ _ _).trans ?_)
    | (with_reducible refine (foldl_frame_fst _ _ ?_ _ _).trans ?_)
    | (with_reducible refine (foldl_frame_snd _ _ ?_ _ _).trans ?_)
    | (with_reducible refine (foldl_frame_mid _ _ ?_ _ _).trans ?_)
    | (with_reducible refine (foldl_frame_last2 _ _ ?_ _ _).trans ?_)
    | (with_reducible refine (foldl_frame_last3 _ _ ?_ _ _).trans ?_) | simp)

@[simp] theorem State.serveSignal_frame (s : State) (m : Msg) :
    (State.serveSignal s m).cycle = s.cycle ∧ (State.serveSignal s m).subTick = s.subTick ∧
    (State.serveSignal s m).copy = s.copy ∧ (State.serveSignal s m).blob = s.blob ∧
    (State.serveSignal s m).mem = s.mem ∧ (State.serveSignal s m).arr = s.arr ∧
    (State.serveSignal s m).streams = s.streams ∧ (State.serveSignal s m).net = s.net ∧
    (State.serveSignal s m).isl = s.isl ∧ (State.serveSignal s m).free = s.free ∧
    (State.serveSignal s m).pending = s.pending := by
  simp [State.serveSignal]

@[simp] theorem State.serveRingPush_frame (s : State) (m : Msg) :
    (State.serveRingPush s m).cycle = s.cycle ∧ (State.serveRingPush s m).subTick = s.subTick ∧
    (State.serveRingPush s m).copy = s.copy ∧ (State.serveRingPush s m).blob = s.blob ∧
    (State.serveRingPush s m).arr = s.arr ∧ (State.serveRingPush s m).streams = s.streams ∧
    (State.serveRingPush s m).net = s.net ∧ (State.serveRingPush s m).free = s.free ∧
    (State.serveRingPush s m).pending = s.pending := by
  simp [State.serveRingPush]

@[simp] theorem State.clipThread_frame (s : State) (eng : ℕ) (thr : ℕ) (ctr : ℕ) (bytes : ℕ) :
    (State.clipThread s eng thr ctr bytes).cycle = s.cycle ∧
    (State.clipThread s eng thr ctr bytes).subTick = s.subTick ∧
    (State.clipThread s eng thr ctr bytes).copy = s.copy ∧ (State.clipThread s eng thr ctr bytes).blob = s.blob ∧
    (State.clipThread s eng thr ctr bytes).mem = s.mem ∧ (State.clipThread s eng thr ctr bytes).arr = s.arr ∧
    (State.clipThread s eng thr ctr bytes).hub = s.hub ∧ (State.clipThread s eng thr ctr bytes).net = s.net ∧
    (State.clipThread s eng thr ctr bytes).fab = s.fab ∧ (State.clipThread s eng thr ctr bytes).isl = s.isl ∧
    (State.clipThread s eng thr ctr bytes).free = s.free ∧
    (State.clipThread s eng thr ctr bytes).pending = s.pending := by
  simp [State.clipThread]

@[simp] theorem State.landData_frame (s : State) (r : RemoteReq) (m : Msg) :
    (State.landData s r m).cycle = s.cycle ∧ (State.landData s r m).subTick = s.subTick ∧
    (State.landData s r m).copy = s.copy ∧ (State.landData s r m).blob = s.blob ∧ (State.landData s r m).arr = s.arr ∧
    (State.landData s r m).net = s.net ∧ (State.landData s r m).free = s.free ∧
    (State.landData s r m).pending = s.pending := by
  unfold State.landData
  repeat' (first
    | with_reducible rfl | (simp; done) | split | apply And.intro | (intro _)
    | (with_reducible refine (foldl_frame _ _ ?_ _ _).trans ?_)
    | (with_reducible refine (foldl_frame_fst _ _ ?_ _ _).trans ?_)
    | (with_reducible refine (foldl_frame_snd _ _ ?_ _ _).trans ?_)
    | (with_reducible refine (foldl_frame_mid _ _ ?_ _ _).trans ?_)
    | (with_reducible refine (foldl_frame_last2 _ _ ?_ _ _).trans ?_)
    | (with_reducible refine (foldl_frame_last3 _ _ ?_ _ _).trans ?_) | simp)

@[simp] theorem State.putSlot_frame (s : State) (c : ℕ) (x : SendSlot) :
    (State.putSlot s c x).cycle = s.cycle ∧ (State.putSlot s c x).subTick = s.subTick ∧
    (State.putSlot s c x).obj = s.obj ∧ (State.putSlot s c x).copy = s.copy ∧ (State.putSlot s c x).blob = s.blob ∧
    (State.putSlot s c x).mem = s.mem ∧ (State.putSlot s c x).arr = s.arr ∧
    (State.putSlot s c x).streams = s.streams ∧ (State.putSlot s c x).net = s.net ∧
    (State.putSlot s c x).fab = s.fab ∧ (State.putSlot s c x).isl = s.isl ∧ (State.putSlot s c x).free = s.free ∧
    (State.putSlot s c x).pending = s.pending := by
  simp [State.putSlot]

@[simp] theorem State.sendFirmware_frame (s : State) (route : List ℕ) (mtype : ℕ) (txtag : ℕ) :
    (State.sendFirmware s route mtype txtag).cycle = s.cycle ∧
    (State.sendFirmware s route mtype txtag).subTick = s.subTick ∧
    (State.sendFirmware s route mtype txtag).copy = s.copy ∧ (State.sendFirmware s route mtype txtag).blob = s.blob ∧
    (State.sendFirmware s route mtype txtag).mem = s.mem ∧ (State.sendFirmware s route mtype txtag).arr = s.arr ∧
    (State.sendFirmware s route mtype txtag).streams = s.streams ∧
    (State.sendFirmware s route mtype txtag).hub = s.hub ∧ (State.sendFirmware s route mtype txtag).net = s.net ∧
    (State.sendFirmware s route mtype txtag).isl = s.isl ∧
    (State.sendFirmware s route mtype txtag).pending = s.pending := by
  simp [State.sendFirmware]

@[simp] theorem State.setTree_frame (s : State) (t : McTree) :
    (State.setTree s t).cycle = s.cycle ∧ (State.setTree s t).subTick = s.subTick ∧
    (State.setTree s t).copy = s.copy ∧ (State.setTree s t).blob = s.blob ∧ (State.setTree s t).mem = s.mem ∧
    (State.setTree s t).arr = s.arr ∧ (State.setTree s t).streams = s.streams ∧ (State.setTree s t).hub = s.hub ∧
    (State.setTree s t).net = s.net ∧ (State.setTree s t).isl = s.isl ∧ (State.setTree s t).free = s.free ∧
    (State.setTree s t).pending = s.pending := by
  simp [State.setTree]

@[simp] theorem State.setRoutes_frame (s : State) (up : List (ℕ × ℕ)) (down : List (ℕ × ℕ)) (trees : List McTree) (twin : List ℕ) (peers : List (ℕ × ℕ)) :
    (State.setRoutes s up down trees twin peers).cycle = s.cycle ∧
    (State.setRoutes s up down trees twin peers).subTick = s.subTick ∧
    (State.setRoutes s up down trees twin peers).copy = s.copy ∧
    (State.setRoutes s up down trees twin peers).blob = s.blob ∧
    (State.setRoutes s up down trees twin peers).mem = s.mem ∧
    (State.setRoutes s up down trees twin peers).arr = s.arr ∧
    (State.setRoutes s up down trees twin peers).streams = s.streams ∧
    (State.setRoutes s up down trees twin peers).hub = s.hub ∧
    (State.setRoutes s up down trees twin peers).net = s.net ∧
    (State.setRoutes s up down trees twin peers).isl = s.isl ∧
    (State.setRoutes s up down trees twin peers).free = s.free ∧
    (State.setRoutes s up down trees twin peers).pending = s.pending := by
  unfold State.setRoutes
  repeat' (first
    | with_reducible rfl | (simp; done) | split | apply And.intro | (intro _)
    | (with_reducible refine (foldl_frame _ _ ?_ _ _).trans ?_))

@[simp] theorem State.dropUnreached_frame (s : State) (g : ℕ) :
    (State.dropUnreached s g).cycle = s.cycle ∧ (State.dropUnreached s g).subTick = s.subTick ∧
    (State.dropUnreached s g).copy = s.copy ∧ (State.dropUnreached s g).blob = s.blob ∧
    (State.dropUnreached s g).arr = s.arr ∧ (State.dropUnreached s g).streams = s.streams ∧
    (State.dropUnreached s g).net = s.net ∧ (State.dropUnreached s g).free = s.free ∧
    (State.dropUnreached s g).pending = s.pending := by
  unfold State.dropUnreached
  repeat' (first
    | with_reducible rfl | (simp; done) | split | apply And.intro | (intro _)
    | (with_reducible refine (foldl_frame _ _ ?_ _ _).trans ?_))

@[simp] theorem State.endSweep_frame (s : State) :
    (State.endSweep s).cycle = s.cycle ∧ (State.endSweep s).subTick = s.subTick ∧ (State.endSweep s).copy = s.copy ∧
    (State.endSweep s).blob = s.blob ∧ (State.endSweep s).arr = s.arr ∧ (State.endSweep s).streams = s.streams ∧
    (State.endSweep s).net = s.net ∧ (State.endSweep s).free = s.free ∧ (State.endSweep s).pending = s.pending := by
  unfold State.endSweep
  repeat' (first
    | with_reducible rfl | (simp; done) | split | apply And.intro | (intro _)
    | (with_reducible refine (foldl_frame _ _ ?_ _ _).trans ?_)
    | (with_reducible refine (foldl_frame_fst _ _ ?_ _ _).trans ?_)
    | (with_reducible refine (foldl_frame_snd _ _ ?_ _ _).trans ?_)
    | (with_reducible refine (foldl_frame_mid _ _ ?_ _ _).trans ?_)
    | (with_reducible refine (foldl_frame_last2 _ _ ?_ _ _).trans ?_)
    | (with_reducible refine (foldl_frame_last3 _ _ ?_ _ _).trans ?_) | simp)

@[simp] theorem State.sendProbe_frame (s : State) (route : List ℕ) :
    (State.sendProbe s route).cycle = s.cycle ∧ (State.sendProbe s route).subTick = s.subTick ∧
    (State.sendProbe s route).copy = s.copy ∧ (State.sendProbe s route).blob = s.blob ∧
    (State.sendProbe s route).mem = s.mem ∧ (State.sendProbe s route).arr = s.arr ∧
    (State.sendProbe s route).streams = s.streams ∧ (State.sendProbe s route).hub = s.hub ∧
    (State.sendProbe s route).net = s.net ∧ (State.sendProbe s route).isl = s.isl ∧
    (State.sendProbe s route).pending = s.pending := by
  simp [State.sendProbe]

@[simp] theorem State.finishSweep_frame (s : State) :
    (State.finishSweep s).cycle = s.cycle ∧ (State.finishSweep s).subTick = s.subTick ∧
    (State.finishSweep s).copy = s.copy ∧ (State.finishSweep s).blob = s.blob ∧ (State.finishSweep s).arr = s.arr ∧
    (State.finishSweep s).streams = s.streams ∧ (State.finishSweep s).net = s.net ∧
    (State.finishSweep s).pending = s.pending := by
  unfold State.finishSweep
  repeat' (first
    | with_reducible rfl | (simp; done) | split | apply And.intro | (intro _)
    | (with_reducible refine (foldl_frame _ _ ?_ _ _).trans ?_)
    | (with_reducible refine (foldl_frame_fst _ _ ?_ _ _).trans ?_)
    | (with_reducible refine (foldl_frame_snd _ _ ?_ _ _).trans ?_)
    | (with_reducible refine (foldl_frame_mid _ _ ?_ _ _).trans ?_)
    | (with_reducible refine (foldl_frame_last2 _ _ ?_ _ _).trans ?_)
    | (with_reducible refine (foldl_frame_last3 _ _ ?_ _ _).trans ?_) | simp)

@[simp] theorem State.startSweep_frame (s : State) :
    (State.startSweep s).cycle = s.cycle ∧ (State.startSweep s).subTick = s.subTick ∧
    (State.startSweep s).copy = s.copy ∧ (State.startSweep s).blob = s.blob ∧ (State.startSweep s).arr = s.arr ∧
    (State.startSweep s).streams = s.streams ∧ (State.startSweep s).net = s.net ∧
    (State.startSweep s).pending = s.pending := by
  unfold State.startSweep
  repeat' (first
    | with_reducible rfl | (simp; done) | split | apply And.intro | (intro _)
    | (with_reducible refine (foldl_frame _ _ ?_ _ _).trans ?_)
    | (with_reducible refine (foldl_frame_fst _ _ ?_ _ _).trans ?_)
    | (with_reducible refine (foldl_frame_snd _ _ ?_ _ _).trans ?_)
    | (with_reducible refine (foldl_frame_mid _ _ ?_ _ _).trans ?_)
    | (with_reducible refine (foldl_frame_last2 _ _ ?_ _ _).trans ?_)
    | (with_reducible refine (foldl_frame_last3 _ _ ?_ _ _).trans ?_) | simp)

@[simp] theorem State.learn_frame (s : State) (route : List ℕ) (info : PeerInfo) :
    (State.learn s route info).cycle = s.cycle ∧ (State.learn s route info).subTick = s.subTick ∧
    (State.learn s route info).copy = s.copy ∧ (State.learn s route info).blob = s.blob ∧
    (State.learn s route info).mem = s.mem ∧ (State.learn s route info).arr = s.arr ∧
    (State.learn s route info).streams = s.streams ∧ (State.learn s route info).hub = s.hub ∧
    (State.learn s route info).net = s.net ∧ (State.learn s route info).isl = s.isl ∧
    (State.learn s route info).pending = s.pending := by
  unfold State.learn
  repeat' (first
    | with_reducible rfl | (simp; done) | split | apply And.intro | (intro _)
    | (with_reducible refine (foldl_frame _ _ ?_ _ _).trans ?_))

@[simp] theorem State.discover_frame (s : State) :
    (State.discover s).cycle = s.cycle ∧ (State.discover s).subTick = s.subTick ∧ (State.discover s).copy = s.copy ∧
    (State.discover s).blob = s.blob ∧ (State.discover s).arr = s.arr ∧ (State.discover s).streams = s.streams ∧
    (State.discover s).net = s.net ∧ (State.discover s).pending = s.pending := by
  unfold State.discover
  repeat' (first
    | with_reducible rfl | (simp; done) | split | apply And.intro | (intro _)
    | (with_reducible refine (foldl_frame _ _ ?_ _ _).trans ?_)
    | (with_reducible refine (foldl_frame_fst _ _ ?_ _ _).trans ?_)
    | (with_reducible refine (foldl_frame_snd _ _ ?_ _ _).trans ?_)
    | (with_reducible refine (foldl_frame_mid _ _ ?_ _ _).trans ?_)
    | (with_reducible refine (foldl_frame_last2 _ _ ?_ _ _).trans ?_)
    | (with_reducible refine (foldl_frame_last3 _ _ ?_ _ _).trans ?_) | simp)

@[simp] theorem State.mcReceive_frame (s : State) (g : ℕ) (m : Msg) :
    (State.mcReceive s g m).cycle = s.cycle ∧ (State.mcReceive s g m).subTick = s.subTick ∧
    (State.mcReceive s g m).copy = s.copy ∧ (State.mcReceive s g m).blob = s.blob ∧
    (State.mcReceive s g m).arr = s.arr ∧ (State.mcReceive s g m).streams = s.streams ∧
    (State.mcReceive s g m).net = s.net ∧ (State.mcReceive s g m).isl = s.isl ∧
    (State.mcReceive s g m).free = s.free ∧ (State.mcReceive s g m).pending = s.pending := by
  simp [State.mcReceive]

@[simp] theorem State.serveMulticast_frame (s : State) (m : Msg) :
    (State.serveMulticast s m).cycle = s.cycle ∧ (State.serveMulticast s m).subTick = s.subTick ∧
    (State.serveMulticast s m).copy = s.copy ∧ (State.serveMulticast s m).blob = s.blob ∧
    (State.serveMulticast s m).arr = s.arr ∧ (State.serveMulticast s m).streams = s.streams ∧
    (State.serveMulticast s m).net = s.net ∧ (State.serveMulticast s m).free = s.free ∧
    (State.serveMulticast s m).pending = s.pending := by
  simp [State.serveMulticast]

@[simp] theorem State.takeCtl_frame (s : State) (g : ℕ) (op : ℕ) :
    (State.takeCtl s g op).cycle = s.cycle ∧ (State.takeCtl s g op).subTick = s.subTick ∧
    (State.takeCtl s g op).obj = s.obj ∧ (State.takeCtl s g op).copy = s.copy ∧ (State.takeCtl s g op).blob = s.blob ∧
    (State.takeCtl s g op).mem = s.mem ∧ (State.takeCtl s g op).arr = s.arr ∧
    (State.takeCtl s g op).streams = s.streams ∧ (State.takeCtl s g op).hub = s.hub ∧
    (State.takeCtl s g op).net = s.net ∧ (State.takeCtl s g op).isl = s.isl ∧ (State.takeCtl s g op).free = s.free ∧
    (State.takeCtl s g op).pending = s.pending := by
  simp [State.takeCtl]

@[simp] theorem State.mcDisable_frame (s : State) (g : ℕ) :
    (State.mcDisable s g).cycle = s.cycle ∧ (State.mcDisable s g).subTick = s.subTick ∧
    (State.mcDisable s g).copy = s.copy ∧ (State.mcDisable s g).blob = s.blob ∧ (State.mcDisable s g).mem = s.mem ∧
    (State.mcDisable s g).arr = s.arr ∧ (State.mcDisable s g).streams = s.streams ∧
    (State.mcDisable s g).hub = s.hub ∧ (State.mcDisable s g).net = s.net ∧ (State.mcDisable s g).isl = s.isl ∧
    (State.mcDisable s g).free = s.free ∧ (State.mcDisable s g).pending = s.pending := by
  simp [State.mcDisable]

@[simp] theorem State.mcSetMode_frame (s : State) (g : ℕ) (v : ℕ) :
    (State.mcSetMode s g v).cycle = s.cycle ∧ (State.mcSetMode s g v).subTick = s.subTick ∧
    (State.mcSetMode s g v).copy = s.copy ∧ (State.mcSetMode s g v).blob = s.blob ∧
    (State.mcSetMode s g v).mem = s.mem ∧ (State.mcSetMode s g v).arr = s.arr ∧
    (State.mcSetMode s g v).streams = s.streams ∧ (State.mcSetMode s g v).hub = s.hub ∧
    (State.mcSetMode s g v).net = s.net ∧ (State.mcSetMode s g v).isl = s.isl ∧
    (State.mcSetMode s g v).free = s.free ∧ (State.mcSetMode s g v).pending = s.pending := by
  simp [State.mcSetMode]

@[simp] theorem State.mcAskRejoin_frame (s : State) (g : ℕ) :
    (State.mcAskRejoin s g).cycle = s.cycle ∧ (State.mcAskRejoin s g).subTick = s.subTick ∧
    (State.mcAskRejoin s g).copy = s.copy ∧ (State.mcAskRejoin s g).blob = s.blob ∧
    (State.mcAskRejoin s g).mem = s.mem ∧ (State.mcAskRejoin s g).arr = s.arr ∧
    (State.mcAskRejoin s g).streams = s.streams ∧ (State.mcAskRejoin s g).hub = s.hub ∧
    (State.mcAskRejoin s g).net = s.net ∧ (State.mcAskRejoin s g).isl = s.isl ∧
    (State.mcAskRejoin s g).free = s.free ∧ (State.mcAskRejoin s g).pending = s.pending := by
  simp [State.mcAskRejoin]

@[simp] theorem State.writeMcMode_frame (s : State) (g : ℕ) (v : ℕ) :
    (State.writeMcMode s g v).1.cycle = s.cycle ∧ (State.writeMcMode s g v).1.subTick = s.subTick ∧
    (State.writeMcMode s g v).1.copy = s.copy ∧ (State.writeMcMode s g v).1.blob = s.blob ∧
    (State.writeMcMode s g v).1.mem = s.mem ∧ (State.writeMcMode s g v).1.arr = s.arr ∧
    (State.writeMcMode s g v).1.streams = s.streams ∧ (State.writeMcMode s g v).1.hub = s.hub ∧
    (State.writeMcMode s g v).1.net = s.net ∧ (State.writeMcMode s g v).1.isl = s.isl ∧
    (State.writeMcMode s g v).1.free = s.free ∧ (State.writeMcMode s g v).1.pending = s.pending := by
  unfold State.writeMcMode; (repeat' split) <;> simp

@[simp] theorem State.sendBeat_frame (s : State) :
    (State.sendBeat s).cycle = s.cycle ∧ (State.sendBeat s).subTick = s.subTick ∧ (State.sendBeat s).obj = s.obj ∧
    (State.sendBeat s).copy = s.copy ∧ (State.sendBeat s).blob = s.blob ∧ (State.sendBeat s).mem = s.mem ∧
    (State.sendBeat s).arr = s.arr ∧ (State.sendBeat s).streams = s.streams ∧ (State.sendBeat s).hub = s.hub ∧
    (State.sendBeat s).net = s.net ∧ (State.sendBeat s).free = s.free ∧ (State.sendBeat s).pending = s.pending := by
  unfold State.sendBeat
  repeat' (first
    | with_reducible rfl | (simp; done) | split | apply And.intro | (intro _)
    | (with_reducible refine (foldl_frame _ _ ?_ _ _).trans ?_)
    | (with_reducible refine (foldl_frame_fst _ _ ?_ _ _).trans ?_)
    | (with_reducible refine (foldl_frame_snd _ _ ?_ _ _).trans ?_)
    | (with_reducible refine (foldl_frame_mid _ _ ?_ _ _).trans ?_)
    | (with_reducible refine (foldl_frame_last2 _ _ ?_ _ _).trans ?_)
    | (with_reducible refine (foldl_frame_last3 _ _ ?_ _ _).trans ?_) | simp)

@[simp] theorem State.settleRole_frame (s : State) (hb : Heartbeat) :
    (State.settleRole s hb).cycle = s.cycle ∧ (State.settleRole s hb).subTick = s.subTick ∧
    (State.settleRole s hb).copy = s.copy ∧ (State.settleRole s hb).blob = s.blob ∧
    (State.settleRole s hb).mem = s.mem ∧ (State.settleRole s hb).arr = s.arr ∧
    (State.settleRole s hb).streams = s.streams ∧ (State.settleRole s hb).hub = s.hub ∧
    (State.settleRole s hb).net = s.net ∧ (State.settleRole s hb).isl = s.isl ∧
    (State.settleRole s hb).free = s.free ∧ (State.settleRole s hb).pending = s.pending := by
  simp [State.settleRole]

@[simp] theorem State.demote_frame (s : State) (hb : Heartbeat) :
    (State.demote s hb).cycle = s.cycle ∧ (State.demote s hb).subTick = s.subTick ∧
    (State.demote s hb).copy = s.copy ∧ (State.demote s hb).blob = s.blob ∧ (State.demote s hb).arr = s.arr ∧
    (State.demote s hb).streams = s.streams ∧ (State.demote s hb).net = s.net ∧ (State.demote s hb).free = s.free ∧
    (State.demote s hb).pending = s.pending := by
  simp [State.demote]

@[simp] theorem State.takeBeat_frame (s : State) (hb : Heartbeat) :
    (State.takeBeat s hb).cycle = s.cycle ∧ (State.takeBeat s hb).subTick = s.subTick ∧
    (State.takeBeat s hb).copy = s.copy ∧ (State.takeBeat s hb).blob = s.blob ∧ (State.takeBeat s hb).arr = s.arr ∧
    (State.takeBeat s hb).streams = s.streams ∧ (State.takeBeat s hb).net = s.net ∧
    (State.takeBeat s hb).free = s.free ∧ (State.takeBeat s hb).pending = s.pending := by
  simp [State.takeBeat]

@[simp] theorem State.portBeat_frame (s : State) (p : ℕ) (hb : Heartbeat) :
    (State.portBeat s p hb).cycle = s.cycle ∧ (State.portBeat s p hb).subTick = s.subTick ∧
    (State.portBeat s p hb).copy = s.copy ∧ (State.portBeat s p hb).blob = s.blob ∧
    (State.portBeat s p hb).arr = s.arr ∧ (State.portBeat s p hb).streams = s.streams ∧
    (State.portBeat s p hb).net = s.net ∧ (State.portBeat s p hb).free = s.free ∧
    (State.portBeat s p hb).pending = s.pending := by
  simp [State.portBeat]

@[simp] theorem State.applyMirrorFuel_frame (x0 : ℕ) (x1 : State) :
    (State.applyMirrorFuel x0 x1).cycle = x1.cycle ∧ (State.applyMirrorFuel x0 x1).subTick = x1.subTick ∧
    (State.applyMirrorFuel x0 x1).copy = x1.copy ∧ (State.applyMirrorFuel x0 x1).blob = x1.blob ∧
    (State.applyMirrorFuel x0 x1).arr = x1.arr ∧ (State.applyMirrorFuel x0 x1).streams = x1.streams ∧
    (State.applyMirrorFuel x0 x1).hub = x1.hub ∧ (State.applyMirrorFuel x0 x1).net = x1.net ∧
    (State.applyMirrorFuel x0 x1).isl = x1.isl ∧ (State.applyMirrorFuel x0 x1).free = x1.free ∧
    (State.applyMirrorFuel x0 x1).pending = x1.pending := by
  induction x0 generalizing x1 with
  | zero => simp [State.applyMirrorFuel]
  | succ k ih =>
    unfold State.applyMirrorFuel
    repeat' (first | with_reducible rfl | (simp [ih]; done) | split | apply And.intro | intro _ | (with_reducible refine (foldl_frame _ _ ?_ _ _).trans ?_) | simp [ih])

@[simp] theorem State.applyMirror_frame (s : State) :
    (State.applyMirror s).cycle = s.cycle ∧ (State.applyMirror s).subTick = s.subTick ∧
    (State.applyMirror s).copy = s.copy ∧ (State.applyMirror s).blob = s.blob ∧ (State.applyMirror s).arr = s.arr ∧
    (State.applyMirror s).streams = s.streams ∧ (State.applyMirror s).hub = s.hub ∧
    (State.applyMirror s).net = s.net ∧ (State.applyMirror s).isl = s.isl ∧ (State.applyMirror s).free = s.free ∧
    (State.applyMirror s).pending = s.pending := by
  simp [State.applyMirror]

@[simp] theorem State.serveMirror_frame (s : State) (seq : U32) (addr : ℕ) (data : List Byte) (poison : Bool) :
    (State.serveMirror s seq addr data poison).cycle = s.cycle ∧
    (State.serveMirror s seq addr data poison).subTick = s.subTick ∧
    (State.serveMirror s seq addr data poison).copy = s.copy ∧
    (State.serveMirror s seq addr data poison).blob = s.blob ∧
    (State.serveMirror s seq addr data poison).arr = s.arr ∧
    (State.serveMirror s seq addr data poison).streams = s.streams ∧
    (State.serveMirror s seq addr data poison).hub = s.hub ∧ (State.serveMirror s seq addr data poison).net = s.net ∧
    (State.serveMirror s seq addr data poison).isl = s.isl ∧
    (State.serveMirror s seq addr data poison).free = s.free ∧
    (State.serveMirror s seq addr data poison).pending = s.pending := by
  simp [State.serveMirror]

@[simp] theorem State.takeMirrors_frame (s : State) :
    (State.takeMirrors s).cycle = s.cycle ∧ (State.takeMirrors s).subTick = s.subTick ∧
    (State.takeMirrors s).copy = s.copy ∧ (State.takeMirrors s).blob = s.blob ∧ (State.takeMirrors s).arr = s.arr ∧
    (State.takeMirrors s).streams = s.streams ∧ (State.takeMirrors s).hub = s.hub ∧
    (State.takeMirrors s).net = s.net ∧ (State.takeMirrors s).isl = s.isl ∧ (State.takeMirrors s).free = s.free ∧
    (State.takeMirrors s).pending = s.pending := by
  unfold State.takeMirrors
  repeat' (first
    | with_reducible rfl | (simp; done) | split | apply And.intro | (intro _)
    | (with_reducible refine (foldl_frame _ _ ?_ _ _).trans ?_))

@[simp] theorem State.reportMirror_frame (s : State) :
    (State.reportMirror s).cycle = s.cycle ∧ (State.reportMirror s).subTick = s.subTick ∧
    (State.reportMirror s).obj = s.obj ∧ (State.reportMirror s).copy = s.copy ∧ (State.reportMirror s).blob = s.blob ∧
    (State.reportMirror s).mem = s.mem ∧ (State.reportMirror s).arr = s.arr ∧
    (State.reportMirror s).streams = s.streams ∧ (State.reportMirror s).hub = s.hub ∧
    (State.reportMirror s).net = s.net ∧ (State.reportMirror s).isl = s.isl ∧ (State.reportMirror s).free = s.free ∧
    (State.reportMirror s).pending = s.pending := by
  unfold State.reportMirror; split <;> simp

@[simp] theorem State.writeMirState_frame (s : State) (r : ℕ) (v : ℕ) :
    (State.writeMirState s r v).1.cycle = s.cycle ∧ (State.writeMirState s r v).1.subTick = s.subTick ∧
    (State.writeMirState s r v).1.copy = s.copy ∧ (State.writeMirState s r v).1.blob = s.blob ∧
    (State.writeMirState s r v).1.mem = s.mem ∧ (State.writeMirState s r v).1.arr = s.arr ∧
    (State.writeMirState s r v).1.streams = s.streams ∧ (State.writeMirState s r v).1.hub = s.hub ∧
    (State.writeMirState s r v).1.net = s.net ∧ (State.writeMirState s r v).1.fab = s.fab ∧
    (State.writeMirState s r v).1.isl = s.isl ∧ (State.writeMirState s r v).1.free = s.free ∧
    (State.writeMirState s r v).1.pending = s.pending := by
  unfold State.writeMirState
  repeat' (first
    | with_reducible rfl | (simp; done) | split | apply And.intro | (intro _)
    | (with_reducible refine (foldl_frame _ _ ?_ _ _).trans ?_)
    | (with_reducible refine (foldl_frame_fst _ _ ?_ _ _).trans ?_)
    | (with_reducible refine (foldl_frame_snd _ _ ?_ _ _).trans ?_)
    | (with_reducible refine (foldl_frame_mid _ _ ?_ _ _).trans ?_)
    | (with_reducible refine (foldl_frame_last2 _ _ ?_ _ _).trans ?_)
    | (with_reducible refine (foldl_frame_last3 _ _ ?_ _ _).trans ?_) | simp)

@[simp] theorem State.takeOver_frame (s : State) :
    (State.takeOver s).cycle = s.cycle ∧ (State.takeOver s).subTick = s.subTick ∧ (State.takeOver s).copy = s.copy ∧
    (State.takeOver s).blob = s.blob ∧ (State.takeOver s).arr = s.arr ∧ (State.takeOver s).streams = s.streams ∧
    (State.takeOver s).net = s.net ∧ (State.takeOver s).free = s.free ∧ (State.takeOver s).pending = s.pending := by
  simp [State.takeOver]

@[simp] theorem State.writeTakeover_frame (s : State) (v : ℕ) :
    (State.writeTakeover s v).cycle = s.cycle ∧ (State.writeTakeover s v).subTick = s.subTick ∧
    (State.writeTakeover s v).copy = s.copy ∧ (State.writeTakeover s v).blob = s.blob ∧
    (State.writeTakeover s v).arr = s.arr ∧ (State.writeTakeover s v).streams = s.streams ∧
    (State.writeTakeover s v).net = s.net ∧ (State.writeTakeover s v).free = s.free ∧
    (State.writeTakeover s v).pending = s.pending := by
  simp [State.writeTakeover]

@[simp] theorem State.takeHello_frame (s : State) (p : ℕ) (rec' : List Byte) :
    (State.takeHello s p rec').cycle = s.cycle ∧ (State.takeHello s p rec').subTick = s.subTick ∧
    (State.takeHello s p rec').copy = s.copy ∧ (State.takeHello s p rec').blob = s.blob ∧
    (State.takeHello s p rec').arr = s.arr ∧ (State.takeHello s p rec').streams = s.streams ∧
    (State.takeHello s p rec').net = s.net ∧ (State.takeHello s p rec').free = s.free ∧
    (State.takeHello s p rec').pending = s.pending := by
  simp [State.takeHello]

@[simp] theorem State.takeAck_frame (s : State) (p : ℕ) (ack : ℕ) :
    (State.takeAck s p ack).cycle = s.cycle ∧ (State.takeAck s p ack).subTick = s.subTick ∧
    (State.takeAck s p ack).copy = s.copy ∧ (State.takeAck s p ack).blob = s.blob ∧
    (State.takeAck s p ack).arr = s.arr ∧ (State.takeAck s p ack).streams = s.streams ∧
    (State.takeAck s p ack).net = s.net ∧ (State.takeAck s p ack).free = s.free ∧
    (State.takeAck s p ack).pending = s.pending := by
  simp [State.takeAck]

@[simp] theorem State.takeCredit_frame (s : State) (p : ℕ) (credit : ℕ) :
    (State.takeCredit s p credit).cycle = s.cycle ∧ (State.takeCredit s p credit).subTick = s.subTick ∧
    (State.takeCredit s p credit).obj = s.obj ∧ (State.takeCredit s p credit).copy = s.copy ∧
    (State.takeCredit s p credit).blob = s.blob ∧ (State.takeCredit s p credit).mem = s.mem ∧
    (State.takeCredit s p credit).arr = s.arr ∧ (State.takeCredit s p credit).streams = s.streams ∧
    (State.takeCredit s p credit).hub = s.hub ∧ (State.takeCredit s p credit).net = s.net ∧
    (State.takeCredit s p credit).isl = s.isl ∧ (State.takeCredit s p credit).free = s.free ∧
    (State.takeCredit s p credit).pending = s.pending := by
  simp [State.takeCredit]

@[simp] theorem State.takeData_frame (s : State) (p : ℕ) (l : ℕ) (seq : ℕ) (payload : List Byte) :
    (State.takeData s p l seq payload).cycle = s.cycle ∧ (State.takeData s p l seq payload).subTick = s.subTick ∧
    (State.takeData s p l seq payload).copy = s.copy ∧ (State.takeData s p l seq payload).blob = s.blob ∧
    (State.takeData s p l seq payload).mem = s.mem ∧ (State.takeData s p l seq payload).arr = s.arr ∧
    (State.takeData s p l seq payload).streams = s.streams ∧ (State.takeData s p l seq payload).hub = s.hub ∧
    (State.takeData s p l seq payload).net = s.net ∧ (State.takeData s p l seq payload).isl = s.isl ∧
    (State.takeData s p l seq payload).free = s.free ∧ (State.takeData s p l seq payload).pending = s.pending := by
  unfold State.takeData
  repeat' (first
    | with_reducible rfl | (simp; done) | split | apply And.intro | (intro _)
    | (with_reducible refine (foldl_frame _ _ ?_ _ _).trans ?_)
    | (with_reducible refine (foldl_frame_fst _ _ ?_ _ _).trans ?_)
    | (with_reducible refine (foldl_frame_snd _ _ ?_ _ _).trans ?_)
    | (with_reducible refine (foldl_frame_mid _ _ ?_ _ _).trans ?_)
    | (with_reducible refine (foldl_frame_last2 _ _ ?_ _ _).trans ?_)
    | (with_reducible refine (foldl_frame_last3 _ _ ?_ _ _).trans ?_) | simp)

@[simp] theorem State.startTraining_frame (s : State) (p : ℕ) :
    (State.startTraining s p).cycle = s.cycle ∧ (State.startTraining s p).subTick = s.subTick ∧
    (State.startTraining s p).copy = s.copy ∧ (State.startTraining s p).blob = s.blob ∧
    (State.startTraining s p).arr = s.arr ∧ (State.startTraining s p).streams = s.streams ∧
    (State.startTraining s p).net = s.net ∧ (State.startTraining s p).free = s.free ∧
    (State.startTraining s p).pending = s.pending := by
  simp [State.startTraining]

@[simp] theorem State.writePortEnable_frame (s : State) (v : ℕ) :
    (State.writePortEnable s v).cycle = s.cycle ∧ (State.writePortEnable s v).subTick = s.subTick ∧
    (State.writePortEnable s v).copy = s.copy ∧ (State.writePortEnable s v).blob = s.blob ∧
    (State.writePortEnable s v).arr = s.arr ∧ (State.writePortEnable s v).streams = s.streams ∧
    (State.writePortEnable s v).net = s.net ∧ (State.writePortEnable s v).free = s.free ∧
    (State.writePortEnable s v).pending = s.pending := by
  unfold State.writePortEnable
  repeat' (first
    | with_reducible rfl | (simp; done) | split | apply And.intro | (intro _)
    | (with_reducible refine (foldl_frame _ _ ?_ _ _).trans ?_))

@[simp] theorem State.takePort_frame (s : State) (die : ℕ) (port : ℕ) :
    (State.takePort s die port).cycle = s.cycle ∧ (State.takePort s die port).subTick = s.subTick ∧
    (State.takePort s die port).obj = s.obj ∧ (State.takePort s die port).copy = s.copy ∧
    (State.takePort s die port).blob = s.blob ∧ (State.takePort s die port).mem = s.mem ∧
    (State.takePort s die port).arr = s.arr ∧ (State.takePort s die port).streams = s.streams ∧
    (State.takePort s die port).hub = s.hub ∧ (State.takePort s die port).fab = s.fab ∧
    (State.takePort s die port).isl = s.isl ∧ (State.takePort s die port).free = s.free ∧
    (State.takePort s die port).pending = s.pending := by
  simp [State.takePort]

@[simp] theorem State.dropXfer_frame (s : State) (die : ℕ) (port : ℕ) (x : Xfer) :
    (State.dropXfer s die port x).cycle = s.cycle ∧ (State.dropXfer s die port x).subTick = s.subTick ∧
    (State.dropXfer s die port x).obj = s.obj ∧ (State.dropXfer s die port x).copy = s.copy ∧
    (State.dropXfer s die port x).blob = s.blob ∧ (State.dropXfer s die port x).mem = s.mem ∧
    (State.dropXfer s die port x).arr = s.arr ∧ (State.dropXfer s die port x).streams = s.streams ∧
    (State.dropXfer s die port x).hub = s.hub ∧ (State.dropXfer s die port x).fab = s.fab ∧
    (State.dropXfer s die port x).free = s.free ∧ (State.dropXfer s die port x).pending = s.pending := by
  unfold State.dropXfer; split <;> simp

@[simp] theorem State.badBeats_frame (s : State) (die : ℕ) (n : ℕ) :
    (State.badBeats s die n).cycle = s.cycle ∧ (State.badBeats s die n).subTick = s.subTick ∧
    (State.badBeats s die n).copy = s.copy ∧ (State.badBeats s die n).blob = s.blob ∧
    (State.badBeats s die n).arr = s.arr ∧ (State.badBeats s die n).streams = s.streams ∧
    (State.badBeats s die n).net = s.net ∧ (State.badBeats s die n).free = s.free ∧
    (State.badBeats s die n).pending = s.pending := by
  unfold State.badBeats
  repeat' (first
    | with_reducible rfl | (simp; done) | split | apply And.intro | (intro _)
    | (with_reducible refine (foldl_frame _ _ ?_ _ _).trans ?_))

@[simp] theorem State.receiveFrame_frame (s : State) (f : LinkFrame) (bad : List ℕ) (headerBad : Bool) :
    (State.receiveFrame s f bad headerBad).cycle = s.cycle ∧
    (State.receiveFrame s f bad headerBad).subTick = s.subTick ∧
    (State.receiveFrame s f bad headerBad).copy = s.copy ∧ (State.receiveFrame s f bad headerBad).blob = s.blob ∧
    (State.receiveFrame s f bad headerBad).arr = s.arr ∧ (State.receiveFrame s f bad headerBad).streams = s.streams ∧
    (State.receiveFrame s f bad headerBad).free = s.free ∧
    (State.receiveFrame s f bad headerBad).pending = s.pending := by
  simp [State.receiveFrame]

@[simp] theorem State.doJob_frame (s : State) (id : ArbId) (w : Waiter) :
    (State.doJob s id w).cycle = s.cycle ∧ (State.doJob s id w).subTick = s.subTick ∧
    (State.doJob s id w).copy = s.copy ∧ (State.doJob s id w).blob = s.blob ∧ (State.doJob s id w).free = s.free ∧
    (State.doJob s id w).pending = s.pending := by
  unfold State.doJob
  repeat' (first
    | with_reducible rfl | (simp; done) | split | apply And.intro | (intro _)
    | (with_reducible refine (foldl_frame _ _ ?_ _ _).trans ?_)
    | (with_reducible refine (foldl_frame_fst _ _ ?_ _ _).trans ?_)
    | (with_reducible refine (foldl_frame_snd _ _ ?_ _ _).trans ?_)
    | (with_reducible refine (foldl_frame_mid _ _ ?_ _ _).trans ?_)
    | (with_reducible refine (foldl_frame_last2 _ _ ?_ _ _).trans ?_)
    | (with_reducible refine (foldl_frame_last3 _ _ ?_ _ _).trans ?_) | simp)

@[simp] theorem State.bankRound_frame (s : State) (id : ArbId) (arrivals : List Waiter) :
    (State.bankRound s id arrivals).cycle = s.cycle ∧ (State.bankRound s id arrivals).subTick = s.subTick ∧
    (State.bankRound s id arrivals).copy = s.copy ∧ (State.bankRound s id arrivals).blob = s.blob ∧
    (State.bankRound s id arrivals).free = s.free ∧ (State.bankRound s id arrivals).pending = s.pending := by
  unfold State.bankRound
  repeat' (first
    | with_reducible rfl | (simp; done) | split | apply And.intro | (intro _)
    | (with_reducible refine (foldl_frame _ _ ?_ _ _).trans ?_)
    | (with_reducible refine (foldl_frame_fst _ _ ?_ _ _).trans ?_)
    | (with_reducible refine (foldl_frame_snd _ _ ?_ _ _).trans ?_)
    | (with_reducible refine (foldl_frame_mid _ _ ?_ _ _).trans ?_)
    | (with_reducible refine (foldl_frame_last2 _ _ ?_ _ _).trans ?_)
    | (with_reducible refine (foldl_frame_last3 _ _ ?_ _ _).trans ?_) | simp)

@[simp] theorem State.accRound_frame (s : State) (die : ℕ) (bank : ℕ) :
    (State.accRound s die bank).cycle = s.cycle ∧ (State.accRound s die bank).subTick = s.subTick ∧
    (State.accRound s die bank).copy = s.copy ∧ (State.accRound s die bank).blob = s.blob ∧
    (State.accRound s die bank).streams = s.streams ∧ (State.accRound s die bank).free = s.free ∧
    (State.accRound s die bank).pending = s.pending := by
  unfold State.accRound
  repeat' (first
    | with_reducible rfl | (simp; done) | split | apply And.intro | (intro _)
    | (with_reducible refine (foldl_frame _ _ ?_ _ _).trans ?_))

@[simp] theorem State.mergeTo_frame (s : State) (k : ℕ) (adds : List (ℕ × U64)) :
    (State.mergeTo s k adds).cycle = s.cycle ∧ (State.mergeTo s k adds).subTick = s.subTick ∧
    (State.mergeTo s k adds).copy = s.copy ∧ (State.mergeTo s k adds).blob = s.blob ∧
    (State.mergeTo s k adds).mem = s.mem ∧ (State.mergeTo s k adds).arr = s.arr ∧
    (State.mergeTo s k adds).streams = s.streams ∧ (State.mergeTo s k adds).hub = s.hub ∧
    (State.mergeTo s k adds).fab = s.fab ∧ (State.mergeTo s k adds).isl = s.isl ∧
    (State.mergeTo s k adds).free = s.free ∧ (State.mergeTo s k adds).pending = s.pending := by
  unfold State.mergeTo
  repeat' (first
    | with_reducible rfl | (simp; done) | split | apply And.intro | (intro _)
    | (with_reducible refine (foldl_frame _ _ ?_ _ _).trans ?_)
    | (with_reducible refine (foldl_frame_fst _ _ ?_ _ _).trans ?_)
    | (with_reducible refine (foldl_frame_snd _ _ ?_ _ _).trans ?_)
    | (with_reducible refine (foldl_frame_mid _ _ ?_ _ _).trans ?_)
    | (with_reducible refine (foldl_frame_last2 _ _ ?_ _ _).trans ?_)
    | (with_reducible refine (foldl_frame_last3 _ _ ?_ _ _).trans ?_) | simp)

@[simp] theorem State.mergeAdds_frame (s : State) (die : ℕ) (port : ℕ) :
    (State.mergeAdds s die port).cycle = s.cycle ∧ (State.mergeAdds s die port).subTick = s.subTick ∧
    (State.mergeAdds s die port).copy = s.copy ∧ (State.mergeAdds s die port).blob = s.blob ∧
    (State.mergeAdds s die port).mem = s.mem ∧ (State.mergeAdds s die port).arr = s.arr ∧
    (State.mergeAdds s die port).streams = s.streams ∧ (State.mergeAdds s die port).hub = s.hub ∧
    (State.mergeAdds s die port).fab = s.fab ∧ (State.mergeAdds s die port).isl = s.isl ∧
    (State.mergeAdds s die port).free = s.free ∧ (State.mergeAdds s die port).pending = s.pending := by
  unfold State.mergeAdds
  repeat' (first
    | with_reducible rfl | (simp; done) | split | apply And.intro | (intro _)
    | (with_reducible refine (foldl_frame _ _ ?_ _ _).trans ?_))

@[simp] theorem State.sendFrame_frame (s : State) (die : ℕ) (port : ℕ) (k : ℕ) (x : Xfer) :
    (State.sendFrame s die port k x).1.cycle = s.cycle ∧ (State.sendFrame s die port k x).1.subTick = s.subTick ∧
    (State.sendFrame s die port k x).1.copy = s.copy ∧ (State.sendFrame s die port k x).1.blob = s.blob ∧
    (State.sendFrame s die port k x).1.mem = s.mem ∧ (State.sendFrame s die port k x).1.arr = s.arr ∧
    (State.sendFrame s die port k x).1.streams = s.streams ∧ (State.sendFrame s die port k x).1.hub = s.hub ∧
    (State.sendFrame s die port k x).1.fab = s.fab ∧ (State.sendFrame s die port k x).1.isl = s.isl ∧
    (State.sendFrame s die port k x).1.free = s.free ∧ (State.sendFrame s die port k x).1.pending = s.pending := by
  unfold State.sendFrame
  repeat' (first
    | with_reducible rfl | (simp; done) | split | apply And.intro | (intro _)
    | (with_reducible refine (foldl_frame _ _ ?_ _ _).trans ?_)
    | (with_reducible refine (foldl_frame_fst _ _ ?_ _ _).trans ?_)
    | (with_reducible refine (foldl_frame_snd _ _ ?_ _ _).trans ?_)
    | (with_reducible refine (foldl_frame_mid _ _ ?_ _ _).trans ?_)
    | (with_reducible refine (foldl_frame_last2 _ _ ?_ _ _).trans ?_)
    | (with_reducible refine (foldl_frame_last3 _ _ ?_ _ _).trans ?_) | simp)

@[simp] theorem State.sendOwner_frame (s : State) (id : ArbId) (w : Waiter) :
    (State.sendOwner s id w).1.cycle = s.cycle ∧ (State.sendOwner s id w).1.subTick = s.subTick ∧
    (State.sendOwner s id w).1.copy = s.copy ∧ (State.sendOwner s id w).1.blob = s.blob ∧
    (State.sendOwner s id w).1.mem = s.mem ∧ (State.sendOwner s id w).1.arr = s.arr ∧
    (State.sendOwner s id w).1.streams = s.streams ∧ (State.sendOwner s id w).1.hub = s.hub ∧
    (State.sendOwner s id w).1.isl = s.isl ∧ (State.sendOwner s id w).1.free = s.free ∧
    (State.sendOwner s id w).1.pending = s.pending := by
  unfold State.sendOwner; (repeat' split) <;> simp

@[simp] theorem State.linkRound_frame (s : State) (id : ArbId) (l : List Waiter) :
    (State.linkRound s id l).cycle = s.cycle ∧ (State.linkRound s id l).subTick = s.subTick ∧
    (State.linkRound s id l).copy = s.copy ∧ (State.linkRound s id l).blob = s.blob ∧
    (State.linkRound s id l).mem = s.mem ∧ (State.linkRound s id l).arr = s.arr ∧
    (State.linkRound s id l).streams = s.streams ∧ (State.linkRound s id l).hub = s.hub ∧
    (State.linkRound s id l).fab = s.fab ∧ (State.linkRound s id l).isl = s.isl ∧
    (State.linkRound s id l).free = s.free ∧ (State.linkRound s id l).pending = s.pending := by
  unfold State.linkRound; split <;> simp

@[simp] theorem State.linkCycle_frame (s : State) (id : ArbId) :
    (State.linkCycle s id).cycle = s.cycle ∧ (State.linkCycle s id).subTick = s.subTick ∧
    (State.linkCycle s id).copy = s.copy ∧ (State.linkCycle s id).blob = s.blob ∧ (State.linkCycle s id).mem = s.mem ∧
    (State.linkCycle s id).arr = s.arr ∧ (State.linkCycle s id).streams = s.streams ∧
    (State.linkCycle s id).hub = s.hub ∧ (State.linkCycle s id).isl = s.isl ∧ (State.linkCycle s id).free = s.free ∧
    (State.linkCycle s id).pending = s.pending := by
  unfold State.linkCycle
  repeat' (first
    | with_reducible rfl | (simp; done) | split | apply And.intro | (intro _)
    | (with_reducible refine (foldl_frame _ _ ?_ _ _).trans ?_)
    | (with_reducible refine (foldl_frame_fst _ _ ?_ _ _).trans ?_)
    | (with_reducible refine (foldl_frame_snd _ _ ?_ _ _).trans ?_)
    | (with_reducible refine (foldl_frame_mid _ _ ?_ _ _).trans ?_)
    | (with_reducible refine (foldl_frame_last2 _ _ ?_ _ _).trans ?_)
    | (with_reducible refine (foldl_frame_last3 _ _ ?_ _ _).trans ?_) | simp)

@[simp] theorem State.linkTurn_frame (s : State) (id : ArbId) :
    (State.linkTurn s id).cycle = s.cycle ∧ (State.linkTurn s id).subTick = s.subTick ∧
    (State.linkTurn s id).copy = s.copy ∧ (State.linkTurn s id).blob = s.blob ∧ (State.linkTurn s id).mem = s.mem ∧
    (State.linkTurn s id).arr = s.arr ∧ (State.linkTurn s id).streams = s.streams ∧
    (State.linkTurn s id).hub = s.hub ∧ (State.linkTurn s id).isl = s.isl ∧ (State.linkTurn s id).free = s.free ∧
    (State.linkTurn s id).pending = s.pending := by
  unfold State.linkTurn; (repeat' split) <;> simp

end Sys2Proof.Machine
end

