-- ==== Sys2Proof/Laws/FramesHub.lean ====
section
/-!
SUPPORT. What the hub, the fabric messages, the trust unit and management leave untouched: for each operation, the components of the state it
does not write, once, so that a proof about a command does not unfold the operations the command is made of.
Modules in order: Hub, Reset, Trust, Dict, Fmp.
-/

namespace Sys2Proof.Machine

@[simp] theorem State.putEp_frame (s : State) (e : Endpoint) :
    (State.putEp s e).cycle = s.cycle ∧ (State.putEp s e).subTick = s.subTick ∧ (State.putEp s e).obj = s.obj ∧
    (State.putEp s e).copy = s.copy ∧ (State.putEp s e).blob = s.blob ∧ (State.putEp s e).mem = s.mem ∧
    (State.putEp s e).arr = s.arr ∧ (State.putEp s e).streams = s.streams ∧ (State.putEp s e).net = s.net ∧
    (State.putEp s e).fab = s.fab ∧ (State.putEp s e).isl = s.isl ∧ (State.putEp s e).free = s.free ∧
    (State.putEp s e).pending = s.pending := by
  simp [State.putEp]

@[simp] theorem State.completion_frame (s : State) (data : List Byte) (ep : Bool) (ur : Bool) :
    (State.completion s data ep ur).cycle = s.cycle ∧ (State.completion s data ep ur).subTick = s.subTick ∧
    (State.completion s data ep ur).obj = s.obj ∧ (State.completion s data ep ur).copy = s.copy ∧
    (State.completion s data ep ur).blob = s.blob ∧ (State.completion s data ep ur).mem = s.mem ∧
    (State.completion s data ep ur).arr = s.arr ∧ (State.completion s data ep ur).streams = s.streams ∧
    (State.completion s data ep ur).net = s.net ∧ (State.completion s data ep ur).fab = s.fab ∧
    (State.completion s data ep ur).isl = s.isl ∧ (State.completion s data ep ur).free = s.free ∧
    (State.completion s data ep ur).pending = s.pending := by
  simp [State.completion]

@[simp] theorem State.contextWrite_frame (s : State) (n : ℕ) (off : ℕ) (len : ℕ) (v : ℕ) :
    (State.contextWrite s n off len v).cycle = s.cycle ∧ (State.contextWrite s n off len v).subTick = s.subTick ∧
    (State.contextWrite s n off len v).copy = s.copy ∧ (State.contextWrite s n off len v).blob = s.blob ∧
    (State.contextWrite s n off len v).arr = s.arr ∧ (State.contextWrite s n off len v).streams = s.streams ∧
    (State.contextWrite s n off len v).net = s.net ∧ (State.contextWrite s n off len v).free = s.free ∧
    (State.contextWrite s n off len v).pending = s.pending := by
  unfold State.contextWrite; (repeat' split) <;> simp

@[simp] theorem State.popRead_frame (s : State) (n : ℕ) (off : ℕ) (len : ℕ) :
    (State.popRead s n off len).2.cycle = s.cycle ∧ (State.popRead s n off len).2.subTick = s.subTick ∧
    (State.popRead s n off len).2.copy = s.copy ∧ (State.popRead s n off len).2.blob = s.blob ∧
    (State.popRead s n off len).2.arr = s.arr ∧ (State.popRead s n off len).2.streams = s.streams ∧
    (State.popRead s n off len).2.net = s.net ∧ (State.popRead s n off len).2.free = s.free ∧
    (State.popRead s n off len).2.pending = s.pending := by
  unfold State.popRead; split <;> simp

@[simp] theorem State.windowAccess_frame (s : State) (w : RingWriter) (p : HubPart) (len : ℕ) (wr : Option U64) :
    (State.windowAccess s w p len wr).2.cycle = s.cycle ∧ (State.windowAccess s w p len wr).2.subTick = s.subTick ∧
    (State.windowAccess s w p len wr).2.copy = s.copy ∧ (State.windowAccess s w p len wr).2.blob = s.blob ∧
    (State.windowAccess s w p len wr).2.arr = s.arr ∧ (State.windowAccess s w p len wr).2.net = s.net ∧
    (State.windowAccess s w p len wr).2.free = s.free ∧ (State.windowAccess s w p len wr).2.pending = s.pending := by
  unfold State.windowAccess; (repeat' split) <;> simp

@[simp] theorem State.bar0_frame (s : State) (off : ℕ) (len : ℕ) (wr : Option U64) :
    (State.bar0 s off len wr).2.cycle = s.cycle ∧ (State.bar0 s off len wr).2.subTick = s.subTick ∧
    (State.bar0 s off len wr).2.copy = s.copy ∧ (State.bar0 s off len wr).2.blob = s.blob ∧
    (State.bar0 s off len wr).2.arr = s.arr ∧ (State.bar0 s off len wr).2.net = s.net ∧
    (State.bar0 s off len wr).2.free = s.free ∧ (State.bar0 s off len wr).2.pending = s.pending := by
  unfold State.bar0; (repeat' split) <;> simp

@[simp] theorem State.serveBar0_frame (s : State) (off : ℕ) (len : ℕ) (wr : Option U64) :
    (State.serveBar0 s off len wr).cycle = s.cycle ∧ (State.serveBar0 s off len wr).subTick = s.subTick ∧
    (State.serveBar0 s off len wr).copy = s.copy ∧ (State.serveBar0 s off len wr).blob = s.blob ∧
    (State.serveBar0 s off len wr).arr = s.arr ∧ (State.serveBar0 s off len wr).net = s.net ∧
    (State.serveBar0 s off len wr).free = s.free ∧ (State.serveBar0 s off len wr).pending = s.pending := by
  simp [State.serveBar0]

@[simp] theorem State.inboundRead_frame (s : State) (first : ℕ) (n : ℕ) (x : ℕ) (len : ℕ) :
    (State.inboundRead s first n x len).2.2.2.cycle = s.cycle ∧
    (State.inboundRead s first n x len).2.2.2.subTick = s.subTick ∧
    (State.inboundRead s first n x len).2.2.2.copy = s.copy ∧
    (State.inboundRead s first n x len).2.2.2.blob = s.blob ∧ (State.inboundRead s first n x len).2.2.2.mem = s.mem ∧
    (State.inboundRead s first n x len).2.2.2.arr = s.arr ∧
    (State.inboundRead s first n x len).2.2.2.streams = s.streams ∧
    (State.inboundRead s first n x len).2.2.2.hub = s.hub ∧ (State.inboundRead s first n x len).2.2.2.net = s.net ∧
    (State.inboundRead s first n x len).2.2.2.fab = s.fab ∧ (State.inboundRead s first n x len).2.2.2.isl = s.isl ∧
    (State.inboundRead s first n x len).2.2.2.free = s.free ∧
    (State.inboundRead s first n x len).2.2.2.pending = s.pending := by
  unfold State.inboundRead
  repeat' (first
    | with_reducible rfl | (simp; done) | split | apply And.intro | (intro _)
    | (with_reducible refine (foldl_frame _ _ ?_ _ _).trans ?_))

@[simp] theorem State.inboundWrite_frame (s : State) (first : ℕ) (n : ℕ) (x : ℕ) (data : List Byte) (poison : Bool) :
    (State.inboundWrite s first n x data poison).2.cycle = s.cycle ∧
    (State.inboundWrite s first n x data poison).2.subTick = s.subTick ∧
    (State.inboundWrite s first n x data poison).2.copy = s.copy ∧
    (State.inboundWrite s first n x data poison).2.blob = s.blob ∧
    (State.inboundWrite s first n x data poison).2.arr = s.arr ∧
    (State.inboundWrite s first n x data poison).2.streams = s.streams ∧
    (State.inboundWrite s first n x data poison).2.hub = s.hub ∧
    (State.inboundWrite s first n x data poison).2.net = s.net ∧
    (State.inboundWrite s first n x data poison).2.isl = s.isl ∧
    (State.inboundWrite s first n x data poison).2.free = s.free ∧
    (State.inboundWrite s first n x data poison).2.pending = s.pending := by
  unfold State.inboundWrite
  repeat' (first
    | with_reducible rfl | (simp; done) | split | apply And.intro | (intro _)
    | (with_reducible refine (foldl_frame _ _ ?_ _ _).trans ?_))

@[simp] theorem State.serveBar2_frame (s : State) (off : ℕ) (len : ℕ) (wr : Option (List Byte × Bool)) :
    (State.serveBar2 s off len wr).cycle = s.cycle ∧ (State.serveBar2 s off len wr).subTick = s.subTick ∧
    (State.serveBar2 s off len wr).copy = s.copy ∧ (State.serveBar2 s off len wr).blob = s.blob ∧
    (State.serveBar2 s off len wr).arr = s.arr ∧ (State.serveBar2 s off len wr).streams = s.streams ∧
    (State.serveBar2 s off len wr).net = s.net ∧ (State.serveBar2 s off len wr).free = s.free ∧
    (State.serveBar2 s off len wr).pending = s.pending := by
  unfold State.serveBar2; split <;> simp

@[simp] theorem State.outbound_frame (s : State) (y : ℕ) (len : ℕ) (wr : Option (List Byte)) (reply : List Byte) :
    (State.outbound s y len wr reply).cycle = s.cycle ∧ (State.outbound s y len wr reply).subTick = s.subTick ∧
    (State.outbound s y len wr reply).obj = s.obj ∧ (State.outbound s y len wr reply).copy = s.copy ∧
    (State.outbound s y len wr reply).blob = s.blob ∧ (State.outbound s y len wr reply).mem = s.mem ∧
    (State.outbound s y len wr reply).arr = s.arr ∧ (State.outbound s y len wr reply).streams = s.streams ∧
    (State.outbound s y len wr reply).net = s.net ∧ (State.outbound s y len wr reply).fab = s.fab ∧
    (State.outbound s y len wr reply).isl = s.isl ∧ (State.outbound s y len wr reply).free = s.free ∧
    (State.outbound s y len wr reply).pending = s.pending := by
  simp [State.outbound]

@[simp] theorem State.rootAccess_frame (s : State) (q : ℕ) (config : Bool) (a : ℕ) (len : ℕ) (wr : Option (List Byte)) (reply : List Byte) :
    (State.rootAccess s q config a len wr reply).cycle = s.cycle ∧
    (State.rootAccess s q config a len wr reply).subTick = s.subTick ∧
    (State.rootAccess s q config a len wr reply).obj = s.obj ∧
    (State.rootAccess s q config a len wr reply).copy = s.copy ∧
    (State.rootAccess s q config a len wr reply).blob = s.blob ∧
    (State.rootAccess s q config a len wr reply).mem = s.mem ∧
    (State.rootAccess s q config a len wr reply).arr = s.arr ∧
    (State.rootAccess s q config a len wr reply).streams = s.streams ∧
    (State.rootAccess s q config a len wr reply).net = s.net ∧
    (State.rootAccess s q config a len wr reply).fab = s.fab ∧
    (State.rootAccess s q config a len wr reply).isl = s.isl ∧
    (State.rootAccess s q config a len wr reply).pending = s.pending := by
  simp [State.rootAccess]

@[simp] theorem State.serveWindow_frame (s : State) (core : ℕ) (off : ℕ) (len : ℕ) (wr : Option U64) :
    (State.serveWindow s core off len wr).cycle = s.cycle ∧
    (State.serveWindow s core off len wr).subTick = s.subTick ∧ (State.serveWindow s core off len wr).copy = s.copy ∧
    (State.serveWindow s core off len wr).blob = s.blob ∧ (State.serveWindow s core off len wr).arr = s.arr ∧
    (State.serveWindow s core off len wr).net = s.net ∧ (State.serveWindow s core off len wr).free = s.free ∧
    (State.serveWindow s core off len wr).pending = s.pending := by
  unfold State.serveWindow; split <;> simp

@[simp] theorem State.signal_frame (s : State) (x : Signal) :
    (State.signal s x).cycle = s.cycle ∧ (State.signal s x).subTick = s.subTick ∧ (State.signal s x).obj = s.obj ∧
    (State.signal s x).copy = s.copy ∧ (State.signal s x).blob = s.blob ∧ (State.signal s x).mem = s.mem ∧
    (State.signal s x).arr = s.arr ∧ (State.signal s x).streams = s.streams ∧ (State.signal s x).net = s.net ∧
    (State.signal s x).fab = s.fab ∧ (State.signal s x).isl = s.isl ∧ (State.signal s x).free = s.free ∧
    (State.signal s x).pending = s.pending := by
  simp [State.signal]

@[simp] theorem State.serveRootPort_frame (s : State) (q : ℕ) (addr : ℕ) (len : ℕ) (wr : Option (List Byte)) (msi : Option (ℕ × ℕ)) :
    (State.serveRootPort s q addr len wr msi).cycle = s.cycle ∧
    (State.serveRootPort s q addr len wr msi).subTick = s.subTick ∧
    (State.serveRootPort s q addr len wr msi).copy = s.copy ∧
    (State.serveRootPort s q addr len wr msi).blob = s.blob ∧ (State.serveRootPort s q addr len wr msi).arr = s.arr ∧
    (State.serveRootPort s q addr len wr msi).streams = s.streams ∧
    (State.serveRootPort s q addr len wr msi).net = s.net ∧ (State.serveRootPort s q addr len wr msi).free = s.free ∧
    (State.serveRootPort s q addr len wr msi).pending = s.pending := by
  unfold State.serveRootPort; (repeat' split) <;> simp

@[simp] theorem State.sendHeld_frame (s : State) :
    (State.sendHeld s).cycle = s.cycle ∧ (State.sendHeld s).subTick = s.subTick ∧ (State.sendHeld s).obj = s.obj ∧
    (State.sendHeld s).copy = s.copy ∧ (State.sendHeld s).blob = s.blob ∧ (State.sendHeld s).mem = s.mem ∧
    (State.sendHeld s).arr = s.arr ∧ (State.sendHeld s).streams = s.streams ∧ (State.sendHeld s).net = s.net ∧
    (State.sendHeld s).fab = s.fab ∧ (State.sendHeld s).isl = s.isl ∧ (State.sendHeld s).free = s.free ∧
    (State.sendHeld s).pending = s.pending := by
  unfold State.sendHeld
  repeat' (first
    | with_reducible rfl | (simp; done) | split | apply And.intro | (intro _)
    | (with_reducible refine (foldl_frame _ _ ?_ _ _).trans ?_)
    | (with_reducible refine (foldl_frame_fst _ _ ?_ _ _).trans ?_)
    | (with_reducible refine (foldl_frame_snd _ _ ?_ _ _).trans ?_)
    | (with_reducible refine (foldl_frame_mid _ _ ?_ _ _).trans ?_)
    | (with_reducible refine (foldl_frame_last2 _ _ ?_ _ _).trans ?_)
    | (with_reducible refine (foldl_frame_last3 _ _ ?_ _ _).trans ?_) | simp)

@[simp] theorem State.drivePerst_frame (s : State) :
    (State.drivePerst s).cycle = s.cycle ∧ (State.drivePerst s).subTick = s.subTick ∧
    (State.drivePerst s).obj = s.obj ∧ (State.drivePerst s).copy = s.copy ∧ (State.drivePerst s).blob = s.blob ∧
    (State.drivePerst s).mem = s.mem ∧ (State.drivePerst s).arr = s.arr ∧ (State.drivePerst s).streams = s.streams ∧
    (State.drivePerst s).net = s.net ∧ (State.drivePerst s).fab = s.fab ∧ (State.drivePerst s).isl = s.isl ∧
    (State.drivePerst s).free = s.free ∧ (State.drivePerst s).pending = s.pending := by
  simp [State.drivePerst]

@[simp] theorem State.writeRpPerst_frame (s : State) (v : ℕ) :
    (State.writeRpPerst s v).cycle = s.cycle ∧ (State.writeRpPerst s v).subTick = s.subTick ∧
    (State.writeRpPerst s v).copy = s.copy ∧ (State.writeRpPerst s v).blob = s.blob ∧
    (State.writeRpPerst s v).mem = s.mem ∧ (State.writeRpPerst s v).arr = s.arr ∧
    (State.writeRpPerst s v).streams = s.streams ∧ (State.writeRpPerst s v).net = s.net ∧
    (State.writeRpPerst s v).fab = s.fab ∧ (State.writeRpPerst s v).isl = s.isl ∧
    (State.writeRpPerst s v).free = s.free ∧ (State.writeRpPerst s v).pending = s.pending := by
  simp [State.writeRpPerst]

@[simp] theorem State.deliverMsix_frame (s : State) (n : ℕ) :
    (State.deliverMsix s n).cycle = s.cycle ∧ (State.deliverMsix s n).subTick = s.subTick ∧
    (State.deliverMsix s n).copy = s.copy ∧ (State.deliverMsix s n).blob = s.blob ∧
    (State.deliverMsix s n).mem = s.mem ∧ (State.deliverMsix s n).arr = s.arr ∧
    (State.deliverMsix s n).streams = s.streams ∧ (State.deliverMsix s n).net = s.net ∧
    (State.deliverMsix s n).fab = s.fab ∧ (State.deliverMsix s n).isl = s.isl ∧
    (State.deliverMsix s n).free = s.free ∧ (State.deliverMsix s n).pending = s.pending := by
  simp [State.deliverMsix]

@[simp] theorem State.kick_frame (s : State) :
    (State.kick s).cycle = s.cycle ∧ (State.kick s).subTick = s.subTick ∧ (State.kick s).obj = s.obj ∧
    (State.kick s).copy = s.copy ∧ (State.kick s).blob = s.blob ∧ (State.kick s).mem = s.mem ∧
    (State.kick s).arr = s.arr ∧ (State.kick s).streams = s.streams ∧ (State.kick s).net = s.net ∧
    (State.kick s).fab = s.fab ∧ (State.kick s).isl = s.isl ∧ (State.kick s).free = s.free ∧
    (State.kick s).pending = s.pending := by
  simp [State.kick]

@[simp] theorem State.loadConfig_frame (s : State) (r : Option ConfigRecord) :
    (State.loadConfig s r).cycle = s.cycle ∧ (State.loadConfig s r).subTick = s.subTick ∧
    (State.loadConfig s r).copy = s.copy ∧ (State.loadConfig s r).mem = s.mem ∧ (State.loadConfig s r).arr = s.arr ∧
    (State.loadConfig s r).streams = s.streams ∧ (State.loadConfig s r).hub = s.hub ∧
    (State.loadConfig s r).net = s.net ∧ (State.loadConfig s r).fab = s.fab ∧ (State.loadConfig s r).free = s.free ∧
    (State.loadConfig s r).pending = s.pending := by
  unfold State.loadConfig; split <;> simp

@[simp] theorem State.removeRails_frame (s : State) :
    (State.removeRails s).cycle = s.cycle ∧ (State.removeRails s).subTick = s.subTick ∧
    (State.removeRails s).copy = s.copy ∧ (State.removeRails s).blob = s.blob ∧ (State.removeRails s).free = s.free ∧
    (State.removeRails s).pending = s.pending := by
  simp [State.removeRails]

@[simp] theorem State.refused_frame (s : State) :
    (State.refused s).cycle = s.cycle ∧ (State.refused s).subTick = s.subTick ∧ (State.refused s).copy = s.copy ∧
    (State.refused s).blob = s.blob ∧ (State.refused s).mem = s.mem ∧ (State.refused s).arr = s.arr ∧
    (State.refused s).streams = s.streams ∧ (State.refused s).hub = s.hub ∧ (State.refused s).net = s.net ∧
    (State.refused s).fab = s.fab ∧ (State.refused s).isl = s.isl ∧ (State.refused s).free = s.free ∧
    (State.refused s).pending = s.pending := by
  simp [State.refused]

theorem State.handleFor_frame (s : State) (w : Nat) (h : Nat × State) (e : s.handleFor w = some h) :
    h.2.cycle = s.cycle ∧
    h.2.subTick = s.subTick ∧
    h.2.obj = s.obj ∧
    h.2.copy = s.copy ∧
    h.2.blob = s.blob ∧
    h.2.mem = s.mem ∧
    h.2.arr = s.arr ∧
    h.2.streams = s.streams ∧
    h.2.hub = s.hub ∧
    h.2.net = s.net ∧
    h.2.fab = s.fab ∧
    h.2.free = s.free ∧
    h.2.pending = s.pending := by
  unfold State.handleFor at e
  dsimp only at e
  split at e
  · simp at e
  · simp only [Option.some.injEq] at e; subst e; simp

@[simp] theorem State.endHandle_frame (s : State) (id : ℕ) (status : ℕ) (state : ℕ) :
    (State.endHandle s id status state).cycle = s.cycle ∧ (State.endHandle s id status state).subTick = s.subTick ∧
    (State.endHandle s id status state).obj = s.obj ∧ (State.endHandle s id status state).copy = s.copy ∧
    (State.endHandle s id status state).blob = s.blob ∧ (State.endHandle s id status state).mem = s.mem ∧
    (State.endHandle s id status state).arr = s.arr ∧ (State.endHandle s id status state).streams = s.streams ∧
    (State.endHandle s id status state).hub = s.hub ∧ (State.endHandle s id status state).net = s.net ∧
    (State.endHandle s id status state).fab = s.fab ∧ (State.endHandle s id status state).free = s.free ∧
    (State.endHandle s id status state).pending = s.pending := by
  simp [State.endHandle]

@[simp] theorem State.putTrust_frame (s : State) (t : Trust) :
    (State.putTrust s t).cycle = s.cycle ∧ (State.putTrust s t).subTick = s.subTick ∧
    (State.putTrust s t).obj = s.obj ∧ (State.putTrust s t).copy = s.copy ∧ (State.putTrust s t).blob = s.blob ∧
    (State.putTrust s t).mem = s.mem ∧ (State.putTrust s t).arr = s.arr ∧ (State.putTrust s t).streams = s.streams ∧
    (State.putTrust s t).hub = s.hub ∧ (State.putTrust s t).net = s.net ∧ (State.putTrust s t).fab = s.fab ∧
    (State.putTrust s t).free = s.free ∧ (State.putTrust s t).pending = s.pending := by
  simp [State.putTrust]

@[simp] theorem State.putFlash_frame (s : State) (f : Flash) :
    (State.putFlash s f).cycle = s.cycle ∧ (State.putFlash s f).subTick = s.subTick ∧
    (State.putFlash s f).obj = s.obj ∧ (State.putFlash s f).copy = s.copy ∧ (State.putFlash s f).blob = s.blob ∧
    (State.putFlash s f).mem = s.mem ∧ (State.putFlash s f).arr = s.arr ∧ (State.putFlash s f).streams = s.streams ∧
    (State.putFlash s f).hub = s.hub ∧ (State.putFlash s f).net = s.net ∧ (State.putFlash s f).fab = s.fab ∧
    (State.putFlash s f).free = s.free ∧ (State.putFlash s f).pending = s.pending := by
  simp [State.putFlash]

@[simp] theorem State.queueImage_frame (s : State) (img : List Byte) :
    (State.queueImage s img).2.cycle = s.cycle ∧ (State.queueImage s img).2.subTick = s.subTick ∧
    (State.queueImage s img).2.copy = s.copy ∧ (State.queueImage s img).2.blob = s.blob ∧
    (State.queueImage s img).2.mem = s.mem ∧ (State.queueImage s img).2.arr = s.arr ∧
    (State.queueImage s img).2.streams = s.streams ∧ (State.queueImage s img).2.hub = s.hub ∧
    (State.queueImage s img).2.net = s.net ∧ (State.queueImage s img).2.fab = s.fab ∧
    (State.queueImage s img).2.free = s.free ∧ (State.queueImage s img).2.pending = s.pending := by
  unfold State.queueImage
  split
  · simp
  · rename_i h e
    have := State.handleFor_frame _ _ _ e
    simp [this]

@[simp] theorem State.leaveRecovery_frame (s : State) :
    (State.leaveRecovery s).cycle = s.cycle ∧ (State.leaveRecovery s).subTick = s.subTick ∧
    (State.leaveRecovery s).obj = s.obj ∧ (State.leaveRecovery s).copy = s.copy ∧
    (State.leaveRecovery s).blob = s.blob ∧ (State.leaveRecovery s).mem = s.mem ∧
    (State.leaveRecovery s).arr = s.arr ∧ (State.leaveRecovery s).streams = s.streams ∧
    (State.leaveRecovery s).hub = s.hub ∧ (State.leaveRecovery s).net = s.net ∧ (State.leaveRecovery s).fab = s.fab ∧
    (State.leaveRecovery s).free = s.free ∧ (State.leaveRecovery s).pending = s.pending := by
  simp [State.leaveRecovery]

@[simp] theorem State.restartWrite_frame (s : State) :
    (State.restartWrite s).cycle = s.cycle ∧ (State.restartWrite s).subTick = s.subTick ∧
    (State.restartWrite s).obj = s.obj ∧ (State.restartWrite s).copy = s.copy ∧ (State.restartWrite s).blob = s.blob ∧
    (State.restartWrite s).mem = s.mem ∧ (State.restartWrite s).arr = s.arr ∧
    (State.restartWrite s).streams = s.streams ∧ (State.restartWrite s).hub = s.hub ∧
    (State.restartWrite s).net = s.net ∧ (State.restartWrite s).fab = s.fab ∧ (State.restartWrite s).free = s.free ∧
    (State.restartWrite s).pending = s.pending := by
  simp [State.restartWrite]

@[simp] theorem State.tornImage_frame (s : State) :
    (State.tornImage s).cycle = s.cycle ∧ (State.tornImage s).subTick = s.subTick ∧ (State.tornImage s).obj = s.obj ∧
    (State.tornImage s).copy = s.copy ∧ (State.tornImage s).blob = s.blob ∧ (State.tornImage s).mem = s.mem ∧
    (State.tornImage s).arr = s.arr ∧ (State.tornImage s).streams = s.streams ∧ (State.tornImage s).hub = s.hub ∧
    (State.tornImage s).net = s.net ∧ (State.tornImage s).fab = s.fab ∧ (State.tornImage s).free = s.free ∧
    (State.tornImage s).pending = s.pending := by
  unfold State.tornImage; split <;> simp

@[simp] theorem State.deriveIdentity_frame (s : State) (pattern : List Byte) :
    (State.deriveIdentity s pattern).cycle = s.cycle ∧ (State.deriveIdentity s pattern).subTick = s.subTick ∧
    (State.deriveIdentity s pattern).copy = s.copy ∧ (State.deriveIdentity s pattern).mem = s.mem ∧
    (State.deriveIdentity s pattern).arr = s.arr ∧ (State.deriveIdentity s pattern).streams = s.streams ∧
    (State.deriveIdentity s pattern).hub = s.hub ∧ (State.deriveIdentity s pattern).net = s.net ∧
    (State.deriveIdentity s pattern).fab = s.fab ∧ (State.deriveIdentity s pattern).free = s.free ∧
    (State.deriveIdentity s pattern).pending = s.pending := by
  simp [State.deriveIdentity]

@[simp] theorem State.enterRecovery_frame (s : State) :
    (State.enterRecovery s).cycle = s.cycle ∧ (State.enterRecovery s).subTick = s.subTick ∧
    (State.enterRecovery s).copy = s.copy ∧ (State.enterRecovery s).blob = s.blob ∧
    (State.enterRecovery s).arr = s.arr ∧ (State.enterRecovery s).streams = s.streams ∧
    (State.enterRecovery s).net = s.net ∧ (State.enterRecovery s).free = s.free ∧
    (State.enterRecovery s).pending = s.pending := by
  simp [State.enterRecovery]

@[simp] theorem State.startImage_frame (s : State) :
    (State.startImage s).cycle = s.cycle ∧ (State.startImage s).subTick = s.subTick ∧
    (State.startImage s).copy = s.copy ∧ (State.startImage s).mem = s.mem ∧ (State.startImage s).arr = s.arr ∧
    (State.startImage s).streams = s.streams ∧ (State.startImage s).hub = s.hub ∧ (State.startImage s).net = s.net ∧
    (State.startImage s).fab = s.fab ∧ (State.startImage s).free = s.free ∧
    (State.startImage s).pending = s.pending := by
  simp [State.startImage]

@[simp] theorem State.measureRecord_frame (s : State) :
    (State.measureRecord s).cycle = s.cycle ∧ (State.measureRecord s).subTick = s.subTick ∧
    (State.measureRecord s).obj = s.obj ∧ (State.measureRecord s).copy = s.copy ∧
    (State.measureRecord s).mem = s.mem ∧ (State.measureRecord s).arr = s.arr ∧
    (State.measureRecord s).streams = s.streams ∧ (State.measureRecord s).hub = s.hub ∧
    (State.measureRecord s).net = s.net ∧ (State.measureRecord s).fab = s.fab ∧ (State.measureRecord s).isl = s.isl ∧
    (State.measureRecord s).pending = s.pending := by
  unfold State.measureRecord; split <;> simp

@[simp] theorem State.showCounters_frame (s : State) :
    (State.showCounters s).cycle = s.cycle ∧ (State.showCounters s).subTick = s.subTick ∧
    (State.showCounters s).copy = s.copy ∧ (State.showCounters s).blob = s.blob ∧ (State.showCounters s).mem = s.mem ∧
    (State.showCounters s).arr = s.arr ∧ (State.showCounters s).streams = s.streams ∧
    (State.showCounters s).hub = s.hub ∧ (State.showCounters s).net = s.net ∧ (State.showCounters s).fab = s.fab ∧
    (State.showCounters s).isl = s.isl ∧ (State.showCounters s).free = s.free ∧
    (State.showCounters s).pending = s.pending := by
  simp [State.showCounters]

@[simp] theorem State.queueRecord_frame (s : State) (raw : List Byte) :
    (s.queueRecord raw).2.cycle = s.cycle ∧
    (s.queueRecord raw).2.subTick = s.subTick ∧
    (s.queueRecord raw).2.copy = s.copy ∧
    (s.queueRecord raw).2.blob = s.blob ∧
    (s.queueRecord raw).2.mem = s.mem ∧
    (s.queueRecord raw).2.arr = s.arr ∧
    (s.queueRecord raw).2.streams = s.streams ∧
    (s.queueRecord raw).2.hub = s.hub ∧
    (s.queueRecord raw).2.net = s.net ∧
    (s.queueRecord raw).2.fab = s.fab ∧
    (s.queueRecord raw).2.free = s.free ∧
    (s.queueRecord raw).2.pending = s.pending := by
  unfold State.queueRecord
  split
  · simp
  · split
    · simp
    · rename_i h e
      have := State.handleFor_frame _ _ _ e
      simp [this]

@[simp] theorem State.writeCert_frame (s : State) (cert : List Byte) :
    (State.writeCert s cert).1.cycle = s.cycle ∧ (State.writeCert s cert).1.subTick = s.subTick ∧
    (State.writeCert s cert).1.copy = s.copy ∧ (State.writeCert s cert).1.blob = s.blob ∧
    (State.writeCert s cert).1.mem = s.mem ∧ (State.writeCert s cert).1.arr = s.arr ∧
    (State.writeCert s cert).1.streams = s.streams ∧ (State.writeCert s cert).1.hub = s.hub ∧
    (State.writeCert s cert).1.net = s.net ∧ (State.writeCert s cert).1.fab = s.fab ∧
    (State.writeCert s cert).1.free = s.free ∧ (State.writeCert s cert).1.pending = s.pending := by
  unfold State.writeCert; split <;> simp

@[simp] theorem State.queueMeasure_frame (s : State) (m : Measure) :
    (State.queueMeasure s m).cycle = s.cycle ∧ (State.queueMeasure s m).subTick = s.subTick ∧
    (State.queueMeasure s m).obj = s.obj ∧ (State.queueMeasure s m).copy = s.copy ∧
    (State.queueMeasure s m).blob = s.blob ∧ (State.queueMeasure s m).mem = s.mem ∧
    (State.queueMeasure s m).arr = s.arr ∧ (State.queueMeasure s m).streams = s.streams ∧
    (State.queueMeasure s m).net = s.net ∧ (State.queueMeasure s m).fab = s.fab ∧
    (State.queueMeasure s m).isl = s.isl ∧ (State.queueMeasure s m).free = s.free ∧
    (State.queueMeasure s m).pending = s.pending := by
  simp [State.queueMeasure]

@[simp] theorem State.extend_frame (s : State) (n : ℕ) (d : List Byte) :
    (State.extend s n d).cycle = s.cycle ∧ (State.extend s n d).subTick = s.subTick ∧
    (State.extend s n d).obj = s.obj ∧ (State.extend s n d).copy = s.copy ∧ (State.extend s n d).mem = s.mem ∧
    (State.extend s n d).arr = s.arr ∧ (State.extend s n d).streams = s.streams ∧ (State.extend s n d).hub = s.hub ∧
    (State.extend s n d).net = s.net ∧ (State.extend s n d).fab = s.fab ∧ (State.extend s n d).isl = s.isl ∧
    (State.extend s n d).free = s.free ∧ (State.extend s n d).pending = s.pending := by
  simp [State.extend]

@[simp] theorem State.startQuote_frame (s : State) (nonce : List Byte) :
    (State.startQuote s nonce).cycle = s.cycle ∧ (State.startQuote s nonce).subTick = s.subTick ∧
    (State.startQuote s nonce).copy = s.copy ∧ (State.startQuote s nonce).blob = s.blob ∧
    (State.startQuote s nonce).mem = s.mem ∧ (State.startQuote s nonce).arr = s.arr ∧
    (State.startQuote s nonce).streams = s.streams ∧ (State.startQuote s nonce).net = s.net ∧
    (State.startQuote s nonce).fab = s.fab ∧ (State.startQuote s nonce).isl = s.isl ∧
    (State.startQuote s nonce).free = s.free ∧ (State.startQuote s nonce).pending = s.pending := by
  simp [State.startQuote]

@[simp] theorem State.violation_frame (s : State) :
    (State.violation s).cycle = s.cycle ∧ (State.violation s).subTick = s.subTick ∧
    (State.violation s).copy = s.copy ∧ (State.violation s).blob = s.blob ∧ (State.violation s).mem = s.mem ∧
    (State.violation s).arr = s.arr ∧ (State.violation s).streams = s.streams ∧ (State.violation s).hub = s.hub ∧
    (State.violation s).net = s.net ∧ (State.violation s).fab = s.fab ∧ (State.violation s).isl = s.isl ∧
    (State.violation s).free = s.free ∧ (State.violation s).pending = s.pending := by
  simp [State.violation]

@[simp] theorem refusable_frame (x : State × Bool) (st : ℕ) :
    (refusable x st).1.cycle = x.1.cycle ∧ (refusable x st).1.subTick = x.1.subTick ∧
    (refusable x st).1.obj = x.1.obj ∧ (refusable x st).1.copy = x.1.copy ∧ (refusable x st).1.blob = x.1.blob ∧
    (refusable x st).1.mem = x.1.mem ∧ (refusable x st).1.arr = x.1.arr ∧ (refusable x st).1.streams = x.1.streams ∧
    (refusable x st).1.hub = x.1.hub ∧ (refusable x st).1.net = x.1.net ∧ (refusable x st).1.fab = x.1.fab ∧
    (refusable x st).1.isl = x.1.isl ∧ (refusable x st).1.free = x.1.free ∧
    (refusable x st).1.pending = x.1.pending := by
  simp [refusable]

@[simp] theorem State.writeFence_frame (s : State) (n : ℕ) (v : ℕ) :
    (State.writeFence s n v).cycle = s.cycle ∧ (State.writeFence s n v).subTick = s.subTick ∧
    (State.writeFence s n v).copy = s.copy ∧ (State.writeFence s n v).blob = s.blob ∧
    (State.writeFence s n v).free = s.free ∧ (State.writeFence s n v).pending = s.pending := by
  simp [State.writeFence]

@[simp] theorem State.resetWrite_frame (s : State) :
    (State.resetWrite s).cycle = s.cycle ∧ (State.resetWrite s).subTick = s.subTick ∧
    (State.resetWrite s).obj = s.obj ∧ (State.resetWrite s).copy = s.copy ∧ (State.resetWrite s).blob = s.blob ∧
    (State.resetWrite s).mem = s.mem ∧ (State.resetWrite s).arr = s.arr ∧ (State.resetWrite s).streams = s.streams ∧
    (State.resetWrite s).hub = s.hub ∧ (State.resetWrite s).net = s.net ∧ (State.resetWrite s).fab = s.fab ∧
    (State.resetWrite s).free = s.free ∧ (State.resetWrite s).pending = s.pending := by
  simp [State.resetWrite]

theorem State.specialWrite_frame (s : State) (n : Nat) (value : List Byte) (x : State × Verdict) (e : s.specialWrite n value = some x) :
    x.1.cycle = s.cycle ∧
    x.1.subTick = s.subTick ∧
    x.1.copy = s.copy ∧
    x.1.blob = s.blob ∧
    x.1.free = s.free ∧
    x.1.pending = s.pending := by
  unfold State.specialWrite at e
  dsimp only at e
  repeat' (split at e)
  all_goals (first
    | (simp only [Option.some.injEq, reduceCtorEq] at e; done)
    | (simp only [Option.some.injEq] at e; subst e; simp; done)
    | (rename_i q; have f := State.queueImage_frame s value; rw [q] at f; simp only [Option.some.injEq] at e; subst e; simp at f; simp [f])
    | (rename_i q; have f := State.queueRecord_frame s value; rw [q] at f; simp only [Option.some.injEq] at e; subst e; simp at f; simp [f])
    | skip)

@[simp] theorem State.writeObj_frame (s : State) (n : ℕ) (r : ObjRow) (value : List Byte) :
    (State.writeObj s n r value).1.cycle = s.cycle ∧ (State.writeObj s n r value).1.subTick = s.subTick ∧
    (State.writeObj s n r value).1.copy = s.copy ∧ (State.writeObj s n r value).1.free = s.free ∧
    (State.writeObj s n r value).1.pending = s.pending := by
  unfold State.writeObj
  split
  · simp
  · split
    · rename_i x e
      have := State.specialWrite_frame _ _ _ _ e
      simp [this]
    · repeat' split
      all_goals simp

@[simp] theorem State.judgeWrite_frame (s : State) (p : Path) (n : ℕ) (value : List Byte) (whole : Bool) :
    (State.judgeWrite s p n value whole).1.cycle = s.cycle ∧
    (State.judgeWrite s p n value whole).1.subTick = s.subTick ∧
    (State.judgeWrite s p n value whole).1.copy = s.copy ∧ (State.judgeWrite s p n value whole).1.free = s.free ∧
    (State.judgeWrite s p n value whole).1.pending = s.pending := by
  unfold State.judgeWrite; (repeat' split) <;> simp

@[simp] theorem State.refreshCopy_frame (s : State) :
    (State.refreshCopy s).cycle = s.cycle ∧ (State.refreshCopy s).subTick = s.subTick ∧
    (State.refreshCopy s).obj = s.obj ∧ (State.refreshCopy s).blob = s.blob ∧ (State.refreshCopy s).mem = s.mem ∧
    (State.refreshCopy s).arr = s.arr ∧ (State.refreshCopy s).streams = s.streams ∧
    (State.refreshCopy s).hub = s.hub ∧ (State.refreshCopy s).net = s.net ∧ (State.refreshCopy s).fab = s.fab ∧
    (State.refreshCopy s).isl = s.isl ∧ (State.refreshCopy s).free = s.free ∧
    (State.refreshCopy s).pending = s.pending := by
  simp [State.refreshCopy]

@[simp] theorem State.putFmp_frame (s : State) (f : FmpState) :
    (State.putFmp s f).cycle = s.cycle ∧ (State.putFmp s f).subTick = s.subTick ∧ (State.putFmp s f).obj = s.obj ∧
    (State.putFmp s f).copy = s.copy ∧ (State.putFmp s f).blob = s.blob ∧ (State.putFmp s f).mem = s.mem ∧
    (State.putFmp s f).arr = s.arr ∧ (State.putFmp s f).streams = s.streams ∧ (State.putFmp s f).hub = s.hub ∧
    (State.putFmp s f).net = s.net ∧ (State.putFmp s f).fab = s.fab ∧ (State.putFmp s f).free = s.free ∧
    (State.putFmp s f).pending = s.pending := by
  simp [State.putFmp]

@[simp] theorem State.putMailbox_frame (s : State) (c : ℕ) (m : ℕ × List Byte) :
    (State.putMailbox s c m).cycle = s.cycle ∧ (State.putMailbox s c m).subTick = s.subTick ∧
    (State.putMailbox s c m).obj = s.obj ∧ (State.putMailbox s c m).copy = s.copy ∧
    (State.putMailbox s c m).blob = s.blob ∧ (State.putMailbox s c m).mem = s.mem ∧
    (State.putMailbox s c m).arr = s.arr ∧ (State.putMailbox s c m).streams = s.streams ∧
    (State.putMailbox s c m).hub = s.hub ∧ (State.putMailbox s c m).net = s.net ∧
    (State.putMailbox s c m).fab = s.fab ∧ (State.putMailbox s c m).free = s.free ∧
    (State.putMailbox s c m).pending = s.pending := by
  simp [State.putMailbox]

@[simp] theorem State.transmit_frame (s : State) (src : Source) (tag : ℕ) (bytes : List Byte) :
    (State.transmit s src tag bytes).cycle = s.cycle ∧ (State.transmit s src tag bytes).subTick = s.subTick ∧
    (State.transmit s src tag bytes).copy = s.copy ∧ (State.transmit s src tag bytes).blob = s.blob ∧
    (State.transmit s src tag bytes).mem = s.mem ∧ (State.transmit s src tag bytes).arr = s.arr ∧
    (State.transmit s src tag bytes).streams = s.streams ∧ (State.transmit s src tag bytes).hub = s.hub ∧
    (State.transmit s src tag bytes).net = s.net ∧ (State.transmit s src tag bytes).free = s.free ∧
    (State.transmit s src tag bytes).pending = s.pending := by
  unfold State.transmit; split <;> simp

@[simp] theorem State.discard_frame (s : State) (src : Source) :
    (State.discard s src).cycle = s.cycle ∧ (State.discard s src).subTick = s.subTick ∧
    (State.discard s src).copy = s.copy ∧ (State.discard s src).blob = s.blob ∧ (State.discard s src).mem = s.mem ∧
    (State.discard s src).arr = s.arr ∧ (State.discard s src).streams = s.streams ∧
    (State.discard s src).hub = s.hub ∧ (State.discard s src).net = s.net ∧ (State.discard s src).fab = s.fab ∧
    (State.discard s src).free = s.free ∧ (State.discard s src).pending = s.pending := by
  unfold State.discard; split <;> simp

@[simp] theorem State.udpBeat_frame (s : State) (addr : List Byte) (hb : Heartbeat) :
    (State.udpBeat s addr hb).cycle = s.cycle ∧ (State.udpBeat s addr hb).subTick = s.subTick ∧
    (State.udpBeat s addr hb).copy = s.copy ∧ (State.udpBeat s addr hb).blob = s.blob ∧
    (State.udpBeat s addr hb).arr = s.arr ∧ (State.udpBeat s addr hb).streams = s.streams ∧
    (State.udpBeat s addr hb).net = s.net ∧ (State.udpBeat s addr hb).free = s.free ∧
    (State.udpBeat s addr hb).pending = s.pending := by
  simp [State.udpBeat]

@[simp] theorem State.queueRequest_frame (s : State) (r : Request) :
    (State.queueRequest s r).cycle = s.cycle ∧ (State.queueRequest s r).subTick = s.subTick ∧
    (State.queueRequest s r).obj = s.obj ∧ (State.queueRequest s r).copy = s.copy ∧
    (State.queueRequest s r).blob = s.blob ∧ (State.queueRequest s r).mem = s.mem ∧
    (State.queueRequest s r).arr = s.arr ∧ (State.queueRequest s r).streams = s.streams ∧
    (State.queueRequest s r).hub = s.hub ∧ (State.queueRequest s r).net = s.net ∧
    (State.queueRequest s r).fab = s.fab ∧ (State.queueRequest s r).free = s.free ∧
    (State.queueRequest s r).pending = s.pending := by
  simp [State.queueRequest]

@[simp] theorem State.judge_frame (s : State) (src : Source) (port : Option ℕ) (tag : ℕ) (bytes : List Byte) :
    (State.judge s src port tag bytes).cycle = s.cycle ∧ (State.judge s src port tag bytes).subTick = s.subTick ∧
    (State.judge s src port tag bytes).copy = s.copy ∧ (State.judge s src port tag bytes).blob = s.blob ∧
    (State.judge s src port tag bytes).arr = s.arr ∧ (State.judge s src port tag bytes).streams = s.streams ∧
    (State.judge s src port tag bytes).net = s.net ∧ (State.judge s src port tag bytes).free = s.free ∧
    (State.judge s src port tag bytes).pending = s.pending := by
  unfold State.judge
  repeat' (first
    | with_reducible rfl | (simp; done) | split | apply And.intro | (intro _)
    | (with_reducible refine (foldl_frame _ _ ?_ _ _).trans ?_)
    | (with_reducible refine (foldl_frame_fst _ _ ?_ _ _).trans ?_)
    | (with_reducible refine (foldl_frame_snd _ _ ?_ _ _).trans ?_)
    | (with_reducible refine (foldl_frame_mid _ _ ?_ _ _).trans ?_)
    | (with_reducible refine (foldl_frame_last2 _ _ ?_ _ _).trans ?_)
    | (with_reducible refine (foldl_frame_last3 _ _ ?_ _ _).trans ?_) | simp)

@[simp] theorem State.receive_frame (s : State) (src : Source) (port : Option ℕ) (tag : ℕ) (bytes : List Byte) :
    (State.receive s src port tag bytes).cycle = s.cycle ∧ (State.receive s src port tag bytes).subTick = s.subTick ∧
    (State.receive s src port tag bytes).copy = s.copy ∧ (State.receive s src port tag bytes).blob = s.blob ∧
    (State.receive s src port tag bytes).arr = s.arr ∧ (State.receive s src port tag bytes).streams = s.streams ∧
    (State.receive s src port tag bytes).net = s.net ∧ (State.receive s src port tag bytes).free = s.free ∧
    (State.receive s src port tag bytes).pending = s.pending := by
  simp [State.receive]

@[simp] theorem State.showSessions_frame (s : State) :
    (State.showSessions s).cycle = s.cycle ∧ (State.showSessions s).subTick = s.subTick ∧
    (State.showSessions s).copy = s.copy ∧ (State.showSessions s).blob = s.blob ∧ (State.showSessions s).mem = s.mem ∧
    (State.showSessions s).arr = s.arr ∧ (State.showSessions s).streams = s.streams ∧
    (State.showSessions s).hub = s.hub ∧ (State.showSessions s).net = s.net ∧ (State.showSessions s).fab = s.fab ∧
    (State.showSessions s).isl = s.isl ∧ (State.showSessions s).free = s.free ∧
    (State.showSessions s).pending = s.pending := by
  simp [State.showSessions]

@[simp] theorem State.closeSession_frame (s : State) (sid : ℕ) :
    (State.closeSession s sid).cycle = s.cycle ∧ (State.closeSession s sid).subTick = s.subTick ∧
    (State.closeSession s sid).copy = s.copy ∧ (State.closeSession s sid).blob = s.blob ∧
    (State.closeSession s sid).mem = s.mem ∧ (State.closeSession s sid).arr = s.arr ∧
    (State.closeSession s sid).streams = s.streams ∧ (State.closeSession s sid).hub = s.hub ∧
    (State.closeSession s sid).net = s.net ∧ (State.closeSession s sid).fab = s.fab ∧
    (State.closeSession s sid).free = s.free ∧ (State.closeSession s sid).pending = s.pending := by
  simp [State.closeSession]

@[simp] theorem State.pathOf_frame (s : State) (r : Request) :
    (State.pathOf s r).2.cycle = s.cycle ∧ (State.pathOf s r).2.subTick = s.subTick ∧
    (State.pathOf s r).2.copy = s.copy ∧ (State.pathOf s r).2.blob = s.blob ∧ (State.pathOf s r).2.mem = s.mem ∧
    (State.pathOf s r).2.arr = s.arr ∧ (State.pathOf s r).2.streams = s.streams ∧ (State.pathOf s r).2.hub = s.hub ∧
    (State.pathOf s r).2.net = s.net ∧ (State.pathOf s r).2.fab = s.fab ∧ (State.pathOf s r).2.free = s.free ∧
    (State.pathOf s r).2.pending = s.pending := by
  unfold State.pathOf; (repeat' split) <;> simp

@[simp] theorem State.reply_frame (s : State) (r : Request) (a : Answer) :
    (State.reply s r a).cycle = s.cycle ∧ (State.reply s r a).subTick = s.subTick ∧
    (State.reply s r a).copy = s.copy ∧ (State.reply s r a).blob = s.blob ∧ (State.reply s r a).mem = s.mem ∧
    (State.reply s r a).arr = s.arr ∧ (State.reply s r a).streams = s.streams ∧ (State.reply s r a).hub = s.hub ∧
    (State.reply s r a).net = s.net ∧ (State.reply s r a).free = s.free ∧
    (State.reply s r a).pending = s.pending := by
  simp [State.reply]

/-- Serving a request keeps what the service, the reply and the closing of sessions keep. -/
theorem State.serve_keeps {β : Type} (P : State → β) (s : State) (ops : Nat → Bool) (act : Request → Path → State → Answer × State)
    (h1 : ∀ (u : State) (f : FmpState), P (u.putFmp f) = P u) (h2 : ∀ (u : State) (n k : Nat), P (u.bump n k) = P u)
    (h3 : ∀ (u : State) (r : Request), P (u.pathOf r).2 = P u) (h4 : ∀ (u : State) (r : Request) (a : Answer), P (u.reply r a) = P u)
    (h5 : ∀ (u : State) (n : Nat), P (u.closeSession n) = P u) (h6 : ∀ u : State, P u.settle = P u)
    (h : ∀ (r : Request) (p : Path) (u : State), P (act r p u).2 = P u) : P (s.serve ops act) = P s := by
  unfold State.serve
  split
  · rfl
  · split
    · rfl
    · dsimp only
      rw [h6, foldl_frame P State.closeSession h5, h4, h, h3, h2, h1]

@[simp] theorem State.readEntry_frame (s : State) (p : Path) (n : ℕ) :
    (State.readEntry s p n).2.cycle = s.cycle ∧ (State.readEntry s p n).2.subTick = s.subTick ∧
    (State.readEntry s p n).2.copy = s.copy ∧ (State.readEntry s p n).2.blob = s.blob ∧
    (State.readEntry s p n).2.mem = s.mem ∧ (State.readEntry s p n).2.arr = s.arr ∧
    (State.readEntry s p n).2.streams = s.streams ∧ (State.readEntry s p n).2.hub = s.hub ∧
    (State.readEntry s p n).2.net = s.net ∧ (State.readEntry s p n).2.fab = s.fab ∧
    (State.readEntry s p n).2.isl = s.isl ∧ (State.readEntry s p n).2.free = s.free ∧
    (State.readEntry s p n).2.pending = s.pending := by
  unfold State.readEntry; (repeat' split) <;> simp

@[simp] theorem State.readEntries_frame (x0 : ℕ) (x1 : State) (x2 : Path) (x3 : List Byte) (x4 : ℕ) (x5 : ℕ) (x6 : List Byte) :
    (State.readEntries x0 x1 x2 x3 x4 x5 x6).2.cycle = x1.cycle ∧
    (State.readEntries x0 x1 x2 x3 x4 x5 x6).2.subTick = x1.subTick ∧
    (State.readEntries x0 x1 x2 x3 x4 x5 x6).2.copy = x1.copy ∧
    (State.readEntries x0 x1 x2 x3 x4 x5 x6).2.blob = x1.blob ∧
    (State.readEntries x0 x1 x2 x3 x4 x5 x6).2.mem = x1.mem ∧
    (State.readEntries x0 x1 x2 x3 x4 x5 x6).2.arr = x1.arr ∧
    (State.readEntries x0 x1 x2 x3 x4 x5 x6).2.streams = x1.streams ∧
    (State.readEntries x0 x1 x2 x3 x4 x5 x6).2.hub = x1.hub ∧
    (State.readEntries x0 x1 x2 x3 x4 x5 x6).2.net = x1.net ∧
    (State.readEntries x0 x1 x2 x3 x4 x5 x6).2.fab = x1.fab ∧
    (State.readEntries x0 x1 x2 x3 x4 x5 x6).2.isl = x1.isl ∧
    (State.readEntries x0 x1 x2 x3 x4 x5 x6).2.free = x1.free ∧
    (State.readEntries x0 x1 x2 x3 x4 x5 x6).2.pending = x1.pending := by
  induction x0 generalizing x1 x2 x3 x4 x5 x6 with
  | zero => simp [State.readEntries]
  | succ k ih =>
    unfold State.readEntries
    repeat' (first | with_reducible rfl | (simp [ih]; done) | split | apply And.intro | intro _ | (with_reducible refine (foldl_frame _ _ ?_ _ _).trans ?_) | simp [ih])

@[simp] theorem State.serveFmpRead_frame (r : Request) (p : Path) (s : State) :
    (State.serveFmpRead r p s).2.cycle = s.cycle ∧ (State.serveFmpRead r p s).2.subTick = s.subTick ∧
    (State.serveFmpRead r p s).2.copy = s.copy ∧ (State.serveFmpRead r p s).2.blob = s.blob ∧
    (State.serveFmpRead r p s).2.mem = s.mem ∧ (State.serveFmpRead r p s).2.arr = s.arr ∧
    (State.serveFmpRead r p s).2.streams = s.streams ∧ (State.serveFmpRead r p s).2.hub = s.hub ∧
    (State.serveFmpRead r p s).2.net = s.net ∧ (State.serveFmpRead r p s).2.fab = s.fab ∧
    (State.serveFmpRead r p s).2.isl = s.isl ∧ (State.serveFmpRead r p s).2.free = s.free ∧
    (State.serveFmpRead r p s).2.pending = s.pending := by
  simp [State.serveFmpRead]

@[simp] theorem State.writeEntries_frame (x0 : ℕ) (x1 : State) (x2 : Path) (x3 : List Byte) (x4 : ℕ) (x5 : ℕ) (x6 : ℕ) (x7 : List Byte) :
    (State.writeEntries x0 x1 x2 x3 x4 x5 x6 x7).2.cycle = x1.cycle ∧
    (State.writeEntries x0 x1 x2 x3 x4 x5 x6 x7).2.subTick = x1.subTick ∧
    (State.writeEntries x0 x1 x2 x3 x4 x5 x6 x7).2.copy = x1.copy ∧
    (State.writeEntries x0 x1 x2 x3 x4 x5 x6 x7).2.free = x1.free ∧
    (State.writeEntries x0 x1 x2 x3 x4 x5 x6 x7).2.pending = x1.pending := by
  induction x0 generalizing x1 x2 x3 x4 x5 x6 x7 with
  | zero => simp [State.writeEntries]
  | succ k ih =>
    unfold State.writeEntries
    repeat' (first | with_reducible rfl | (simp [ih]; done) | split | apply And.intro | intro _ | (with_reducible refine (foldl_frame _ _ ?_ _ _).trans ?_) | simp [ih])

@[simp] theorem State.serveFmpWrite_frame (r : Request) (p : Path) (s : State) :
    (State.serveFmpWrite r p s).2.cycle = s.cycle ∧ (State.serveFmpWrite r p s).2.subTick = s.subTick ∧
    (State.serveFmpWrite r p s).2.copy = s.copy ∧ (State.serveFmpWrite r p s).2.free = s.free ∧
    (State.serveFmpWrite r p s).2.pending = s.pending := by
  simp [State.serveFmpWrite]

@[simp] theorem State.serveReadSeg_frame (r : Request) (p : Path) (s : State) :
    (State.serveReadSeg r p s).2.cycle = s.cycle ∧ (State.serveReadSeg r p s).2.subTick = s.subTick ∧
    (State.serveReadSeg r p s).2.copy = s.copy ∧ (State.serveReadSeg r p s).2.blob = s.blob ∧
    (State.serveReadSeg r p s).2.mem = s.mem ∧ (State.serveReadSeg r p s).2.arr = s.arr ∧
    (State.serveReadSeg r p s).2.streams = s.streams ∧ (State.serveReadSeg r p s).2.hub = s.hub ∧
    (State.serveReadSeg r p s).2.net = s.net ∧ (State.serveReadSeg r p s).2.fab = s.fab ∧
    (State.serveReadSeg r p s).2.isl = s.isl ∧ (State.serveReadSeg r p s).2.free = s.free ∧
    (State.serveReadSeg r p s).2.pending = s.pending := by
  unfold State.serveReadSeg; (repeat' split) <;> simp

@[simp] theorem State.putTransfer_frame (s : State) (src : Source) (n : ℕ) (t : Option Transfer) :
    (State.putTransfer s src n t).cycle = s.cycle ∧ (State.putTransfer s src n t).subTick = s.subTick ∧
    (State.putTransfer s src n t).obj = s.obj ∧ (State.putTransfer s src n t).copy = s.copy ∧
    (State.putTransfer s src n t).blob = s.blob ∧ (State.putTransfer s src n t).mem = s.mem ∧
    (State.putTransfer s src n t).arr = s.arr ∧ (State.putTransfer s src n t).streams = s.streams ∧
    (State.putTransfer s src n t).hub = s.hub ∧ (State.putTransfer s src n t).net = s.net ∧
    (State.putTransfer s src n t).fab = s.fab ∧ (State.putTransfer s src n t).free = s.free ∧
    (State.putTransfer s src n t).pending = s.pending := by
  simp [State.putTransfer]

@[simp] theorem State.serveWriteSeg_frame (r : Request) (p : Path) (s : State) :
    (State.serveWriteSeg r p s).2.cycle = s.cycle ∧ (State.serveWriteSeg r p s).2.subTick = s.subTick ∧
    (State.serveWriteSeg r p s).2.copy = s.copy ∧ (State.serveWriteSeg r p s).2.free = s.free ∧
    (State.serveWriteSeg r p s).2.pending = s.pending := by
  unfold State.serveWriteSeg; (repeat' split) <;> simp

@[simp] theorem State.servePoll_frame (r : Request) (x1 : Path) (s : State) :
    (State.servePoll r x1 s).2.cycle = s.cycle ∧ (State.servePoll r x1 s).2.subTick = s.subTick ∧
    (State.servePoll r x1 s).2.obj = s.obj ∧ (State.servePoll r x1 s).2.copy = s.copy ∧
    (State.servePoll r x1 s).2.blob = s.blob ∧ (State.servePoll r x1 s).2.mem = s.mem ∧
    (State.servePoll r x1 s).2.arr = s.arr ∧ (State.servePoll r x1 s).2.streams = s.streams ∧
    (State.servePoll r x1 s).2.hub = s.hub ∧ (State.servePoll r x1 s).2.net = s.net ∧
    (State.servePoll r x1 s).2.fab = s.fab ∧ (State.servePoll r x1 s).2.isl = s.isl ∧
    (State.servePoll r x1 s).2.free = s.free ∧ (State.servePoll r x1 s).2.pending = s.pending := by
  unfold State.servePoll
  repeat' (first
    | with_reducible rfl | (simp; done) | split | apply And.intro | (intro _)
    | (with_reducible refine (foldl_frame _ _ ?_ _ _).trans ?_)
    | (with_reducible refine (foldl_frame_fst _ _ ?_ _ _).trans ?_)
    | (with_reducible refine (foldl_frame_snd _ _ ?_ _ _).trans ?_)
    | (with_reducible refine (foldl_frame_mid _ _ ?_ _ _).trans ?_)
    | (with_reducible refine (foldl_frame_last2 _ _ ?_ _ _).trans ?_)
    | (with_reducible refine (foldl_frame_last3 _ _ ?_ _ _).trans ?_) | simp)

@[simp] theorem State.serveOpen_frame (r : Request) (x1 : Path) (s : State) :
    (State.serveOpen r x1 s).2.cycle = s.cycle ∧ (State.serveOpen r x1 s).2.subTick = s.subTick ∧
    (State.serveOpen r x1 s).2.copy = s.copy ∧ (State.serveOpen r x1 s).2.blob = s.blob ∧
    (State.serveOpen r x1 s).2.mem = s.mem ∧ (State.serveOpen r x1 s).2.arr = s.arr ∧
    (State.serveOpen r x1 s).2.streams = s.streams ∧ (State.serveOpen r x1 s).2.hub = s.hub ∧
    (State.serveOpen r x1 s).2.net = s.net ∧ (State.serveOpen r x1 s).2.fab = s.fab ∧
    (State.serveOpen r x1 s).2.free = s.free ∧ (State.serveOpen r x1 s).2.pending = s.pending := by
  unfold State.serveOpen; (repeat' split) <;> simp

@[simp] theorem State.putSession_frame (s : State) (x : Session) :
    (State.putSession s x).cycle = s.cycle ∧ (State.putSession s x).subTick = s.subTick ∧
    (State.putSession s x).obj = s.obj ∧ (State.putSession s x).copy = s.copy ∧ (State.putSession s x).blob = s.blob ∧
    (State.putSession s x).mem = s.mem ∧ (State.putSession s x).arr = s.arr ∧
    (State.putSession s x).streams = s.streams ∧ (State.putSession s x).hub = s.hub ∧
    (State.putSession s x).net = s.net ∧ (State.putSession s x).fab = s.fab ∧ (State.putSession s x).free = s.free ∧
    (State.putSession s x).pending = s.pending := by
  simp [State.putSession]

@[simp] theorem State.serveAuth_frame (r : Request) (x1 : Path) (s : State) :
    (State.serveAuth r x1 s).2.cycle = s.cycle ∧ (State.serveAuth r x1 s).2.subTick = s.subTick ∧
    (State.serveAuth r x1 s).2.copy = s.copy ∧ (State.serveAuth r x1 s).2.blob = s.blob ∧
    (State.serveAuth r x1 s).2.mem = s.mem ∧ (State.serveAuth r x1 s).2.arr = s.arr ∧
    (State.serveAuth r x1 s).2.streams = s.streams ∧ (State.serveAuth r x1 s).2.hub = s.hub ∧
    (State.serveAuth r x1 s).2.net = s.net ∧ (State.serveAuth r x1 s).2.fab = s.fab ∧
    (State.serveAuth r x1 s).2.free = s.free ∧ (State.serveAuth r x1 s).2.pending = s.pending := by
  unfold State.serveAuth
  dsimp only
  repeat' (first
    | with_reducible rfl
    | split
    | (simp; done)
    | (rename_i h e; have := State.handleFor_frame _ _ _ e; simp [this]; done))

@[simp] theorem State.serveClose_frame (r : Request) (p : Path) (s : State) :
    (State.serveClose r p s).2.cycle = s.cycle ∧ (State.serveClose r p s).2.subTick = s.subTick ∧
    (State.serveClose r p s).2.copy = s.copy ∧ (State.serveClose r p s).2.blob = s.blob ∧
    (State.serveClose r p s).2.mem = s.mem ∧ (State.serveClose r p s).2.arr = s.arr ∧
    (State.serveClose r p s).2.streams = s.streams ∧ (State.serveClose r p s).2.hub = s.hub ∧
    (State.serveClose r p s).2.net = s.net ∧ (State.serveClose r p s).2.fab = s.fab ∧
    (State.serveClose r p s).2.free = s.free ∧ (State.serveClose r p s).2.pending = s.pending := by
  simp [State.serveClose]

end Sys2Proof.Machine
end

