-- ==== Sys2Proof/Laws/FramesPower.lean ====
section
/-!
SUPPORT. What power, loss, reset and the clock leave untouched: for each operation, the components of the state it
does not write, once, so that a proof about a command does not unfold the operations the command is made of.
Modules in order: Power, BringUp, FabricClock, Clock, CoreAccess, SidebandOps, WearLife.
-/

namespace Sys2Proof.Machine

@[simp] theorem State.putPower_frame (s : State) (p : PowerState) :
    (State.putPower s p).cycle = s.cycle ∧ (State.putPower s p).subTick = s.subTick ∧
    (State.putPower s p).obj = s.obj ∧ (State.putPower s p).copy = s.copy ∧ (State.putPower s p).blob = s.blob ∧
    (State.putPower s p).mem = s.mem ∧ (State.putPower s p).arr = s.arr ∧ (State.putPower s p).streams = s.streams ∧
    (State.putPower s p).hub = s.hub ∧ (State.putPower s p).net = s.net ∧ (State.putPower s p).fab = s.fab ∧
    (State.putPower s p).free = s.free ∧ (State.putPower s p).pending = s.pending := by
  simp [State.putPower]

@[simp] theorem State.descend_frame (s : State) (k : ℕ) (dwell : ℕ) :
    (State.descend s k dwell).cycle = s.cycle ∧ (State.descend s k dwell).subTick = s.subTick ∧
    (State.descend s k dwell).obj = s.obj ∧ (State.descend s k dwell).copy = s.copy ∧
    (State.descend s k dwell).blob = s.blob ∧ (State.descend s k dwell).mem = s.mem ∧
    (State.descend s k dwell).arr = s.arr ∧ (State.descend s k dwell).streams = s.streams ∧
    (State.descend s k dwell).hub = s.hub ∧ (State.descend s k dwell).net = s.net ∧
    (State.descend s k dwell).fab = s.fab ∧ (State.descend s k dwell).free = s.free ∧
    (State.descend s k dwell).pending = s.pending := by
  simp [State.descend]

@[simp] theorem State.loseBanks_frame (s : State) (d : ℕ) (mask : ℕ) :
    (State.loseBanks s d mask).cycle = s.cycle ∧ (State.loseBanks s d mask).subTick = s.subTick ∧
    (State.loseBanks s d mask).copy = s.copy ∧ (State.loseBanks s d mask).blob = s.blob ∧
    (State.loseBanks s d mask).arr = s.arr ∧ (State.loseBanks s d mask).streams = s.streams ∧
    (State.loseBanks s d mask).hub = s.hub ∧ (State.loseBanks s d mask).net = s.net ∧
    (State.loseBanks s d mask).fab = s.fab ∧ (State.loseBanks s d mask).isl = s.isl ∧
    (State.loseBanks s d mask).free = s.free ∧ (State.loseBanks s d mask).pending = s.pending := by
  simp [State.loseBanks]

@[simp] theorem State.sleepBanks_frame (s : State) :
    (State.sleepBanks s).cycle = s.cycle ∧ (State.sleepBanks s).subTick = s.subTick ∧
    (State.sleepBanks s).copy = s.copy ∧ (State.sleepBanks s).blob = s.blob ∧ (State.sleepBanks s).arr = s.arr ∧
    (State.sleepBanks s).streams = s.streams ∧ (State.sleepBanks s).hub = s.hub ∧ (State.sleepBanks s).net = s.net ∧
    (State.sleepBanks s).fab = s.fab ∧ (State.sleepBanks s).isl = s.isl ∧ (State.sleepBanks s).free = s.free ∧
    (State.sleepBanks s).pending = s.pending := by
  unfold State.sleepBanks
  repeat' (first
    | with_reducible rfl | (simp; done) | split | apply And.intro | (intro _)
    | (with_reducible refine (foldl_frame _ _ ?_ _ _).trans ?_))

@[simp] theorem State.loseHbm_frame (s : State) :
    (State.loseHbm s).cycle = s.cycle ∧ (State.loseHbm s).subTick = s.subTick ∧ (State.loseHbm s).obj = s.obj ∧
    (State.loseHbm s).copy = s.copy ∧ (State.loseHbm s).blob = s.blob ∧ (State.loseHbm s).arr = s.arr ∧
    (State.loseHbm s).streams = s.streams ∧ (State.loseHbm s).hub = s.hub ∧ (State.loseHbm s).net = s.net ∧
    (State.loseHbm s).fab = s.fab ∧ (State.loseHbm s).isl = s.isl ∧ (State.loseHbm s).free = s.free ∧
    (State.loseHbm s).pending = s.pending := by
  simp [State.loseHbm]

@[simp] theorem State.entryWork_frame (s : State) (k : ℕ) :
    (State.entryWork s k).cycle = s.cycle ∧ (State.entryWork s k).subTick = s.subTick ∧
    (State.entryWork s k).copy = s.copy ∧ (State.entryWork s k).blob = s.blob ∧ (State.entryWork s k).arr = s.arr ∧
    (State.entryWork s k).streams = s.streams ∧ (State.entryWork s k).net = s.net ∧
    (State.entryWork s k).free = s.free ∧ (State.entryWork s k).pending = s.pending := by
  unfold State.entryWork
  repeat' (first
    | with_reducible rfl | (simp; done) | split | apply And.intro | (intro _)
    | (with_reducible refine (foldl_frame _ _ ?_ _ _).trans ?_)
    | (with_reducible refine (foldl_frame_fst _ _ ?_ _ _).trans ?_)
    | (with_reducible refine (foldl_frame_snd _ _ ?_ _ _).trans ?_)
    | (with_reducible refine (foldl_frame_mid _ _ ?_ _ _).trans ?_)
    | (with_reducible refine (foldl_frame_last2 _ _ ?_ _ _).trans ?_)
    | (with_reducible refine (foldl_frame_last3 _ _ ?_ _ _).trans ?_) | simp)

@[simp] theorem State.perform_frame (s : State) (acc : Access) :
    (State.perform s acc).cycle = s.cycle ∧ (State.perform s acc).subTick = s.subTick ∧
    (State.perform s acc).copy = s.copy ∧ (State.perform s acc).blob = s.blob ∧ (State.perform s acc).arr = s.arr ∧
    (State.perform s acc).net = s.net ∧ (State.perform s acc).free = s.free ∧
    (State.perform s acc).pending = s.pending := by
  unfold State.perform; split <;> simp

@[simp] theorem State.exitWork_frame (s : State) :
    (State.exitWork s).cycle = s.cycle ∧ (State.exitWork s).subTick = s.subTick ∧ (State.exitWork s).copy = s.copy ∧
    (State.exitWork s).blob = s.blob ∧ (State.exitWork s).arr = s.arr ∧ (State.exitWork s).streams = s.streams ∧
    (State.exitWork s).net = s.net ∧ (State.exitWork s).free = s.free ∧ (State.exitWork s).pending = s.pending := by
  unfold State.exitWork
  repeat' (first
    | with_reducible rfl | (simp; done) | split | apply And.intro | (intro _)
    | (with_reducible refine (foldl_frame _ _ ?_ _ _).trans ?_)
    | (with_reducible refine (foldl_frame_fst _ _ ?_ _ _).trans ?_)
    | (with_reducible refine (foldl_frame_snd _ _ ?_ _ _).trans ?_)
    | (with_reducible refine (foldl_frame_mid _ _ ?_ _ _).trans ?_)
    | (with_reducible refine (foldl_frame_last2 _ _ ?_ _ _).trans ?_)
    | (with_reducible refine (foldl_frame_last3 _ _ ?_ _ _).trans ?_) | simp)

@[simp] theorem State.assertHolds_frame (s : State) :
    (State.assertHolds s).cycle = s.cycle ∧ (State.assertHolds s).subTick = s.subTick ∧
    (State.assertHolds s).obj = s.obj ∧ (State.assertHolds s).copy = s.copy ∧ (State.assertHolds s).blob = s.blob ∧
    (State.assertHolds s).mem = s.mem ∧ (State.assertHolds s).streams = s.streams ∧
    (State.assertHolds s).hub = s.hub ∧ (State.assertHolds s).net = s.net ∧ (State.assertHolds s).fab = s.fab ∧
    (State.assertHolds s).isl = s.isl ∧ (State.assertHolds s).free = s.free ∧
    (State.assertHolds s).pending = s.pending := by
  unfold State.assertHolds
  repeat' (first
    | with_reducible rfl | (simp; done) | split | apply And.intro | (intro _)
    | (with_reducible refine (foldl_frame _ _ ?_ _ _).trans ?_))

@[simp] theorem State.thermalEvent_frame (s : State) (code : ℕ) :
    (State.thermalEvent s code).cycle = s.cycle ∧ (State.thermalEvent s code).subTick = s.subTick ∧
    (State.thermalEvent s code).copy = s.copy ∧ (State.thermalEvent s code).blob = s.blob ∧
    (State.thermalEvent s code).arr = s.arr ∧ (State.thermalEvent s code).streams = s.streams ∧
    (State.thermalEvent s code).net = s.net ∧ (State.thermalEvent s code).free = s.free ∧
    (State.thermalEvent s code).pending = s.pending := by
  unfold State.thermalEvent; split <;> simp

@[simp] theorem State.followCycle_frame (s : State) (v : ℤ) :
    (State.followCycle s v).cycle = s.cycle ∧ (State.followCycle s v).subTick = s.subTick ∧
    (State.followCycle s v).copy = s.copy ∧ (State.followCycle s v).blob = s.blob ∧
    (State.followCycle s v).mem = s.mem ∧ (State.followCycle s v).arr = s.arr ∧
    (State.followCycle s v).streams = s.streams ∧ (State.followCycle s v).hub = s.hub ∧
    (State.followCycle s v).net = s.net ∧ (State.followCycle s v).fab = s.fab ∧
    (State.followCycle s v).free = s.free ∧ (State.followCycle s v).pending = s.pending := by
  simp [State.followCycle]

@[simp] theorem State.storeTj_frame (s : State) (l : List ℤ) :
    (State.storeTj s l).cycle = s.cycle ∧ (State.storeTj s l).subTick = s.subTick ∧
    (State.storeTj s l).copy = s.copy ∧ (State.storeTj s l).blob = s.blob ∧ (State.storeTj s l).mem = s.mem ∧
    (State.storeTj s l).arr = s.arr ∧ (State.storeTj s l).streams = s.streams ∧ (State.storeTj s l).hub = s.hub ∧
    (State.storeTj s l).net = s.net ∧ (State.storeTj s l).fab = s.fab ∧ (State.storeTj s l).free = s.free ∧
    (State.storeTj s l).pending = s.pending := by
  unfold State.storeTj
  repeat' (first
    | with_reducible rfl | (simp; done) | split | apply And.intro | (intro _)
    | (with_reducible refine (foldl_frame _ _ ?_ _ _).trans ?_))

@[simp] theorem State.tripNow_frame (s : State) :
    (State.tripNow s).cycle = s.cycle ∧ (State.tripNow s).subTick = s.subTick ∧ (State.tripNow s).copy = s.copy ∧
    (State.tripNow s).blob = s.blob ∧ (State.tripNow s).free = s.free ∧ (State.tripNow s).pending = s.pending := by
  simp [State.tripNow]

@[simp] theorem State.enterThrottle_frame (s : State) :
    (State.enterThrottle s).cycle = s.cycle ∧ (State.enterThrottle s).subTick = s.subTick ∧
    (State.enterThrottle s).copy = s.copy ∧ (State.enterThrottle s).blob = s.blob ∧
    (State.enterThrottle s).streams = s.streams ∧ (State.enterThrottle s).net = s.net ∧
    (State.enterThrottle s).free = s.free ∧ (State.enterThrottle s).pending = s.pending := by
  simp [State.enterThrottle]

@[simp] theorem State.storeVin_frame (s : State) (mv : ℕ) :
    (State.storeVin s mv).cycle = s.cycle ∧ (State.storeVin s mv).subTick = s.subTick ∧
    (State.storeVin s mv).copy = s.copy ∧ (State.storeVin s mv).blob = s.blob ∧ (State.storeVin s mv).mem = s.mem ∧
    (State.storeVin s mv).arr = s.arr ∧ (State.storeVin s mv).streams = s.streams ∧
    (State.storeVin s mv).hub = s.hub ∧ (State.storeVin s mv).net = s.net ∧ (State.storeVin s mv).fab = s.fab ∧
    (State.storeVin s mv).isl = s.isl ∧ (State.storeVin s mv).free = s.free ∧
    (State.storeVin s mv).pending = s.pending := by
  simp [State.storeVin]

@[simp] theorem State.loseHub_frame (s : State) (l : List (ℕ × ℕ)) :
    (State.loseHub s l).cycle = s.cycle ∧ (State.loseHub s l).subTick = s.subTick ∧
    (State.loseHub s l).copy = s.copy ∧ (State.loseHub s l).blob = s.blob ∧ (State.loseHub s l).streams = s.streams ∧
    (State.loseHub s l).net = s.net ∧ (State.loseHub s l).free = s.free ∧
    (State.loseHub s l).pending = s.pending := by
  simp [State.loseHub]

@[simp] theorem State.bringUpDdr_frame (s : State) :
    (State.bringUpDdr s).cycle = s.cycle ∧ (State.bringUpDdr s).subTick = s.subTick ∧
    (State.bringUpDdr s).copy = s.copy ∧ (State.bringUpDdr s).blob = s.blob ∧ (State.bringUpDdr s).arr = s.arr ∧
    (State.bringUpDdr s).streams = s.streams ∧ (State.bringUpDdr s).hub = s.hub ∧ (State.bringUpDdr s).net = s.net ∧
    (State.bringUpDdr s).fab = s.fab ∧ (State.bringUpDdr s).isl = s.isl ∧ (State.bringUpDdr s).free = s.free ∧
    (State.bringUpDdr s).pending = s.pending := by
  unfold State.bringUpDdr
  repeat' (first
    | with_reducible rfl | (simp; done) | split | apply And.intro | (intro _)
    | (with_reducible refine (foldl_frame _ _ ?_ _ _).trans ?_)
    | (with_reducible refine (foldl_frame_fst _ _ ?_ _ _).trans ?_)
    | (with_reducible refine (foldl_frame_snd _ _ ?_ _ _).trans ?_)
    | (with_reducible refine (foldl_frame_mid _ _ ?_ _ _).trans ?_)
    | (with_reducible refine (foldl_frame_last2 _ _ ?_ _ _).trans ?_)
    | (with_reducible refine (foldl_frame_last3 _ _ ?_ _ _).trans ?_) | simp)

@[simp] theorem State.trainDdr_frame (s : State) :
    (State.trainDdr s).cycle = s.cycle ∧ (State.trainDdr s).subTick = s.subTick ∧ (State.trainDdr s).copy = s.copy ∧
    (State.trainDdr s).blob = s.blob ∧ (State.trainDdr s).arr = s.arr ∧ (State.trainDdr s).streams = s.streams ∧
    (State.trainDdr s).hub = s.hub ∧ (State.trainDdr s).net = s.net ∧ (State.trainDdr s).fab = s.fab ∧
    (State.trainDdr s).isl = s.isl ∧ (State.trainDdr s).free = s.free ∧ (State.trainDdr s).pending = s.pending := by
  unfold State.trainDdr
  repeat' (first
    | with_reducible rfl | (simp; done) | split | apply And.intro | (intro _)
    | (with_reducible refine (foldl_frame _ _ ?_ _ _).trans ?_)
    | (with_reducible refine (foldl_frame_fst _ _ ?_ _ _).trans ?_)
    | (with_reducible refine (foldl_frame_snd _ _ ?_ _ _).trans ?_)
    | (with_reducible refine (foldl_frame_mid _ _ ?_ _ _).trans ?_)
    | (with_reducible refine (foldl_frame_last2 _ _ ?_ _ _).trans ?_)
    | (with_reducible refine (foldl_frame_last3 _ _ ?_ _ _).trans ?_) | simp)

@[simp] theorem State.bringUpBanks_frame (s : State) :
    (State.bringUpBanks s).cycle = s.cycle ∧ (State.bringUpBanks s).subTick = s.subTick ∧
    (State.bringUpBanks s).copy = s.copy ∧ (State.bringUpBanks s).blob = s.blob ∧ (State.bringUpBanks s).arr = s.arr ∧
    (State.bringUpBanks s).streams = s.streams ∧ (State.bringUpBanks s).net = s.net ∧
    (State.bringUpBanks s).free = s.free ∧ (State.bringUpBanks s).pending = s.pending := by
  unfold State.bringUpBanks
  repeat' (first
    | with_reducible rfl | (simp; done) | split | apply And.intro | (intro _)
    | (with_reducible refine (foldl_frame _ _ ?_ _ _).trans ?_))

@[simp] theorem State.railsOn_frame (s : State) :
    (State.railsOn s).cycle = s.cycle ∧ (State.railsOn s).subTick = s.subTick ∧ (State.railsOn s).copy = s.copy ∧
    (State.railsOn s).blob = s.blob ∧ (State.railsOn s).free = s.free ∧ (State.railsOn s).pending = s.pending := by
  unfold State.railsOn
  refine ⟨?_, ?_, ?_, ?_, ?_, ?_⟩
  repeat' (first
    | with_reducible rfl
    | simp; done
    | split
    | apply And.intro
    | intro _
    | with_reducible refine (foldl_frame _ _ ?_ _ _).trans ?_
    | with_reducible refine (foldl_frame_fst _ _ ?_ _ _).trans ?_
    | with_reducible refine (foldl_frame_snd _ _ ?_ _ _).trans ?_
    | with_reducible refine (foldl_frame_mid _ _ ?_ _ _).trans ?_
    | with_reducible refine (foldl_frame_last2 _ _ ?_ _ _).trans ?_
    | with_reducible refine (foldl_frame_last3 _ _ ?_ _ _).trans ?_
    | simp)

@[simp] theorem State.sendOwed_frame (s : State) (p : ℕ) :
    (State.sendOwed s p).cycle = s.cycle ∧ (State.sendOwed s p).subTick = s.subTick ∧
    (State.sendOwed s p).obj = s.obj ∧ (State.sendOwed s p).copy = s.copy ∧ (State.sendOwed s p).blob = s.blob ∧
    (State.sendOwed s p).mem = s.mem ∧ (State.sendOwed s p).arr = s.arr ∧ (State.sendOwed s p).streams = s.streams ∧
    (State.sendOwed s p).hub = s.hub ∧ (State.sendOwed s p).net = s.net ∧ (State.sendOwed s p).isl = s.isl ∧
    (State.sendOwed s p).free = s.free ∧ (State.sendOwed s p).pending = s.pending := by
  simp [State.sendOwed]

@[simp] theorem State.watchStalls_frame (s : State) (p : ℕ) :
    (State.watchStalls s p).cycle = s.cycle ∧ (State.watchStalls s p).subTick = s.subTick ∧
    (State.watchStalls s p).obj = s.obj ∧ (State.watchStalls s p).copy = s.copy ∧
    (State.watchStalls s p).blob = s.blob ∧ (State.watchStalls s p).mem = s.mem ∧
    (State.watchStalls s p).arr = s.arr ∧ (State.watchStalls s p).streams = s.streams ∧
    (State.watchStalls s p).hub = s.hub ∧ (State.watchStalls s p).net = s.net ∧ (State.watchStalls s p).isl = s.isl ∧
    (State.watchStalls s p).free = s.free ∧ (State.watchStalls s p).pending = s.pending := by
  simp [State.watchStalls]

@[simp] theorem State.landTransit_frame (s : State) (all : Bool) :
    (State.landTransit s all).cycle = s.cycle ∧ (State.landTransit s all).subTick = s.subTick ∧
    (State.landTransit s all).copy = s.copy ∧ (State.landTransit s all).blob = s.blob ∧
    (State.landTransit s all).mem = s.mem ∧ (State.landTransit s all).arr = s.arr ∧
    (State.landTransit s all).streams = s.streams ∧ (State.landTransit s all).hub = s.hub ∧
    (State.landTransit s all).net = s.net ∧ (State.landTransit s all).isl = s.isl ∧
    (State.landTransit s all).free = s.free ∧ (State.landTransit s all).pending = s.pending := by
  unfold State.landTransit
  repeat' (first
    | with_reducible rfl | (simp; done) | split | apply And.intro | (intro _)
    | (with_reducible refine (foldl_frame _ _ ?_ _ _).trans ?_)
    | (with_reducible refine (foldl_frame_fst _ _ ?_ _ _).trans ?_)
    | (with_reducible refine (foldl_frame_snd _ _ ?_ _ _).trans ?_)
    | (with_reducible refine (foldl_frame_mid _ _ ?_ _ _).trans ?_)
    | (with_reducible refine (foldl_frame_last2 _ _ ?_ _ _).trans ?_)
    | (with_reducible refine (foldl_frame_last3 _ _ ?_ _ _).trans ?_) | simp)

@[simp] theorem State.fabricTick_frame (s : State) :
    (State.fabricTick s).cycle = s.cycle ∧ (State.fabricTick s).subTick = s.subTick ∧
    (State.fabricTick s).copy = s.copy ∧ (State.fabricTick s).blob = s.blob ∧ (State.fabricTick s).arr = s.arr ∧
    (State.fabricTick s).streams = s.streams ∧ (State.fabricTick s).net = s.net ∧
    (State.fabricTick s).pending = s.pending := by
  unfold State.fabricTick
  repeat' (first
    | with_reducible rfl | (simp; done) | split | apply And.intro | (intro _)
    | (with_reducible refine (foldl_frame _ _ ?_ _ _).trans ?_)
    | (with_reducible refine (foldl_frame_fst _ _ ?_ _ _).trans ?_)
    | (with_reducible refine (foldl_frame_snd _ _ ?_ _ _).trans ?_)
    | (with_reducible refine (foldl_frame_mid _ _ ?_ _ _).trans ?_)
    | (with_reducible refine (foldl_frame_last2 _ _ ?_ _ _).trans ?_)
    | (with_reducible refine (foldl_frame_last3 _ _ ?_ _ _).trans ?_) | simp)

@[simp] theorem State.countTick_frame (s : State) :
    (State.countTick s).cycle = s.cycle ∧ (State.countTick s).subTick = s.subTick ∧
    (State.countTick s).copy = s.copy ∧ (State.countTick s).blob = s.blob ∧ (State.countTick s).mem = s.mem ∧
    (State.countTick s).arr = s.arr ∧ (State.countTick s).streams = s.streams ∧ (State.countTick s).hub = s.hub ∧
    (State.countTick s).net = s.net ∧ (State.countTick s).fab = s.fab ∧ (State.countTick s).isl = s.isl ∧
    (State.countTick s).free = s.free ∧ (State.countTick s).pending = s.pending := by
  simp [State.countTick]

@[simp] theorem State.passDie_frame (s : State) (d : ℕ) :
    (State.passDie s d).cycle = s.cycle ∧ (State.passDie s d).subTick = s.subTick ∧
    (State.passDie s d).copy = s.copy ∧ (State.passDie s d).blob = s.blob ∧ (State.passDie s d).mem = s.mem ∧
    (State.passDie s d).streams = s.streams ∧ (State.passDie s d).hub = s.hub ∧ (State.passDie s d).net = s.net ∧
    (State.passDie s d).fab = s.fab ∧ (State.passDie s d).isl = s.isl ∧ (State.passDie s d).free = s.free ∧
    (State.passDie s d).pending = s.pending := by
  unfold State.passDie; split <;> simp

@[simp] theorem State.countWaits_frame (s : State) :
    (State.countWaits s).cycle = s.cycle ∧ (State.countWaits s).subTick = s.subTick ∧
    (State.countWaits s).copy = s.copy ∧ (State.countWaits s).blob = s.blob ∧ (State.countWaits s).mem = s.mem ∧
    (State.countWaits s).arr = s.arr ∧ (State.countWaits s).streams = s.streams ∧ (State.countWaits s).hub = s.hub ∧
    (State.countWaits s).net = s.net ∧ (State.countWaits s).fab = s.fab ∧ (State.countWaits s).isl = s.isl ∧
    (State.countWaits s).free = s.free ∧ (State.countWaits s).pending = s.pending := by
  simp [State.countWaits]

@[simp] theorem State.tickWork_frame (s : State) :
    (State.tickWork s).cycle = s.cycle ∧ (State.tickWork s).subTick = s.subTick ∧ (State.tickWork s).copy = s.copy ∧
    (State.tickWork s).blob = s.blob ∧ (State.tickWork s).arr = s.arr ∧ (State.tickWork s).streams = s.streams ∧
    (State.tickWork s).net = s.net ∧ (State.tickWork s).pending = s.pending := by
  unfold State.tickWork
  repeat' (first
    | with_reducible rfl | (simp; done) | split | apply And.intro | (intro _)
    | (with_reducible refine (foldl_frame _ _ ?_ _ _).trans ?_)
    | (with_reducible refine (foldl_frame_fst _ _ ?_ _ _).trans ?_)
    | (with_reducible refine (foldl_frame_snd _ _ ?_ _ _).trans ?_)
    | (with_reducible refine (foldl_frame_mid _ _ ?_ _ _).trans ?_)
    | (with_reducible refine (foldl_frame_last2 _ _ ?_ _ _).trans ?_)
    | (with_reducible refine (foldl_frame_last3 _ _ ?_ _ _).trans ?_) | simp)

@[simp] theorem State.passTick_frame (s : State) :
    (State.passTick s).cycle = s.cycle ∧ (State.passTick s).subTick = s.subTick ∧ (State.passTick s).copy = s.copy ∧
    (State.passTick s).blob = s.blob ∧ (State.passTick s).arr = s.arr ∧ (State.passTick s).streams = s.streams ∧
    (State.passTick s).net = s.net ∧ (State.passTick s).pending = s.pending := by
  simp [State.passTick]

@[simp] theorem State.watchIdle_frame (s : State) :
    (State.watchIdle s).cycle = s.cycle ∧ (State.watchIdle s).subTick = s.subTick ∧ (State.watchIdle s).obj = s.obj ∧
    (State.watchIdle s).copy = s.copy ∧ (State.watchIdle s).blob = s.blob ∧ (State.watchIdle s).mem = s.mem ∧
    (State.watchIdle s).arr = s.arr ∧ (State.watchIdle s).streams = s.streams ∧ (State.watchIdle s).hub = s.hub ∧
    (State.watchIdle s).net = s.net ∧ (State.watchIdle s).fab = s.fab ∧ (State.watchIdle s).free = s.free ∧
    (State.watchIdle s).pending = s.pending := by
  simp [State.watchIdle]

@[simp] theorem State.passCycle_frame (s : State) :
    (State.passCycle s).copy = s.copy ∧ (State.passCycle s).blob = s.blob ∧
    (State.passCycle s).pending = s.pending := by
  unfold State.passCycle
  repeat' (first
    | with_reducible rfl | (simp; done) | split | apply And.intro | (intro _)
    | (with_reducible refine (foldl_frame _ _ ?_ _ _).trans ?_)
    | (with_reducible refine (foldl_frame_fst _ _ ?_ _ _).trans ?_)
    | (with_reducible refine (foldl_frame_snd _ _ ?_ _ _).trans ?_)
    | (with_reducible refine (foldl_frame_mid _ _ ?_ _ _).trans ?_)
    | (with_reducible refine (foldl_frame_last2 _ _ ?_ _ _).trans ?_)
    | (with_reducible refine (foldl_frame_last3 _ _ ?_ _ _).trans ?_) | simp)

@[simp] theorem State.clock_frame (s : State) :
    (State.clock s).copy = s.copy ∧ (State.clock s).blob = s.blob ∧ (State.clock s).pending = s.pending := by
  simp [State.clock]

@[simp] theorem State.coreStore_frame (s : State) (off : ℕ) (data : List Byte) :
    (State.coreStore s off data).cycle = s.cycle ∧ (State.coreStore s off data).subTick = s.subTick ∧
    (State.coreStore s off data).obj = s.obj ∧ (State.coreStore s off data).copy = s.copy ∧
    (State.coreStore s off data).blob = s.blob ∧ (State.coreStore s off data).mem = s.mem ∧
    (State.coreStore s off data).arr = s.arr ∧ (State.coreStore s off data).streams = s.streams ∧
    (State.coreStore s off data).net = s.net ∧ (State.coreStore s off data).fab = s.fab ∧
    (State.coreStore s off data).isl = s.isl ∧ (State.coreStore s off data).free = s.free ∧
    (State.coreStore s off data).pending = s.pending := by
  simp [State.coreStore]

@[simp] theorem State.keepBytes_frame (s : State) (base : ℕ) (o : ℕ) (data : List Byte) (ok : ℕ → Bool) :
    (State.keepBytes s base o data ok).cycle = s.cycle ∧ (State.keepBytes s base o data ok).subTick = s.subTick ∧
    (State.keepBytes s base o data ok).obj = s.obj ∧ (State.keepBytes s base o data ok).copy = s.copy ∧
    (State.keepBytes s base o data ok).blob = s.blob ∧ (State.keepBytes s base o data ok).mem = s.mem ∧
    (State.keepBytes s base o data ok).arr = s.arr ∧ (State.keepBytes s base o data ok).streams = s.streams ∧
    (State.keepBytes s base o data ok).net = s.net ∧ (State.keepBytes s base o data ok).fab = s.fab ∧
    (State.keepBytes s base o data ok).isl = s.isl ∧ (State.keepBytes s base o data ok).free = s.free ∧
    (State.keepBytes s base o data ok).pending = s.pending := by
  unfold State.keepBytes
  repeat' (first
    | with_reducible rfl | (simp; done) | split | apply And.intro | (intro _)
    | (with_reducible refine (foldl_frame _ _ ?_ _ _).trans ?_))

@[simp] theorem State.putSide_frame (s : State) (x : Sideband) :
    (State.putSide s x).cycle = s.cycle ∧ (State.putSide s x).subTick = s.subTick ∧ (State.putSide s x).obj = s.obj ∧
    (State.putSide s x).copy = s.copy ∧ (State.putSide s x).blob = s.blob ∧ (State.putSide s x).mem = s.mem ∧
    (State.putSide s x).arr = s.arr ∧ (State.putSide s x).streams = s.streams ∧ (State.putSide s x).hub = s.hub ∧
    (State.putSide s x).net = s.net ∧ (State.putSide s x).fab = s.fab ∧ (State.putSide s x).free = s.free ∧
    (State.putSide s x).pending = s.pending := by
  simp [State.putSide]

@[simp] theorem State.takeAddress_frame (s : State) (addr : ℕ) :
    (State.takeAddress s addr).cycle = s.cycle ∧ (State.takeAddress s addr).subTick = s.subTick ∧
    (State.takeAddress s addr).obj = s.obj ∧ (State.takeAddress s addr).copy = s.copy ∧
    (State.takeAddress s addr).blob = s.blob ∧ (State.takeAddress s addr).mem = s.mem ∧
    (State.takeAddress s addr).arr = s.arr ∧ (State.takeAddress s addr).streams = s.streams ∧
    (State.takeAddress s addr).hub = s.hub ∧ (State.takeAddress s addr).net = s.net ∧
    (State.takeAddress s addr).fab = s.fab ∧ (State.takeAddress s addr).free = s.free ∧
    (State.takeAddress s addr).pending = s.pending := by
  simp [State.takeAddress]

@[simp] theorem State.putWear_frame (s : State) (w : Wear) :
    (State.putWear s w).cycle = s.cycle ∧ (State.putWear s w).subTick = s.subTick ∧ (State.putWear s w).obj = s.obj ∧
    (State.putWear s w).copy = s.copy ∧ (State.putWear s w).blob = s.blob ∧ (State.putWear s w).mem = s.mem ∧
    (State.putWear s w).arr = s.arr ∧ (State.putWear s w).streams = s.streams ∧ (State.putWear s w).hub = s.hub ∧
    (State.putWear s w).net = s.net ∧ (State.putWear s w).fab = s.fab ∧ (State.putWear s w).free = s.free ∧
    (State.putWear s w).pending = s.pending := by
  simp [State.putWear]

end Sys2Proof.Machine
end

