-- ==== Sys2Proof/Laws/Tables.lean ====
section
/-! SUPPORT. Sparse tables: what is read after a write, and that every operation keeps the canonical form. -/

namespace Sys2Proof

theorem SMap.get_erase_self {α : Type} (m : SMap α) (k : Nat) (d : α) : (SMap.erase m k).get k d = d := by
  induction m with
  | nil => rfl
  | cons p rest ih =>
    simp only [SMap.erase]
    split
    · exact ih
    · rename_i h
      simp only [SMap.get, if_neg h, ih]

theorem SMap.get_erase_of_ne {α : Type} (m : SMap α) (k j : Nat) (d : α) (h : j ≠ k) : (SMap.erase m k).get j d = m.get j d := by
  induction m with
  | nil => rfl
  | cons p rest ih =>
    simp only [SMap.erase]
    split
    · rename_i e
      simp only [SMap.get, ih]
      rw [if_neg (by omega)]
    · simp only [SMap.get, ih]

theorem SMap.get_insert_self {α : Type} (m : SMap α) (k : Nat) (v d : α) : (SMap.insert m k v).get k d = v := by
  induction m with
  | nil => simp [SMap.insert, SMap.get]
  | cons p rest ih =>
    simp only [SMap.insert]
    split
    · simp [SMap.get]
    · split
      · simp [SMap.get]
      · rename_i h
        simp only [SMap.get, if_neg h, ih]

theorem SMap.get_insert_of_ne {α : Type} (m : SMap α) (k j : Nat) (v d : α) (h : j ≠ k) :
    (SMap.insert m k v).get j d = m.get j d := by
  induction m with
  | nil => simp [SMap.insert, SMap.get, Ne.symm h]
  | cons p rest ih =>
    simp only [SMap.insert]
    split
    · simp [SMap.get, Ne.symm h]
    · split
      · rename_i e
        simp [SMap.get, Ne.symm h, e]
      · simp only [SMap.get, ih]

/-- A table reads what was written last. -/
@[simp] theorem SMap.get_set_self {α : Type} [DecidableEq α] (m : SMap α) (k : Nat) (v d : α) : (SMap.set m k v d).get k d = v := by
  unfold SMap.set
  split
  · rename_i h; rw [h, SMap.get_erase_self]
  · exact SMap.get_insert_self m k v d

/-- A write leaves every other key alone, whatever its default. -/
theorem SMap.get_set_of_ne {α : Type} [DecidableEq α] (m : SMap α) (k j : Nat) (v d e : α) (h : j ≠ k) :
    (SMap.set m k v d).get j e = m.get j e := by
  unfold SMap.set
  split
  · exact SMap.get_erase_of_ne m k j e h
  · exact SMap.get_insert_of_ne m k j v e h

theorem SMap.get_set {α : Type} [DecidableEq α] (m : SMap α) (k j : Nat) (v d : α) :
    (SMap.set m k v d).get j d = if j = k then v else m.get j d := by
  by_cases h : j = k
  · subst h; simp
  · rw [SMap.get_set_of_ne m k j v d d h, if_neg h]

/-! ## The canonical form -/

theorem SMap.wfFrom_mono {α : Type} [DecidableEq α] (d : α) (m : SMap α) (lo lo' : Nat) (h : lo' ≤ lo)
    (w : SMap.wfFrom d lo m = true) : SMap.wfFrom d lo' m = true := by
  cases m with
  | nil => rfl
  | cons p rest =>
    simp only [SMap.wfFrom, Bool.and_eq_true, decide_eq_true_eq] at *
    exact ⟨⟨by omega, w.1.2⟩, w.2⟩

theorem SMap.wfFrom_erase {α : Type} [DecidableEq α] (d : α) (m : SMap α) (k lo : Nat) (w : SMap.wfFrom d lo m = true) :
    SMap.wfFrom d lo (SMap.erase m k) = true := by
  induction m generalizing lo with
  | nil => rfl
  | cons p rest ih =>
    simp only [SMap.wfFrom, Bool.and_eq_true, decide_eq_true_eq] at w
    simp only [SMap.erase]
    split
    · exact SMap.wfFrom_mono d _ _ _ (by omega) (ih _ w.2)
    · simp only [SMap.wfFrom, Bool.and_eq_true, decide_eq_true_eq]
      exact ⟨w.1, ih _ w.2⟩

theorem SMap.wfFrom_insert {α : Type} [DecidableEq α] (d : α) (m : SMap α) (k lo : Nat) (v : α) (hv : v ≠ d) (hk : lo ≤ k)
    (w : SMap.wfFrom d lo m = true) : SMap.wfFrom d lo (SMap.insert m k v) = true := by
  induction m generalizing lo with
  | nil => simp [SMap.insert, SMap.wfFrom, hv, hk]
  | cons p rest ih =>
    simp only [SMap.wfFrom, Bool.and_eq_true, decide_eq_true_eq] at w
    simp only [SMap.insert]
    split
    · rename_i h
      simp only [SMap.wfFrom, Bool.and_eq_true, decide_eq_true_eq]
      exact ⟨⟨hk, hv⟩, ⟨by omega, w.1.2⟩, w.2⟩
    · split
      · rename_i h e
        simp only [SMap.wfFrom, Bool.and_eq_true, decide_eq_true_eq]
        subst e
        exact ⟨⟨hk, hv⟩, w.2⟩
      · rename_i h e
        simp only [SMap.wfFrom, Bool.and_eq_true, decide_eq_true_eq]
        exact ⟨w.1, ih _ (by omega) w.2⟩

/-- A write keeps the canonical form. -/
theorem SMap.wf_set {α : Type} [DecidableEq α] (d : α) (m : SMap α) (k : Nat) (v : α) (w : SMap.wf d m = true) :
    SMap.wf d (SMap.set m k v d) = true := by
  unfold SMap.set
  split
  · exact SMap.wfFrom_erase d m k 0 w
  · rename_i h; exact SMap.wfFrom_insert d m k 0 v h (Nat.zero_le _) w

/-- Dropping entries keeps the canonical form. -/
theorem SMap.wfFrom_filter {α : Type} [DecidableEq α] (d : α) (m : SMap α) (p : Nat × α → Bool) (lo : Nat)
    (w : SMap.wfFrom d lo m = true) : SMap.wfFrom d lo (m.filter p) = true := by
  induction m generalizing lo with
  | nil => rfl
  | cons q rest ih =>
    simp only [SMap.wfFrom, Bool.and_eq_true, decide_eq_true_eq] at w
    simp only [List.filter]
    split
    · simp only [SMap.wfFrom, Bool.and_eq_true, decide_eq_true_eq]
      exact ⟨w.1, ih _ w.2⟩
    · exact SMap.wfFrom_mono d _ _ _ (by omega) (ih _ w.2)

end Sys2Proof

namespace Sys2Proof.Machine

/-- The canonical form of memory is that of a table with default 0. -/
theorem Memory.wfFrom_eq (lo : Nat) (m : Memory) : Memory.wfFrom lo m = SMap.wfFrom (0 : Byte) lo m := by
  induction m generalizing lo with
  | nil => rfl
  | cons p rest ih => simp only [Memory.wfFrom, SMap.wfFrom, ih]

/-- Writing one byte keeps the canonical form of memory. -/
theorem Memory.wf_set (m : Memory) (a : Nat) (b : Byte) (w : Memory.wf m = true) : Memory.wf (SMap.set m a b 0) = true := by
  unfold Memory.wf at *
  rw [Memory.wfFrom_eq] at *
  exact SMap.wf_set (0 : Byte) m a b w

/-- Dropping bytes keeps the canonical form of memory. -/
theorem Memory.wf_filter (m : Memory) (p : Host.Cell → Bool) (w : Memory.wf m = true) : Memory.wf (m.filter p) = true := by
  unfold Memory.wf at *
  rw [Memory.wfFrom_eq] at *
  exact SMap.wfFrom_filter (0 : Byte) m p 0 w

/-- Storing bytes under enables keeps the canonical form of memory. -/
theorem storeBytes_wf (m : Memory) (a : Nat) (en : List Bool) (data : List Byte) (w : Memory.wf m = true) :
    Memory.wf (storeBytes m a en data) = true := by
  induction en generalizing m a data with
  | nil => simpa [storeBytes] using w
  | cons e es ih =>
    cases data with
    | nil => simpa [storeBytes] using w
    | cons b bs =>
      simp only [storeBytes]
      apply ih
      split
      · exact Memory.wf_set m a b w
      · exact w

/-- A byte outside the stored range reads as before. -/
theorem storeBytes_get_of_out (m : Memory) (a x : Nat) (en : List Bool) (data : List Byte)
    (h : x < a ∨ a + data.length ≤ x) : SMap.get (storeBytes m a en data) x 0 = SMap.get m x 0 := by
  induction en generalizing m a data with
  | nil => simp [storeBytes]
  | cons e es ih =>
    cases data with
    | nil => simp [storeBytes]
    | cons b bs =>
      simp only [storeBytes]
      simp only [List.length_cons] at h
      rw [ih _ _ _ (by omega)]
      split
      · exact SMap.get_set_of_ne m a x b 0 0 (by omega)
      · rfl

/-- A byte inside the stored range reads as stored where it is enabled, and as before where it is not. -/
theorem storeBytes_get_of_in (m : Memory) (a i : Nat) (en : List Bool) (data : List Byte) (he : i < en.length)
    (hd : i < data.length) :
    SMap.get (storeBytes m a en data) (a + i) 0 = if en[i] then data[i] else SMap.get m (a + i) 0 := by
  induction en generalizing m a data i with
  | nil => simp at he
  | cons e es ih =>
    cases data with
    | nil => simp at hd
    | cons b bs =>
      simp only [storeBytes]
      cases i with
      | zero =>
        rw [storeBytes_get_of_out _ _ _ _ _ (Or.inl (by omega))]
        cases e <;> simp
      | succ j =>
        have := ih (if e then SMap.set m a b 0 else m) (a + 1) j bs (by simpa using he) (by simpa using hd)
        rw [show a + (j + 1) = a + 1 + j by omega, this]
        simp only [List.getElem_cons_succ]
        split
        · rfl
        · split
          · exact SMap.get_set_of_ne m a _ b 0 0 (by omega)
          · rfl

end Sys2Proof.Machine
end

