-- ==== Sys2Proof/Laws/MemoryForm.lean ====
section
/-!
SUPPORT. Every operation that can reach the bytes of memory keeps their canonical form. One lemma per operation, so that the
step's invariant is a matter of the commands' arms.
-/

namespace Sys2Proof.Machine

theorem foldl_wf {α : Type} (g : State → α → State)
    (h : ∀ x a, Memory.wf x.mem.bytes = true → Memory.wf (g x a).mem.bytes = true) :
    ∀ (l : List α) (x : State), Memory.wf x.mem.bytes = true → Memory.wf (l.foldl g x).mem.bytes = true
  | [], _, w => w
  | a :: l, x, w => foldl_wf g h l (g x a) (h x a w)

theorem foldl_wf_fst {α β : Type} (g : State × β → α → State × β)
    (h : ∀ x a, Memory.wf x.1.mem.bytes = true → Memory.wf (g x a).1.mem.bytes = true) :
    ∀ (l : List α) (x : State × β), Memory.wf x.1.mem.bytes = true → Memory.wf (l.foldl g x).1.mem.bytes = true
  | [], _, w => w
  | a :: l, x, w => foldl_wf_fst g h l (g x a) (h x a w)

theorem foldl_wf_snd {α β : Type} (g : β × State → α → β × State)
    (h : ∀ x a, Memory.wf x.2.mem.bytes = true → Memory.wf (g x a).2.mem.bytes = true) :
    ∀ (l : List α) (x : β × State), Memory.wf x.2.mem.bytes = true → Memory.wf (l.foldl g x).2.mem.bytes = true
  | [], _, w => w
  | a :: l, x, w => foldl_wf_snd g h l (g x a) (h x a w)

theorem foldl_wf_mid {α β γ : Type} (g : β × State × γ → α → β × State × γ)
    (h : ∀ x a, Memory.wf x.2.1.mem.bytes = true → Memory.wf (g x a).2.1.mem.bytes = true) :
    ∀ (l : List α) (x : β × State × γ), Memory.wf x.2.1.mem.bytes = true → Memory.wf (l.foldl g x).2.1.mem.bytes = true
  | [], _, w => w
  | a :: l, x, w => foldl_wf_mid g h l (g x a) (h x a w)

theorem foldl_wf_last2 {α β γ : Type} (g : β × γ × State → α → β × γ × State)
    (h : ∀ x a, Memory.wf x.2.2.mem.bytes = true → Memory.wf (g x a).2.2.mem.bytes = true) :
    ∀ (l : List α) (x : β × γ × State), Memory.wf x.2.2.mem.bytes = true → Memory.wf (l.foldl g x).2.2.mem.bytes = true
  | [], _, w => w
  | a :: l, x, w => foldl_wf_last2 g h l (g x a) (h x a w)

theorem foldl_wf_last3 {α β γ δ : Type} (g : β × γ × δ × State → α → β × γ × δ × State)
    (h : ∀ x a, Memory.wf x.2.2.2.mem.bytes = true → Memory.wf (g x a).2.2.2.mem.bytes = true) :
    ∀ (l : List α) (x : β × γ × δ × State), Memory.wf x.2.2.2.mem.bytes = true → Memory.wf (l.foldl g x).2.2.2.mem.bytes = true
  | [], _, w => w
  | a :: l, x, w => foldl_wf_last3 g h l (g x a) (h x a w)

@[simp] theorem State.putDiff_wf (s : State) (line : ℕ) (d : List Byte) (hw : Memory.wf s.mem.bytes = true) :
    Memory.wf (State.putDiff s line d).mem.bytes = true := by
  simp [State.putDiff, hw]

@[simp] theorem State.putTag_wf (s : State) (line : ℕ) (t : U16) (hw : Memory.wf s.mem.bytes = true) :
    Memory.wf (State.putTag s line t).mem.bytes = true := by
  simp [State.putTag, hw]

@[simp] theorem State.putFlag_wf (s : State) (line : ℕ) (p : Bool) (hw : Memory.wf s.mem.bytes = true) :
    Memory.wf (State.putFlag s line p).mem.bytes = true := by
  simp [State.putFlag, hw]

@[simp] theorem State.putBytes_wf (s : State) (a : ℕ) (en : List Bool) (data : List Byte)
    (hw : Memory.wf s.mem.bytes = true) :
    Memory.wf (State.putBytes s a en data).mem.bytes = true := by
  unfold State.putBytes
  exact storeBytes_wf _ _ _ _ hw

@[simp] theorem State.dropWritebacks_wf (s : State) (line : ℕ) (hw : Memory.wf s.mem.bytes = true) :
    Memory.wf (State.dropWritebacks s line).mem.bytes = true := by
  unfold State.dropWritebacks
  repeat' (first
    | with_reducible assumption | (simp [*]; done) | split | (intro _)
    | (with_reducible refine foldl_wf _ ?_ _ _ ?_) | (with_reducible refine foldl_wf_fst _ ?_ _ _ ?_)
    | (with_reducible refine foldl_wf_snd _ ?_ _ _ ?_) | (with_reducible refine foldl_wf_mid _ ?_ _ _ ?_)
    | (with_reducible refine foldl_wf_last2 _ ?_ _ _ ?_) | (with_reducible refine foldl_wf_last3 _ ?_ _ _ ?_)
    | simp [*])

@[simp] theorem State.writeLine_wf (s : State) (a : ℕ) (en : List Bool) (data : List Byte) (poison : Bool)
    (hw : Memory.wf s.mem.bytes = true) :
    Memory.wf (State.writeLine s a en data poison).mem.bytes = true := by
  unfold State.writeLine
  repeat' (first
    | with_reducible assumption | (simp [*]; done) | split | (intro _)
    | (with_reducible refine foldl_wf _ ?_ _ _ ?_) | (with_reducible refine foldl_wf_fst _ ?_ _ _ ?_)
    | (with_reducible refine foldl_wf_snd _ ?_ _ _ ?_) | (with_reducible refine foldl_wf_mid _ ?_ _ _ ?_)
    | (with_reducible refine foldl_wf_last2 _ ?_ _ _ ?_) | (with_reducible refine foldl_wf_last3 _ ?_ _ _ ?_)
    | (with_reducible apply State.putDiff_wf) | (with_reducible apply State.putTag_wf)
    | (with_reducible apply State.putFlag_wf) | (with_reducible apply State.putBytes_wf)
    | (with_reducible apply State.dropWritebacks_wf) | simp [*])

@[simp] theorem State.writePhys_wf (s : State) (a : ℕ) (data : List Byte) (poison : Bool)
    (hw : Memory.wf s.mem.bytes = true) :
    Memory.wf (State.writePhys s a data poison).2.mem.bytes = true := by
  unfold State.writePhys
  repeat' (first
    | with_reducible assumption | (simp [*]; done) | split | (intro _)
    | (with_reducible refine foldl_wf _ ?_ _ _ ?_) | (with_reducible refine foldl_wf_fst _ ?_ _ _ ?_)
    | (with_reducible refine foldl_wf_snd _ ?_ _ _ ?_) | (with_reducible refine foldl_wf_mid _ ?_ _ _ ?_)
    | (with_reducible refine foldl_wf_last2 _ ?_ _ _ ?_) | (with_reducible refine foldl_wf_last3 _ ?_ _ _ ?_)
    | (with_reducible apply State.writeLine_wf) | simp [*])

@[simp] theorem State.taskWriteLine_wf (s : State) (w : Window) (die : ℕ) (a : ℕ) (en : List Bool)
    (data : List Byte) (poison : Bool) (c : Counts) (hw : Memory.wf s.mem.bytes = true) :
    Memory.wf (State.taskWriteLine s w die a en data poison c).1.mem.bytes = true := by
  unfold State.taskWriteLine
  repeat' (first
    | with_reducible assumption | (simp [*]; done) | split | (intro _)
    | (with_reducible refine foldl_wf _ ?_ _ _ ?_) | (with_reducible refine foldl_wf_fst _ ?_ _ _ ?_)
    | (with_reducible refine foldl_wf_snd _ ?_ _ _ ?_) | (with_reducible refine foldl_wf_mid _ ?_ _ _ ?_)
    | (with_reducible refine foldl_wf_last2 _ ?_ _ _ ?_) | (with_reducible refine foldl_wf_last3 _ ?_ _ _ ?_)
    | (with_reducible apply State.writeLine_wf) | simp [*])

@[simp] theorem State.taskWrite_wf (s : State) (w : Window) (die : ℕ) (a : ℕ) (data : List Byte) (poison : Bool)
    (c : Counts) (hw : Memory.wf s.mem.bytes = true) :
    Memory.wf (State.taskWrite s w die a data poison c).1.mem.bytes = true := by
  unfold State.taskWrite
  repeat' (first
    | with_reducible assumption | (simp [*]; done) | split | (intro _)
    | (with_reducible refine foldl_wf _ ?_ _ _ ?_) | (with_reducible refine foldl_wf_fst _ ?_ _ _ ?_))

@[simp] theorem State.ringStore_wf (s : State) (n : ℕ) (entry : List Byte) (hw : Memory.wf s.mem.bytes = true) :
    Memory.wf (State.ringStore s n entry).mem.bytes = true := by
  simp [State.ringStore, hw]

@[simp] theorem State.eventPut_wf (s : State) (evt : List Byte) (hw : Memory.wf s.mem.bytes = true) :
    Memory.wf (State.eventPut s evt).mem.bytes = true := by
  unfold State.eventPut
  repeat' (first
    | with_reducible assumption | (simp [*]; done) | split | (intro _)
    | (with_reducible refine foldl_wf _ ?_ _ _ ?_) | (with_reducible refine foldl_wf_fst _ ?_ _ _ ?_)
    | (with_reducible refine foldl_wf_snd _ ?_ _ _ ?_) | (with_reducible refine foldl_wf_mid _ ?_ _ _ ?_)
    | (with_reducible refine foldl_wf_last2 _ ?_ _ _ ?_) | (with_reducible refine foldl_wf_last3 _ ?_ _ _ ?_)
    | (with_reducible apply State.ringStore_wf) | simp [*])

@[simp] theorem State.eventEmit_wf (s : State) (cls : ℕ) (code : ℕ) (unit : ℕ) (sub : ℕ) (merged : ℕ) (tick : ℕ)
    (data : List Byte) (hw : Memory.wf s.mem.bytes = true) :
    Memory.wf (State.eventEmit s cls code unit sub merged tick data).mem.bytes = true := by
  simp [State.eventEmit, hw]

@[simp] theorem State.recordWrite_wf (s : State) (n : ℕ) (h : RecordHead) (c : Counts) (sync : ℕ)
    (hw : Memory.wf s.mem.bytes = true) :
    Memory.wf (State.recordWrite s n h c sync).mem.bytes = true := by
  simp [State.recordWrite, hw]

@[simp] theorem State.flushHeldFuel_wf (x0 : ℕ) (x1 : State) (x2 : ℕ) (hw : Memory.wf x1.mem.bytes = true) :
    Memory.wf (State.flushHeldFuel x0 x1 x2).mem.bytes = true := by
  induction x0 generalizing x1 x2 with
  | zero => simp [State.flushHeldFuel, *]
  | succ k ih =>
    unfold State.flushHeldFuel
    repeat' (first
      | with_reducible assumption | (simp [hw]; done) | split | (with_reducible refine ih _ _ ?_) | (with_reducible refine ih _ ?_)
      | (with_reducible apply ih) | (with_reducible refine foldl_wf _ ?_ _ _ ?_) | (intro _)
      | (with_reducible apply State.recordWrite_wf)
      | simp [hw])

@[simp] theorem State.flushHeld_wf (s : State) (n : ℕ) (hw : Memory.wf s.mem.bytes = true) :
    Memory.wf (State.flushHeld s n).mem.bytes = true := by
  simp [State.flushHeld, hw]

@[simp] theorem State.ringReset_wf (s : State) (n : ℕ) (hw : Memory.wf s.mem.bytes = true) :
    Memory.wf (State.ringReset s n).mem.bytes = true := by
  unfold State.ringReset
  repeat' (first
    | with_reducible assumption | (simp [*]; done) | split | (intro _)
    | (with_reducible refine foldl_wf _ ?_ _ _ ?_) | (with_reducible refine foldl_wf_fst _ ?_ _ _ ?_)
    | (with_reducible refine foldl_wf_snd _ ?_ _ _ ?_) | (with_reducible refine foldl_wf_mid _ ?_ _ _ ?_)
    | (with_reducible refine foldl_wf_last2 _ ?_ _ _ ?_) | (with_reducible refine foldl_wf_last3 _ ?_ _ _ ?_)
    | (with_reducible apply State.eventEmit_wf) | (with_reducible apply State.flushHeld_wf))

@[simp] theorem State.ringCheck_wf (s : State) (n : ℕ) (hw : Memory.wf s.mem.bytes = true) :
    Memory.wf (State.ringCheck s n).mem.bytes = true := by
  unfold State.ringCheck; split <;> simp [hw]

@[simp] theorem State.event_wf (s : State) (cls : ℕ) (code : ℕ) (unit : ℕ) (sub : ℕ) (data : List Byte)
    (hw : Memory.wf s.mem.bytes = true) :
    Memory.wf (State.event s cls code unit sub data).mem.bytes = true := by
  unfold State.event
  repeat' (first
    | with_reducible assumption | (simp [*]; done) | split | (intro _)
    | (with_reducible refine foldl_wf _ ?_ _ _ ?_) | (with_reducible refine foldl_wf_fst _ ?_ _ _ ?_)
    | (with_reducible refine foldl_wf_snd _ ?_ _ _ ?_) | (with_reducible refine foldl_wf_mid _ ?_ _ _ ?_)
    | (with_reducible refine foldl_wf_last2 _ ?_ _ _ ?_) | (with_reducible refine foldl_wf_last3 _ ?_ _ _ ?_)
    | (with_reducible apply State.eventEmit_wf) | (with_reducible apply State.ringReset_wf) | simp [*])

@[simp] theorem State.settle_wf (s : State) (hw : Memory.wf s.mem.bytes = true) :
    Memory.wf (State.settle s).mem.bytes = true := by
  unfold State.settle
  repeat' (first
    | with_reducible assumption | (simp [*]; done) | split | (intro _)
    | (with_reducible refine foldl_wf _ ?_ _ _ ?_))

@[simp] theorem State.parityError_wf (s : State) (die : ℕ) (sub : ℕ) (addr : ℕ) (hw : Memory.wf s.mem.bytes = true) :
    Memory.wf (State.parityError s die sub addr).mem.bytes = true := by
  simp [State.parityError, hw]

@[simp] theorem State.controlReset_wf (s : State) (die : ℕ) (sub : ℕ) (entry : ℕ) (hw : Memory.wf s.mem.bytes = true) :
    Memory.wf (State.controlReset s die sub entry).mem.bytes = true := by
  simp [State.controlReset, hw]

@[simp] theorem State.complete_wf (s0 : State) (h : RecordHead) (c : Counts) (cring : ℕ) (sync : ℕ)
    (hw : Memory.wf s0.mem.bytes = true) :
    Memory.wf (State.complete s0 h c cring sync).mem.bytes = true := by
  unfold State.complete
  repeat' (first
    | with_reducible assumption | (simp [*]; done) | split | (intro _)
    | (with_reducible refine foldl_wf _ ?_ _ _ ?_) | (with_reducible refine foldl_wf_fst _ ?_ _ _ ?_)
    | (with_reducible refine foldl_wf_snd _ ?_ _ _ ?_) | (with_reducible refine foldl_wf_mid _ ?_ _ _ ?_)
    | (with_reducible refine foldl_wf_last2 _ ?_ _ _ ?_) | (with_reducible refine foldl_wf_last3 _ ?_ _ _ ?_)
    | (with_reducible apply State.recordWrite_wf) | (with_reducible apply State.ringCheck_wf) | simp [*])

@[simp] theorem State.setReady_wf (s : State) (changes : List (ℕ × Bool)) (hw : Memory.wf s.mem.bytes = true) :
    Memory.wf (State.setReady s changes).mem.bytes = true := by
  unfold State.setReady
  repeat' (first
    | with_reducible assumption | (simp [*]; done) | split | (intro _)
    | (with_reducible refine foldl_wf _ ?_ _ _ ?_) | (with_reducible refine foldl_wf_fst _ ?_ _ _ ?_)
    | (with_reducible refine foldl_wf_snd _ ?_ _ _ ?_) | (with_reducible refine foldl_wf_mid _ ?_ _ _ ?_)
    | (with_reducible refine foldl_wf_last2 _ ?_ _ _ ?_) | (with_reducible refine foldl_wf_last3 _ ?_ _ _ ?_)
    | (with_reducible apply State.event_wf) | simp [*])

@[simp] theorem State.applyWrite_wf (s : State) (w : Window) (c : Counts) (o : OutWrite)
    (hw : Memory.wf s.mem.bytes = true) :
    Memory.wf (State.applyWrite s w c o).1.mem.bytes = true := by
  unfold State.applyWrite
  repeat' (first
    | with_reducible assumption | (simp [*]; done) | split | (intro _)
    | (with_reducible refine foldl_wf _ ?_ _ _ ?_) | (with_reducible refine foldl_wf_fst _ ?_ _ _ ?_))

@[simp] theorem OpEnv.transStep_wf (e : OpEnv) (acc : State × Counts) (j : ℕ) (hw : Memory.wf acc.1.mem.bytes = true) :
    Memory.wf (OpEnv.transStep e acc j).1.mem.bytes = true := by
  simp [OpEnv.transStep, hw]

@[simp] theorem OpEnv.transCopy_wf (e : OpEnv) (s : State) (c : Counts) (hw : Memory.wf s.mem.bytes = true) :
    Memory.wf (OpEnv.transCopy e s c).1.mem.bytes = true := by
  unfold OpEnv.transCopy
  repeat' (first
    | with_reducible assumption | (simp [*]; done) | split | (intro _)
    | (with_reducible refine foldl_wf _ ?_ _ _ ?_) | (with_reducible refine foldl_wf_fst _ ?_ _ _ ?_))

@[simp] theorem State.controlPoison_wf (s : State) (unit : ℕ) (sub : ℕ) (addr : ℕ) (tag : ℕ)
    (hw : Memory.wf s.mem.bytes = true) :
    Memory.wf (State.controlPoison s unit sub addr tag).mem.bytes = true := by
  simp [State.controlPoison, hw]

@[simp] theorem State.commitWrites_wf (s : State) (i : ℕ) (d : ℕ) (hw : Memory.wf s.mem.bytes = true) :
    Memory.wf (State.commitWrites s i d).mem.bytes = true := by
  unfold State.commitWrites
  repeat' (first
    | with_reducible assumption | (simp [*]; done) | split | (intro _)
    | (with_reducible refine foldl_wf _ ?_ _ _ ?_) | (with_reducible refine foldl_wf_fst _ ?_ _ _ ?_)
    | (with_reducible refine foldl_wf_snd _ ?_ _ _ ?_) | (with_reducible refine foldl_wf_mid _ ?_ _ _ ?_)
    | (with_reducible refine foldl_wf_last2 _ ?_ _ _ ?_) | (with_reducible refine foldl_wf_last3 _ ?_ _ _ ?_)
    | (with_reducible apply State.applyWrite_wf) | simp [*])

@[simp] theorem State.phaseWrites_wf (s : State) (i : ℕ) (d : ℕ) (hw : Memory.wf s.mem.bytes = true) :
    Memory.wf (State.phaseWrites s i d).mem.bytes = true := by
  unfold State.phaseWrites
  repeat' (first
    | with_reducible assumption | (simp [*]; done) | split | (intro _)
    | (with_reducible refine foldl_wf _ ?_ _ _ ?_) | (with_reducible refine foldl_wf_fst _ ?_ _ _ ?_)
    | (with_reducible refine foldl_wf_snd _ ?_ _ _ ?_) | (with_reducible refine foldl_wf_mid _ ?_ _ _ ?_)
    | (with_reducible refine foldl_wf_last2 _ ?_ _ _ ?_) | (with_reducible refine foldl_wf_last3 _ ?_ _ _ ?_)
    | (with_reducible apply OpEnv.transCopy_wf) | (with_reducible apply State.commitWrites_wf) | simp [*])

@[simp] theorem State.applyBanks_wf (s : State) (d : ℕ) (mask : U64) (hw : Memory.wf s.mem.bytes = true) :
    Memory.wf (State.applyBanks s d mask).mem.bytes = true := by
  unfold State.applyBanks
  simp
  exact Memory.wf_filter _ _ hw

@[simp] theorem State.closeEffects_wf (s : State) (d : ℕ) (hw : Memory.wf s.mem.bytes = true) :
    Memory.wf (State.closeEffects s d).mem.bytes = true := by
  unfold State.closeEffects
  repeat' (first
    | with_reducible assumption | (simp [*]; done) | split | (intro _)
    | (with_reducible refine foldl_wf _ ?_ _ _ ?_) | (with_reducible refine foldl_wf_fst _ ?_ _ _ ?_)
    | (with_reducible refine foldl_wf_snd _ ?_ _ _ ?_) | (with_reducible refine foldl_wf_mid _ ?_ _ _ ?_)
    | (with_reducible refine foldl_wf_last2 _ ?_ _ _ ?_) | (with_reducible refine foldl_wf_last3 _ ?_ _ _ ?_)
    | (with_reducible apply State.applyBanks_wf) | simp [*])

@[simp] theorem State.closeDie_wf (s : State) (i : ℕ) (d : ℕ) (hw : Memory.wf s.mem.bytes = true) :
    Memory.wf (State.closeDie s i d).mem.bytes = true := by
  unfold State.closeDie
  repeat' (first
    | with_reducible assumption | (simp [*]; done) | split | (intro _)
    | (with_reducible refine foldl_wf _ ?_ _ _ ?_) | (with_reducible refine foldl_wf_fst _ ?_ _ _ ?_)
    | (with_reducible refine foldl_wf_snd _ ?_ _ _ ?_) | (with_reducible refine foldl_wf_mid _ ?_ _ _ ?_)
    | (with_reducible refine foldl_wf_last2 _ ?_ _ _ ?_) | (with_reducible refine foldl_wf_last3 _ ?_ _ _ ?_)
    | (with_reducible apply State.closeEffects_wf) | simp [*])

@[simp] theorem State.completeOp_wf (s : State) (status : ℕ) (xcode : ℕ) (poison : Bool)
    (hw : Memory.wf s.mem.bytes = true) :
    Memory.wf (State.completeOp s status xcode poison).mem.bytes = true := by
  unfold State.completeOp; (repeat' split) <;> simp [hw]

@[simp] theorem State.setPort_wf (s : State) (p : ℕ) (st : ℕ) (lver : ℕ) (plevel : ℕ) (pport : ℕ) (peer : ℕ)
    (hw : Memory.wf s.mem.bytes = true) :
    Memory.wf (State.setPort s p st lver plevel pport peer).mem.bytes = true := by
  unfold State.setPort
  repeat' (first
    | with_reducible assumption | (simp [*]; done) | split | (intro _)
    | (with_reducible refine foldl_wf _ ?_ _ _ ?_) | (with_reducible refine foldl_wf_fst _ ?_ _ _ ?_)
    | (with_reducible refine foldl_wf_snd _ ?_ _ _ ?_) | (with_reducible refine foldl_wf_mid _ ?_ _ _ ?_)
    | (with_reducible refine foldl_wf_last2 _ ?_ _ _ ?_) | (with_reducible refine foldl_wf_last3 _ ?_ _ _ ?_)
    | (with_reducible apply State.setReady_wf) | simp [*])

@[simp] theorem State.setPortState_wf (s : State) (p : ℕ) (st : ℕ) (hw : Memory.wf s.mem.bytes = true) :
    Memory.wf (State.setPortState s p st).mem.bytes = true := by
  simp [State.setPortState, hw]

@[simp] theorem State.checkTwinLink_wf (s : State) (hw : Memory.wf s.mem.bytes = true) :
    Memory.wf (State.checkTwinLink s).mem.bytes = true := by
  unfold State.checkTwinLink; split <;> simp [hw]

@[simp] theorem State.replayPort_wf (s : State) (p : ℕ) (hw : Memory.wf s.mem.bytes = true) :
    Memory.wf (State.replayPort s p).mem.bytes = true := by
  unfold State.replayPort
  repeat' (first
    | with_reducible assumption | (simp [*]; done) | split | (intro _)
    | (with_reducible refine foldl_wf _ ?_ _ _ ?_) | (with_reducible refine foldl_wf_fst _ ?_ _ _ ?_)
    | (with_reducible refine foldl_wf_snd _ ?_ _ _ ?_) | (with_reducible refine foldl_wf_mid _ ?_ _ _ ?_)
    | (with_reducible refine foldl_wf_last2 _ ?_ _ _ ?_) | (with_reducible refine foldl_wf_last3 _ ?_ _ _ ?_)
    | (with_reducible apply State.setPortState_wf) | simp [*])

@[simp] theorem State.portDown_wf (s : State) (p : ℕ) (st : ℕ) (hw : Memory.wf s.mem.bytes = true) :
    Memory.wf (State.portDown s p st).mem.bytes = true := by
  unfold State.portDown
  repeat' (first
    | with_reducible assumption | (simp [*]; done) | split | (intro _)
    | (with_reducible refine foldl_wf _ ?_ _ _ ?_) | (with_reducible refine foldl_wf_fst _ ?_ _ _ ?_)
    | (with_reducible refine foldl_wf_snd _ ?_ _ _ ?_) | (with_reducible refine foldl_wf_mid _ ?_ _ _ ?_)
    | (with_reducible refine foldl_wf_last2 _ ?_ _ _ ?_) | (with_reducible refine foldl_wf_last3 _ ?_ _ _ ?_)
    | (with_reducible apply State.event_wf) | (with_reducible apply State.settle_wf)
    | (with_reducible apply State.setPort_wf) | (with_reducible apply State.checkTwinLink_wf) | simp [*])

@[simp] theorem State.mcShed_wf (s : State) (g : ℕ) (id : ℕ) (hw : Memory.wf s.mem.bytes = true) :
    Memory.wf (State.mcShed s g id).mem.bytes = true := by
  simp [State.mcShed, hw]

@[simp] theorem State.mcPumpFuel_wf (x0 : ℕ) (x1 : State) (x2 : ℕ) (hw : Memory.wf x1.mem.bytes = true) :
    Memory.wf (State.mcPumpFuel x0 x1 x2).mem.bytes = true := by
  induction x0 generalizing x1 x2 with
  | zero => simp [State.mcPumpFuel, *]
  | succ k ih =>
    unfold State.mcPumpFuel
    repeat' (first
      | with_reducible assumption | (simp [hw]; done) | split | (with_reducible refine ih _ _ ?_) | (with_reducible refine ih _ ?_)
      | (with_reducible apply ih) | (with_reducible refine foldl_wf _ ?_ _ _ ?_) | (intro _)
      | (with_reducible apply State.mcShed_wf)
      | simp [hw])

@[simp] theorem State.mcPump_wf (s : State) (g : ℕ) (hw : Memory.wf s.mem.bytes = true) :
    Memory.wf (State.mcPump s g).mem.bytes = true := by
  simp [State.mcPump, hw]

@[simp] theorem State.mcPlace_wf (s : State) (g : ℕ) (x : ℕ) (data : List Byte) (poison : List Bool)
    (hw : Memory.wf s.mem.bytes = true) :
    Memory.wf (State.mcPlace s g x data poison).mem.bytes = true := by
  unfold State.mcPlace
  repeat' (first
    | with_reducible assumption | (simp [*]; done) | split | (intro _)
    | (with_reducible refine foldl_wf _ ?_ _ _ ?_) | (with_reducible refine foldl_wf_fst _ ?_ _ _ ?_)
    | (with_reducible refine foldl_wf_snd _ ?_ _ _ ?_) | (with_reducible refine foldl_wf_mid _ ?_ _ _ ?_)
    | (with_reducible refine foldl_wf_last2 _ ?_ _ _ ?_) | (with_reducible refine foldl_wf_last3 _ ?_ _ _ ?_)
    | (with_reducible apply State.writePhys_wf) | simp [*])

@[simp] theorem State.mcPoison_wf (s : State) (g : ℕ) (hw : Memory.wf s.mem.bytes = true) :
    Memory.wf (State.mcPoison s g).mem.bytes = true := by
  unfold State.mcPoison
  repeat' (first
    | with_reducible assumption | (simp [*]; done) | split | (intro _)
    | (with_reducible refine foldl_wf _ ?_ _ _ ?_) | (with_reducible refine foldl_wf_fst _ ?_ _ _ ?_)
    | (with_reducible refine foldl_wf_snd _ ?_ _ _ ?_) | (with_reducible refine foldl_wf_mid _ ?_ _ _ ?_)
    | (with_reducible refine foldl_wf_last2 _ ?_ _ _ ?_) | (with_reducible refine foldl_wf_last3 _ ?_ _ _ ?_)
    | (with_reducible apply State.mcPlace_wf) | simp [*])

@[simp] theorem State.threadRecord_wf (s : State) (t : Thread) (status : ℕ) (sync : ℕ)
    (hw : Memory.wf s.mem.bytes = true) :
    Memory.wf (State.threadRecord s t status sync).mem.bytes = true := by
  simp [State.threadRecord, hw]

@[simp] theorem State.commandRecord_wf (s : State) (code : ℕ) (tag : ℕ) (cring : ℕ) (deadline : ℕ) (taken : ℕ)
    (status : ℕ) (state : ℕ) (hw : Memory.wf s.mem.bytes = true) :
    Memory.wf (State.commandRecord s code tag cring deadline taken status state).mem.bytes = true := by
  simp [State.commandRecord, hw]

@[simp] theorem State.killEngine_wf (s : State) (eng : ℕ) (hw : Memory.wf s.mem.bytes = true) :
    Memory.wf (State.killEngine s eng).mem.bytes = true := by
  unfold State.killEngine
  repeat' (first
    | with_reducible assumption | (simp [*]; done) | split | (intro _)
    | (with_reducible refine foldl_wf _ ?_ _ _ ?_) | (with_reducible refine foldl_wf_fst _ ?_ _ _ ?_)
    | (with_reducible refine foldl_wf_snd _ ?_ _ _ ?_) | (with_reducible refine foldl_wf_mid _ ?_ _ _ ?_)
    | (with_reducible refine foldl_wf_last2 _ ?_ _ _ ?_) | (with_reducible refine foldl_wf_last3 _ ?_ _ _ ?_)
    | (with_reducible apply State.threadRecord_wf) | (with_reducible apply State.commandRecord_wf) | simp [*])

@[simp] theorem State.streamWrite_wf (s : State) (w : Window) (die : ℕ) (a : ℕ) (data : List (Byte × Bool))
    (c : Counts) (hw : Memory.wf s.mem.bytes = true) :
    Memory.wf (State.streamWrite s w die a data c).1.mem.bytes = true := by
  unfold State.streamWrite
  repeat' (first
    | with_reducible assumption | (simp [*]; done) | split | (intro _)
    | (with_reducible refine foldl_wf _ ?_ _ _ ?_) | (with_reducible refine foldl_wf_fst _ ?_ _ _ ?_))

@[simp] theorem State.mcAppend_wf (s : State) (g : ℕ) (data : List (Byte × Bool)) (c : Counts)
    (hw : Memory.wf s.mem.bytes = true) :
    Memory.wf (State.mcAppend s g data c).1.mem.bytes = true := by
  unfold State.mcAppend; split <;> simp [hw]

@[simp] theorem State.deliverRow_wf (s : State) (eng : ℕ) (thr : ℕ) (index : ℕ) (t : Thread) (e : Entry) (h : ℕ)
    (r : ℕ) (bad : Bool) (c : Counts) (hw : Memory.wf s.mem.bytes = true) :
    Memory.wf (State.deliverRow s eng thr index t e h r bad c).1.mem.bytes = true := by
  unfold State.deliverRow; split <;> simp [hw]

@[simp] theorem State.sendEntry_wf (s : State) (eng : ℕ) (thr : ℕ) (index : ℕ) (t : Thread) (e : Entry) (h : ℕ)
    (bad : Bool) (hw : Memory.wf s.mem.bytes = true) :
    Memory.wf (State.sendEntry s eng thr index t e h bad).1.mem.bytes = true := by
  unfold State.sendEntry
  repeat' (first
    | with_reducible assumption | (simp [*]; done) | split | (intro _)
    | (with_reducible refine foldl_wf _ ?_ _ _ ?_) | (with_reducible refine foldl_wf_fst _ ?_ _ _ ?_))

@[simp] theorem State.landLine_wf (s : State) (eng : ℕ) (thr : ℕ) (index : ℕ) (l : LineWrite)
    (hw : Memory.wf s.mem.bytes = true) :
    Memory.wf (State.landLine s eng thr index l).mem.bytes = true := by
  simp [State.landLine, hw]

@[simp] theorem State.landEntry_wf (s : State) (eng : ℕ) (thr : ℕ) (x : IssuedEntry)
    (hw : Memory.wf s.mem.bytes = true) :
    Memory.wf (State.landEntry s eng thr x).mem.bytes = true := by
  unfold State.landEntry
  repeat' (first
    | with_reducible assumption | (simp [*]; done) | split | (intro _)
    | (with_reducible refine foldl_wf _ ?_ _ _ ?_) | (with_reducible refine foldl_wf_fst _ ?_ _ _ ?_)
    | (with_reducible refine foldl_wf_snd _ ?_ _ _ ?_) | (with_reducible refine foldl_wf_mid _ ?_ _ _ ?_)
    | (with_reducible refine foldl_wf_last2 _ ?_ _ _ ?_) | (with_reducible refine foldl_wf_last3 _ ?_ _ _ ?_)
    | (with_reducible apply State.landLine_wf) | simp [*])

@[simp] theorem State.entryCycle_wf (s : State) (eng : ℕ) (thr : ℕ) (x : IssuedEntry)
    (hw : Memory.wf s.mem.bytes = true) :
    Memory.wf (State.entryCycle s eng thr x).mem.bytes = true := by
  simp [State.entryCycle, hw]

@[simp] theorem State.engineCycle_wf (s : State) (eng : ℕ) (hw : Memory.wf s.mem.bytes = true) :
    Memory.wf (State.engineCycle s eng).mem.bytes = true := by
  unfold State.engineCycle
  repeat' (first
    | with_reducible assumption | (simp [*]; done) | split | (intro _)
    | (with_reducible refine foldl_wf _ ?_ _ _ ?_) | (with_reducible refine foldl_wf_fst _ ?_ _ _ ?_)
    | (with_reducible refine foldl_wf_snd _ ?_ _ _ ?_) | (with_reducible refine foldl_wf_mid _ ?_ _ _ ?_)
    | (with_reducible refine foldl_wf_last2 _ ?_ _ _ ?_) | (with_reducible refine foldl_wf_last3 _ ?_ _ _ ?_)
    | (with_reducible apply State.entryCycle_wf) | simp [*])

@[simp] theorem State.streamCycle_wf (s : State) (hw : Memory.wf s.mem.bytes = true) :
    Memory.wf (State.streamCycle s).mem.bytes = true := by
  unfold State.streamCycle
  repeat' (first
    | with_reducible assumption | (simp [*]; done) | split | (intro _)
    | (with_reducible refine foldl_wf _ ?_ _ _ ?_))

@[simp] theorem State.finishAbandoned_wf (x0 : ℕ) (x1 : State) (hw : Memory.wf x1.mem.bytes = true) :
    Memory.wf (State.finishAbandoned x0 x1).mem.bytes = true := by
  induction x0 generalizing x1 with
  | zero => simp [State.finishAbandoned, *]
  | succ k ih =>
    unfold State.finishAbandoned
    repeat' (first
      | with_reducible assumption | (simp [hw]; done) | split | (with_reducible refine ih _ _ ?_) | (with_reducible refine ih _ ?_)
      | (with_reducible apply ih) | (with_reducible refine foldl_wf _ ?_ _ _ ?_) | (intro _)
      | (with_reducible apply State.completeOp_wf)
      | simp [hw])

@[simp] theorem State.sortOps_wf (s : State) (abandon : Bool) (lost : Bool) (hw : Memory.wf s.mem.bytes = true) :
    Memory.wf (State.sortOps s abandon lost).mem.bytes = true := by
  unfold State.sortOps
  repeat' (first
    | with_reducible assumption | (simp [*]; done) | split | (intro _)
    | (with_reducible refine foldl_wf _ ?_ _ _ ?_) | (with_reducible refine foldl_wf_fst _ ?_ _ _ ?_)
    | (with_reducible refine foldl_wf_snd _ ?_ _ _ ?_) | (with_reducible refine foldl_wf_mid _ ?_ _ _ ?_)
    | (with_reducible refine foldl_wf_last2 _ ?_ _ _ ?_) | (with_reducible refine foldl_wf_last3 _ ?_ _ _ ?_)
    | (with_reducible apply State.finishAbandoned_wf) | simp [*])

@[simp] theorem State.moduleLost_wf (s : State) (hw : Memory.wf s.mem.bytes = true) :
    Memory.wf (State.moduleLost s).mem.bytes = true := by
  unfold State.moduleLost; split <;> simp [hw]

@[simp] theorem State.lossRecords_wf (s : State) (l : List (ℕ × ℕ)) (hw : Memory.wf s.mem.bytes = true) :
    Memory.wf (State.lossRecords s l).mem.bytes = true := by
  unfold State.lossRecords
  repeat' (first
    | with_reducible assumption | (simp [*]; done) | split | (intro _)
    | (with_reducible refine foldl_wf _ ?_ _ _ ?_))

@[simp] theorem State.darken_wf (s : State) (newly : ℕ) (hw : Memory.wf s.mem.bytes = true) :
    Memory.wf (State.darken s newly).mem.bytes = true := by
  unfold State.darken
  repeat' (first
    | with_reducible assumption | (simp [*]; done) | split | (intro _)
    | (with_reducible refine foldl_wf _ ?_ _ _ ?_))

@[simp] theorem State.killEngines_wf (s : State) (newly : ℕ) (hw : Memory.wf s.mem.bytes = true) :
    Memory.wf (State.killEngines s newly).mem.bytes = true := by
  unfold State.killEngines
  repeat' (first
    | with_reducible assumption | (simp [*]; done) | split | (intro _)
    | (with_reducible refine foldl_wf _ ?_ _ _ ?_))

@[simp] theorem State.loseUnits_wf (s : State) (direct : List (ℕ × ℕ)) (stks : ℕ) (hw : Memory.wf s.mem.bytes = true) :
    Memory.wf (State.loseUnits s direct stks).mem.bytes = true := by
  unfold State.loseUnits
  repeat' (first
    | with_reducible assumption | (simp [*]; done) | split | (intro _)
    | (with_reducible refine foldl_wf _ ?_ _ _ ?_) | (with_reducible refine foldl_wf_fst _ ?_ _ _ ?_)
    | (with_reducible refine foldl_wf_snd _ ?_ _ _ ?_) | (with_reducible refine foldl_wf_mid _ ?_ _ _ ?_)
    | (with_reducible refine foldl_wf_last2 _ ?_ _ _ ?_) | (with_reducible refine foldl_wf_last3 _ ?_ _ _ ?_)
    | (with_reducible apply State.event_wf) | (with_reducible apply State.setReady_wf)
    | (with_reducible apply State.sortOps_wf) | (with_reducible apply State.moduleLost_wf)
    | (with_reducible apply State.lossRecords_wf) | (with_reducible apply State.darken_wf)
    | (with_reducible apply State.killEngines_wf) | simp [*])

@[simp] theorem State.settleFence_wf (s : State) (hw : Memory.wf s.mem.bytes = true) :
    Memory.wf (State.settleFence s).mem.bytes = true := by
  unfold State.settleFence
  repeat' (first
    | with_reducible assumption | (simp [*]; done) | split | (intro _)
    | (with_reducible refine foldl_wf _ ?_ _ _ ?_) | (with_reducible refine foldl_wf_fst _ ?_ _ _ ?_)
    | (with_reducible refine foldl_wf_snd _ ?_ _ _ ?_) | (with_reducible refine foldl_wf_mid _ ?_ _ _ ?_)
    | (with_reducible refine foldl_wf_last2 _ ?_ _ _ ?_) | (with_reducible refine foldl_wf_last3 _ ?_ _ _ ?_)
    | (with_reducible apply State.loseUnits_wf) | simp [*])

@[simp] theorem State.lastingReads_wf (s : State) (i : ℕ) (die : ℕ) (pl : Plan) (hw : Memory.wf s.mem.bytes = true) :
    Memory.wf (State.lastingReads s i die pl).mem.bytes = true := by
  unfold State.lastingReads
  repeat' (first
    | with_reducible assumption | (simp [*]; done) | split | (intro _)
    | (with_reducible refine foldl_wf _ ?_ _ _ ?_) | (with_reducible refine foldl_wf_fst _ ?_ _ _ ?_)
    | (with_reducible refine foldl_wf_snd _ ?_ _ _ ?_) | (with_reducible refine foldl_wf_mid _ ?_ _ _ ?_)
    | (with_reducible refine foldl_wf_last2 _ ?_ _ _ ?_) | (with_reducible refine foldl_wf_last3 _ ?_ _ _ ?_)
    | (with_reducible apply State.controlPoison_wf) | simp [*])

@[simp] theorem State.allClosed_wf (s : State) (i : ℕ) (hw : Memory.wf s.mem.bytes = true) :
    Memory.wf (State.allClosed s i).mem.bytes = true := by
  unfold State.allClosed
  repeat' (first
    | with_reducible assumption | (simp [*]; done) | split | (intro _)
    | (with_reducible refine foldl_wf _ ?_ _ _ ?_) | (with_reducible refine foldl_wf_fst _ ?_ _ _ ?_)
    | (with_reducible refine foldl_wf_snd _ ?_ _ _ ?_) | (with_reducible refine foldl_wf_mid _ ?_ _ _ ?_)
    | (with_reducible refine foldl_wf_last2 _ ?_ _ _ ?_) | (with_reducible refine foldl_wf_last3 _ ?_ _ _ ?_)
    | (with_reducible apply State.closeEffects_wf) | (with_reducible apply State.settleFence_wf))

@[simp] theorem State.advance_wf (s : State) (i : ℕ) (die : ℕ) (hw : Memory.wf s.mem.bytes = true) :
    Memory.wf (State.advance s i die).mem.bytes = true := by
  unfold State.advance
  repeat' (first
    | with_reducible assumption | (simp [*]; done) | split | (intro _)
    | (with_reducible refine foldl_wf _ ?_ _ _ ?_) | (with_reducible refine foldl_wf_fst _ ?_ _ _ ?_)
    | (with_reducible refine foldl_wf_snd _ ?_ _ _ ?_) | (with_reducible refine foldl_wf_mid _ ?_ _ _ ?_)
    | (with_reducible refine foldl_wf_last2 _ ?_ _ _ ?_) | (with_reducible refine foldl_wf_last3 _ ?_ _ _ ?_)
    | (with_reducible apply State.closeDie_wf) | (with_reducible apply State.allClosed_wf) | simp [*])

@[simp] theorem State.proceed_wf (s : State) (i : ℕ) (die : ℕ) (hw : Memory.wf s.mem.bytes = true) :
    Memory.wf (State.proceed s i die).mem.bytes = true := by
  unfold State.proceed
  repeat' (first
    | with_reducible assumption | (simp [*]; done) | split | (intro _)
    | (with_reducible refine foldl_wf _ ?_ _ _ ?_) | (with_reducible refine foldl_wf_fst _ ?_ _ _ ?_)
    | (with_reducible refine foldl_wf_snd _ ?_ _ _ ?_) | (with_reducible refine foldl_wf_mid _ ?_ _ _ ?_)
    | (with_reducible refine foldl_wf_last2 _ ?_ _ _ ?_) | (with_reducible refine foldl_wf_last3 _ ?_ _ _ ?_)
    | (with_reducible apply State.advance_wf) | simp [*])

@[simp] theorem State.forecast_wf (s : State) (i : ℕ) (hw : Memory.wf s.mem.bytes = true) :
    Memory.wf (State.forecast s i).mem.bytes = true := by
  unfold State.forecast
  repeat' (first
    | with_reducible assumption | (simp [*]; done) | split | (intro _)
    | (with_reducible refine foldl_wf _ ?_ _ _ ?_) | (with_reducible refine foldl_wf_fst _ ?_ _ _ ?_)
    | (with_reducible refine foldl_wf_snd _ ?_ _ _ ?_) | (with_reducible refine foldl_wf_mid _ ?_ _ _ ?_)
    | (with_reducible refine foldl_wf_last2 _ ?_ _ _ ?_) | (with_reducible refine foldl_wf_last3 _ ?_ _ _ ?_)
    | (with_reducible apply State.event_wf) | simp [*])

@[simp] theorem State.lapCopy_wf (s : State) (i : ℕ) (sender : ℕ) (taker : ℕ) (src : ℕ) (dst : ℕ) (n : ℕ)
    (hw : Memory.wf s.mem.bytes = true) :
    Memory.wf (State.lapCopy s i sender taker src dst n).mem.bytes = true := by
  unfold State.lapCopy
  repeat' (first
    | with_reducible assumption | (simp [*]; done) | split | (intro _)
    | (with_reducible refine foldl_wf _ ?_ _ _ ?_) | (with_reducible refine foldl_wf_fst _ ?_ _ _ ?_)
    | (with_reducible refine foldl_wf_snd _ ?_ _ _ ?_) | (with_reducible refine foldl_wf_mid _ ?_ _ _ ?_)
    | (with_reducible refine foldl_wf_last2 _ ?_ _ _ ?_) | (with_reducible refine foldl_wf_last3 _ ?_ _ _ ?_)
    | (with_reducible apply State.taskWriteLine_wf) | simp [*])

@[simp] theorem State.accParity_wf (s : State) (die : ℕ) (requester : ℕ) (req : AccReq) (parity : Bool)
    (hw : Memory.wf s.mem.bytes = true) :
    Memory.wf (State.accParity s die requester req parity).2.mem.bytes = true := by
  unfold State.accParity; split <;> simp [hw]

@[simp] theorem State.presentRow_wf (s : State) (i : ℕ) (die : ℕ) (requester : ℕ) (errs : List WordErr)
    (parity : Bool) (hw : Memory.wf s.mem.bytes = true) :
    Memory.wf (State.presentRow s i die requester errs parity).mem.bytes = true := by
  unfold State.presentRow
  repeat' (first
    | with_reducible assumption | (simp [*]; done) | split | (intro _)
    | (with_reducible refine foldl_wf _ ?_ _ _ ?_) | (with_reducible refine foldl_wf_fst _ ?_ _ _ ?_)
    | (with_reducible refine foldl_wf_snd _ ?_ _ _ ?_) | (with_reducible refine foldl_wf_mid _ ?_ _ _ ?_)
    | (with_reducible refine foldl_wf_last2 _ ?_ _ _ ?_) | (with_reducible refine foldl_wf_last3 _ ?_ _ _ ?_)
    | (with_reducible apply State.accParity_wf) | simp [*])

@[simp] theorem State.ringUncorrectable_wf (s : State) (n : ℕ) (hw : Memory.wf s.mem.bytes = true) :
    Memory.wf (State.ringUncorrectable s n).mem.bytes = true := by
  simp [State.ringUncorrectable, hw]

@[simp] theorem State.ringPush_wf (s0 : State) (n : ℕ) (entry : List Byte) (hw : Memory.wf s0.mem.bytes = true) :
    Memory.wf (State.ringPush s0 n entry).mem.bytes = true := by
  unfold State.ringPush
  repeat' (first
    | with_reducible assumption | (simp [*]; done) | split | (intro _)
    | (with_reducible refine foldl_wf _ ?_ _ _ ?_) | (with_reducible refine foldl_wf_fst _ ?_ _ _ ?_)
    | (with_reducible refine foldl_wf_snd _ ?_ _ _ ?_) | (with_reducible refine foldl_wf_mid _ ?_ _ _ ?_)
    | (with_reducible refine foldl_wf_last2 _ ?_ _ _ ?_) | (with_reducible refine foldl_wf_last3 _ ?_ _ _ ?_)
    | (with_reducible apply State.ringStore_wf) | (with_reducible apply State.ringCheck_wf) | simp [*])

@[simp] theorem State.ringPop_wf (s0 : State) (n : ℕ) (hw : Memory.wf s0.mem.bytes = true) :
    Memory.wf (State.ringPop s0 n).2.mem.bytes = true := by
  unfold State.ringPop
  repeat' (first
    | with_reducible assumption | (simp [*]; done) | split | (intro _)
    | (with_reducible refine foldl_wf _ ?_ _ _ ?_) | (with_reducible refine foldl_wf_fst _ ?_ _ _ ?_)
    | (with_reducible refine foldl_wf_snd _ ?_ _ _ ?_) | (with_reducible refine foldl_wf_mid _ ?_ _ _ ?_)
    | (with_reducible refine foldl_wf_last2 _ ?_ _ _ ?_) | (with_reducible refine foldl_wf_last3 _ ?_ _ _ ?_)
    | (with_reducible apply State.flushHeld_wf) | (with_reducible apply State.ringCheck_wf) | simp [*])

@[simp] theorem State.ringIndex_wf (s0 : State) (n : ℕ) (which : RingIndex) (v : U32)
    (hw : Memory.wf s0.mem.bytes = true) :
    Memory.wf (State.ringIndex s0 n which v).mem.bytes = true := by
  unfold State.ringIndex
  repeat' (first
    | with_reducible assumption | (simp [*]; done) | split | (intro _)
    | (with_reducible refine foldl_wf _ ?_ _ _ ?_) | (with_reducible refine foldl_wf_fst _ ?_ _ _ ?_)
    | (with_reducible refine foldl_wf_snd _ ?_ _ _ ?_) | (with_reducible refine foldl_wf_mid _ ?_ _ _ ?_)
    | (with_reducible refine foldl_wf_last2 _ ?_ _ _ ?_) | (with_reducible refine foldl_wf_last3 _ ?_ _ _ ?_)
    | (with_reducible apply State.flushHeld_wf) | (with_reducible apply State.ringCheck_wf) | simp [*])

@[simp] theorem State.pushStore_wf (s : State) (w : RingWriter) (n : ℕ) (off : ℕ) (len : ℕ) (v : ℕ)
    (hw : Memory.wf s.mem.bytes = true) :
    Memory.wf (State.pushStore s w n off len v).mem.bytes = true := by
  unfold State.pushStore; split <;> simp [hw]

@[simp] theorem State.writeAdmitted_wf (m : Msg) (data : List Byte) (acc : ℕ × State) (p : ℕ × ℕ)
    (hw : Memory.wf acc.2.mem.bytes = true) :
    Memory.wf (State.writeAdmitted m data acc p).2.mem.bytes = true := by
  unfold State.writeAdmitted
  repeat' (first
    | with_reducible assumption | (simp [*]; done) | split | (intro _)
    | (with_reducible refine foldl_wf _ ?_ _ _ ?_) | (with_reducible refine foldl_wf_fst _ ?_ _ _ ?_)
    | (with_reducible refine foldl_wf_snd _ ?_ _ _ ?_) | (with_reducible refine foldl_wf_mid _ ?_ _ _ ?_)
    | (with_reducible refine foldl_wf_last2 _ ?_ _ _ ?_) | (with_reducible refine foldl_wf_last3 _ ?_ _ _ ?_)
    | (with_reducible apply State.writeLine_wf) | simp [*])

@[simp] theorem State.serveWrite_wf (s : State) (m : Msg) (hw : Memory.wf s.mem.bytes = true) :
    Memory.wf (State.serveWrite s m).mem.bytes = true := by
  unfold State.serveWrite
  repeat' (first
    | with_reducible assumption | (simp [*]; done) | split | (intro _)
    | (with_reducible refine foldl_wf _ ?_ _ _ ?_) | (with_reducible refine foldl_wf_fst _ ?_ _ _ ?_)
    | (with_reducible refine foldl_wf_snd _ ?_ _ _ ?_) | (with_reducible refine foldl_wf_mid _ ?_ _ _ ?_)
    | (with_reducible refine foldl_wf_last2 _ ?_ _ _ ?_) | (with_reducible refine foldl_wf_last3 _ ?_ _ _ ?_)
    | (with_reducible apply State.writeAdmitted_wf) | simp [*])

@[simp] theorem State.serveRingPush_wf (s : State) (m : Msg) (hw : Memory.wf s.mem.bytes = true) :
    Memory.wf (State.serveRingPush s m).mem.bytes = true := by
  unfold State.serveRingPush
  repeat' (first
    | with_reducible assumption | (simp [*]; done) | split | (intro _)
    | (with_reducible refine foldl_wf _ ?_ _ _ ?_) | (with_reducible refine foldl_wf_fst _ ?_ _ _ ?_)
    | (with_reducible refine foldl_wf_snd _ ?_ _ _ ?_) | (with_reducible refine foldl_wf_mid _ ?_ _ _ ?_)
    | (with_reducible refine foldl_wf_last2 _ ?_ _ _ ?_) | (with_reducible refine foldl_wf_last3 _ ?_ _ _ ?_)
    | (with_reducible apply State.ringPush_wf) | simp [*])

@[simp] theorem State.landData_wf (s : State) (r : RemoteReq) (m : Msg) (hw : Memory.wf s.mem.bytes = true) :
    Memory.wf (State.landData s r m).mem.bytes = true := by
  unfold State.landData
  repeat' (first
    | with_reducible assumption | (simp [*]; done) | split | (intro _)
    | (with_reducible refine foldl_wf _ ?_ _ _ ?_) | (with_reducible refine foldl_wf_fst _ ?_ _ _ ?_)
    | (with_reducible refine foldl_wf_snd _ ?_ _ _ ?_) | (with_reducible refine foldl_wf_mid _ ?_ _ _ ?_)
    | (with_reducible refine foldl_wf_last2 _ ?_ _ _ ?_) | (with_reducible refine foldl_wf_last3 _ ?_ _ _ ?_)
    | (with_reducible apply State.streamWrite_wf) | (with_reducible apply State.mcAppend_wf) | simp [*])

@[simp] theorem State.dropUnreached_wf (s : State) (g : ℕ) (hw : Memory.wf s.mem.bytes = true) :
    Memory.wf (State.dropUnreached s g).mem.bytes = true := by
  unfold State.dropUnreached
  repeat' (first
    | with_reducible assumption | (simp [*]; done) | split | (intro _)
    | (with_reducible refine foldl_wf _ ?_ _ _ ?_))

@[simp] theorem State.endSweep_wf (s : State) (hw : Memory.wf s.mem.bytes = true) :
    Memory.wf (State.endSweep s).mem.bytes = true := by
  unfold State.endSweep
  repeat' (first
    | with_reducible assumption | (simp [*]; done) | split | (intro _)
    | (with_reducible refine foldl_wf _ ?_ _ _ ?_) | (with_reducible refine foldl_wf_fst _ ?_ _ _ ?_)
    | (with_reducible refine foldl_wf_snd _ ?_ _ _ ?_) | (with_reducible refine foldl_wf_mid _ ?_ _ _ ?_)
    | (with_reducible refine foldl_wf_last2 _ ?_ _ _ ?_) | (with_reducible refine foldl_wf_last3 _ ?_ _ _ ?_)
    | (with_reducible apply State.setPortState_wf) | (with_reducible apply State.mcPump_wf)
    | (with_reducible apply State.dropUnreached_wf) | simp [*])

@[simp] theorem State.finishSweep_wf (s : State) (hw : Memory.wf s.mem.bytes = true) :
    Memory.wf (State.finishSweep s).mem.bytes = true := by
  unfold State.finishSweep
  repeat' (first
    | with_reducible assumption | (simp [*]; done) | split | (intro _)
    | (with_reducible refine foldl_wf _ ?_ _ _ ?_) | (with_reducible refine foldl_wf_fst _ ?_ _ _ ?_)
    | (with_reducible refine foldl_wf_snd _ ?_ _ _ ?_) | (with_reducible refine foldl_wf_mid _ ?_ _ _ ?_)
    | (with_reducible refine foldl_wf_last2 _ ?_ _ _ ?_) | (with_reducible refine foldl_wf_last3 _ ?_ _ _ ?_)
    | (with_reducible apply State.endSweep_wf) | simp [*])

@[simp] theorem State.startSweep_wf (s : State) (hw : Memory.wf s.mem.bytes = true) :
    Memory.wf (State.startSweep s).mem.bytes = true := by
  unfold State.startSweep
  repeat' (first
    | with_reducible assumption | (simp [*]; done) | split | (intro _)
    | (with_reducible refine foldl_wf _ ?_ _ _ ?_) | (with_reducible refine foldl_wf_fst _ ?_ _ _ ?_)
    | (with_reducible refine foldl_wf_snd _ ?_ _ _ ?_) | (with_reducible refine foldl_wf_mid _ ?_ _ _ ?_)
    | (with_reducible refine foldl_wf_last2 _ ?_ _ _ ?_) | (with_reducible refine foldl_wf_last3 _ ?_ _ _ ?_)
    | (with_reducible apply State.finishSweep_wf) | simp [*])

@[simp] theorem State.discover_wf (s : State) (hw : Memory.wf s.mem.bytes = true) :
    Memory.wf (State.discover s).mem.bytes = true := by
  unfold State.discover
  repeat' (first
    | with_reducible assumption | (simp [*]; done) | split | (intro _)
    | (with_reducible refine foldl_wf _ ?_ _ _ ?_) | (with_reducible refine foldl_wf_fst _ ?_ _ _ ?_)
    | (with_reducible refine foldl_wf_snd _ ?_ _ _ ?_) | (with_reducible refine foldl_wf_mid _ ?_ _ _ ?_)
    | (with_reducible refine foldl_wf_last2 _ ?_ _ _ ?_) | (with_reducible refine foldl_wf_last3 _ ?_ _ _ ?_)
    | (with_reducible apply State.settle_wf) | (with_reducible apply State.startSweep_wf) | simp [*])

@[simp] theorem State.mcReceive_wf (s : State) (g : ℕ) (m : Msg) (hw : Memory.wf s.mem.bytes = true) :
    Memory.wf (State.mcReceive s g m).mem.bytes = true := by
  unfold State.mcReceive; split <;> simp [hw]

@[simp] theorem State.serveMulticast_wf (s : State) (m : Msg) (hw : Memory.wf s.mem.bytes = true) :
    Memory.wf (State.serveMulticast s m).mem.bytes = true := by
  unfold State.serveMulticast
  repeat' (first
    | with_reducible assumption | (simp [*]; done) | split | (intro _)
    | (with_reducible refine foldl_wf _ ?_ _ _ ?_) | (with_reducible refine foldl_wf_fst _ ?_ _ _ ?_)
    | (with_reducible refine foldl_wf_snd _ ?_ _ _ ?_) | (with_reducible refine foldl_wf_mid _ ?_ _ _ ?_)
    | (with_reducible refine foldl_wf_last2 _ ?_ _ _ ?_) | (with_reducible refine foldl_wf_last3 _ ?_ _ _ ?_)
    | (with_reducible apply State.settle_wf))

@[simp] theorem State.demote_wf (s : State) (hb : Heartbeat) (hw : Memory.wf s.mem.bytes = true) :
    Memory.wf (State.demote s hb).mem.bytes = true := by
  unfold State.demote; split <;> simp [hw]

@[simp] theorem State.takeBeat_wf (s : State) (hb : Heartbeat) (hw : Memory.wf s.mem.bytes = true) :
    Memory.wf (State.takeBeat s hb).mem.bytes = true := by
  unfold State.takeBeat; split <;> simp [hw]

@[simp] theorem State.portBeat_wf (s : State) (p : ℕ) (hb : Heartbeat) (hw : Memory.wf s.mem.bytes = true) :
    Memory.wf (State.portBeat s p hb).mem.bytes = true := by
  unfold State.portBeat; split <;> simp [hw]

@[simp] theorem State.applyMirrorFuel_wf (x0 : ℕ) (x1 : State) (hw : Memory.wf x1.mem.bytes = true) :
    Memory.wf (State.applyMirrorFuel x0 x1).mem.bytes = true := by
  induction x0 generalizing x1 with
  | zero => simp [State.applyMirrorFuel, *]
  | succ k ih =>
    unfold State.applyMirrorFuel
    repeat' (first
      | with_reducible assumption | (simp [hw]; done) | split | (with_reducible refine ih _ _ ?_) | (with_reducible refine ih _ ?_)
      | (with_reducible apply ih) | (with_reducible refine foldl_wf _ ?_ _ _ ?_) | (intro _)
      | (with_reducible apply State.writePhys_wf)
      | simp [hw])

@[simp] theorem State.applyMirror_wf (s : State) (hw : Memory.wf s.mem.bytes = true) :
    Memory.wf (State.applyMirror s).mem.bytes = true := by
  simp [State.applyMirror, hw]

@[simp] theorem State.serveMirror_wf (s : State) (seq : U32) (addr : ℕ) (data : List Byte) (poison : Bool)
    (hw : Memory.wf s.mem.bytes = true) :
    Memory.wf (State.serveMirror s seq addr data poison).mem.bytes = true := by
  unfold State.serveMirror; split <;> simp [hw]

@[simp] theorem State.takeMirrors_wf (s : State) (hw : Memory.wf s.mem.bytes = true) :
    Memory.wf (State.takeMirrors s).mem.bytes = true := by
  unfold State.takeMirrors
  repeat' (first
    | with_reducible assumption | (simp [*]; done) | split | (intro _)
    | (with_reducible refine foldl_wf _ ?_ _ _ ?_))

@[simp] theorem State.takeOver_wf (s : State) (hw : Memory.wf s.mem.bytes = true) :
    Memory.wf (State.takeOver s).mem.bytes = true := by
  unfold State.takeOver
  repeat' (first
    | with_reducible assumption | (simp [*]; done) | split | (intro _)
    | (with_reducible refine foldl_wf _ ?_ _ _ ?_) | (with_reducible refine foldl_wf_fst _ ?_ _ _ ?_)
    | (with_reducible refine foldl_wf_snd _ ?_ _ _ ?_) | (with_reducible refine foldl_wf_mid _ ?_ _ _ ?_)
    | (with_reducible refine foldl_wf_last2 _ ?_ _ _ ?_) | (with_reducible refine foldl_wf_last3 _ ?_ _ _ ?_)
    | (with_reducible apply State.event_wf) | (with_reducible apply State.applyMirror_wf)
    | (with_reducible apply State.takeMirrors_wf) | simp [*])

@[simp] theorem State.writeTakeover_wf (s : State) (v : ℕ) (hw : Memory.wf s.mem.bytes = true) :
    Memory.wf (State.writeTakeover s v).mem.bytes = true := by
  unfold State.writeTakeover
  repeat' (first
    | with_reducible assumption | (simp [*]; done) | split | (intro _)
    | (with_reducible refine foldl_wf _ ?_ _ _ ?_) | (with_reducible refine foldl_wf_fst _ ?_ _ _ ?_)
    | (with_reducible refine foldl_wf_snd _ ?_ _ _ ?_) | (with_reducible refine foldl_wf_mid _ ?_ _ _ ?_)
    | (with_reducible refine foldl_wf_last2 _ ?_ _ _ ?_) | (with_reducible refine foldl_wf_last3 _ ?_ _ _ ?_)
    | (with_reducible apply State.takeOver_wf) | simp [*])

@[simp] theorem State.takeHello_wf (s : State) (p : ℕ) (rec' : List Byte) (hw : Memory.wf s.mem.bytes = true) :
    Memory.wf (State.takeHello s p rec').mem.bytes = true := by
  unfold State.takeHello
  repeat' (first
    | with_reducible assumption | (simp [*]; done) | split | (intro _)
    | (with_reducible refine foldl_wf _ ?_ _ _ ?_) | (with_reducible refine foldl_wf_fst _ ?_ _ _ ?_)
    | (with_reducible refine foldl_wf_snd _ ?_ _ _ ?_) | (with_reducible refine foldl_wf_mid _ ?_ _ _ ?_)
    | (with_reducible refine foldl_wf_last2 _ ?_ _ _ ?_) | (with_reducible refine foldl_wf_last3 _ ?_ _ _ ?_)
    | (with_reducible apply State.setPort_wf) | simp [*])

@[simp] theorem State.takeAck_wf (s : State) (p : ℕ) (ack : ℕ) (hw : Memory.wf s.mem.bytes = true) :
    Memory.wf (State.takeAck s p ack).mem.bytes = true := by
  unfold State.takeAck; (repeat' split) <;> simp [hw]

@[simp] theorem State.startTraining_wf (s : State) (p : ℕ) (hw : Memory.wf s.mem.bytes = true) :
    Memory.wf (State.startTraining s p).mem.bytes = true := by
  unfold State.startTraining
  repeat' (first
    | with_reducible assumption | (simp [*]; done) | split | (intro _)
    | (with_reducible refine foldl_wf _ ?_ _ _ ?_) | (with_reducible refine foldl_wf_fst _ ?_ _ _ ?_)
    | (with_reducible refine foldl_wf_snd _ ?_ _ _ ?_) | (with_reducible refine foldl_wf_mid _ ?_ _ _ ?_)
    | (with_reducible refine foldl_wf_last2 _ ?_ _ _ ?_) | (with_reducible refine foldl_wf_last3 _ ?_ _ _ ?_)
    | (with_reducible apply State.setPortState_wf) | simp [*])

@[simp] theorem State.writePortEnable_wf (s : State) (v : ℕ) (hw : Memory.wf s.mem.bytes = true) :
    Memory.wf (State.writePortEnable s v).mem.bytes = true := by
  unfold State.writePortEnable
  repeat' (first
    | with_reducible assumption | (simp [*]; done) | split | (intro _)
    | (with_reducible refine foldl_wf _ ?_ _ _ ?_))

@[simp] theorem State.oweWriteback_wf (s : State) (line : ℕ) (d : Decoded) (hw : Memory.wf s.mem.bytes = true) :
    Memory.wf (State.oweWriteback s line d).mem.bytes = true := by
  simp [State.oweWriteback, hw]

@[simp] theorem State.takeChannel_wf (s : State) (ch : ℕ) (n : ℕ) (hw : Memory.wf s.mem.bytes = true) :
    Memory.wf (State.takeChannel s ch n).mem.bytes = true := by
  simp [State.takeChannel, hw]

@[simp] theorem State.deliverLine_wf (s : State) (rq : Requester) (wait : ℕ) (addr : ℕ) (data : List Byte)
    (poison : Bool) (hw : Memory.wf s.mem.bytes = true) :
    Memory.wf (State.deliverLine s rq wait addr data poison).mem.bytes = true := by
  simp [State.deliverLine, hw]

@[simp] theorem State.acceptRead_wf (s : State) (die : ℕ) (off : ℕ) (addr : ℕ) (rq : Requester) (waited : ℕ)
    (reply : Option (ℕ × ℕ)) (hw : Memory.wf s.mem.bytes = true) :
    Memory.wf (State.acceptRead s die off addr rq waited reply).mem.bytes = true := by
  simp [State.acceptRead, hw]

@[simp] theorem State.uncorrRecord_wf (s : State) (p : Place) (data : List Byte) (hw : Memory.wf s.mem.bytes = true) :
    Memory.wf (State.uncorrRecord s p data).mem.bytes = true := by
  unfold State.uncorrRecord; split <;> simp [hw]

@[simp] theorem State.lineDecoded_wf (s : State) (p : Place) (addr : ℕ) (rq : Requester) (tag : U16) (d : Decoded)
    (stale : Bool) (hw : Memory.wf s.mem.bytes = true) :
    Memory.wf (State.lineDecoded s p addr rq tag d stale).mem.bytes = true := by
  unfold State.lineDecoded; (repeat' split) <;> simp [hw]

@[simp] theorem State.resumeDie_wf (s : State) (die : ℕ) (hw : Memory.wf s.mem.bytes = true) :
    Memory.wf (State.resumeDie s die).mem.bytes = true := by
  unfold State.resumeDie; split <;> simp [hw]

@[simp] theorem State.mergeLine_wf (s : State) (p : Place) (l : ℕ) (enable : U64) (data : List Byte)
    (poison : Bool) (rq : Requester) (err : List (ℕ × Byte)) (hw : Memory.wf s.mem.bytes = true) :
    Memory.wf (State.mergeLine s p l enable data poison rq err).mem.bytes = true := by
  unfold State.mergeLine
  repeat' (first
    | with_reducible assumption | (simp [*]; done) | split | (intro _)
    | (with_reducible refine foldl_wf _ ?_ _ _ ?_) | (with_reducible refine foldl_wf_fst _ ?_ _ _ ?_)
    | (with_reducible refine foldl_wf_snd _ ?_ _ _ ?_) | (with_reducible refine foldl_wf_mid _ ?_ _ _ ?_)
    | (with_reducible refine foldl_wf_last2 _ ?_ _ _ ?_) | (with_reducible refine foldl_wf_last3 _ ?_ _ _ ?_)
    | (with_reducible apply State.putDiff_wf) | (with_reducible apply State.putTag_wf)
    | (with_reducible apply State.putBytes_wf) | (with_reducible apply State.dropWritebacks_wf)
    | (with_reducible apply State.lineDecoded_wf) | simp [*])

@[simp] theorem State.oweScrub_wf (s : State) (line : ℕ) (tag : U16) (d : Decoded) (hw : Memory.wf s.mem.bytes = true) :
    Memory.wf (State.oweScrub s line tag d).mem.bytes = true := by
  unfold State.oweScrub; (repeat' split) <;> simp [hw]

@[simp] theorem State.scrubLine_wf (s : State) (p : Place) (l : ℕ) (err : List (ℕ × Byte))
    (hw : Memory.wf s.mem.bytes = true) :
    Memory.wf (State.scrubLine s p l err).mem.bytes = true := by
  simp [State.scrubLine, hw]

@[simp] theorem State.takeBank_wf (s : State) (die : ℕ) (bank : ℕ) (hw : Memory.wf s.mem.bytes = true) :
    Memory.wf (State.takeBank s die bank).mem.bytes = true := by
  simp [State.takeBank, hw]

@[simp] theorem State.bankAccess_wf (s : State) (rq : Requester) (die : ℕ) (o : ℕ) (wr : Option SpWrite)
    (errs : List WordErr) (parity : Bool) (hw : Memory.wf s.mem.bytes = true) :
    Memory.wf (State.bankAccess s rq die o wr errs parity).mem.bytes = true := by
  unfold State.bankAccess
  repeat' (first
    | with_reducible assumption | (simp [*]; done) | split | (intro _)
    | (with_reducible refine foldl_wf _ ?_ _ _ ?_) | (with_reducible refine foldl_wf_fst _ ?_ _ _ ?_)
    | (with_reducible refine foldl_wf_snd _ ?_ _ _ ?_) | (with_reducible refine foldl_wf_mid _ ?_ _ _ ?_)
    | (with_reducible refine foldl_wf_last2 _ ?_ _ _ ?_) | (with_reducible refine foldl_wf_last3 _ ?_ _ _ ?_)
    | (with_reducible apply State.putFlag_wf) | (with_reducible apply State.writeLine_wf)
    | (with_reducible apply State.parityError_wf) | (with_reducible apply State.deliverLine_wf))

@[simp] theorem State.writeSpEnable_wf (s : State) (die : ℕ) (mask : U64) (hw : Memory.wf s.mem.bytes = true) :
    Memory.wf (State.writeSpEnable s die mask).mem.bytes = true := by
  unfold State.writeSpEnable; (repeat' split) <;> simp [hw]

@[simp] theorem State.readyDie_wf (s : State) (die : ℕ) (hw : Memory.wf s.mem.bytes = true) :
    Memory.wf (State.readyDie s die).mem.bytes = true := by
  unfold State.readyDie; split <;> simp [hw]

@[simp] theorem State.writeHbmMode_wf (s : State) (v : Byte) (hw : Memory.wf s.mem.bytes = true) :
    Memory.wf (State.writeHbmMode s v).mem.bytes = true := by
  unfold State.writeHbmMode
  repeat' (first
    | with_reducible assumption | (simp [*]; done) | split | (intro _)
    | (with_reducible refine foldl_wf _ ?_ _ _ ?_))

@[simp] theorem State.chooseLayout_wf (s : State) (k : ℕ) (hw : Memory.wf s.mem.bytes = true) :
    Memory.wf (State.chooseLayout s k).mem.bytes = true := by
  unfold State.chooseLayout; split <;> simp [hw]

@[simp] theorem State.contextWrite_wf (s : State) (n : ℕ) (off : ℕ) (len : ℕ) (v : ℕ)
    (hw : Memory.wf s.mem.bytes = true) :
    Memory.wf (State.contextWrite s n off len v).mem.bytes = true := by
  unfold State.contextWrite; (repeat' split) <;> simp [hw]

@[simp] theorem State.popRead_wf (s : State) (n : ℕ) (off : ℕ) (len : ℕ) (hw : Memory.wf s.mem.bytes = true) :
    Memory.wf (State.popRead s n off len).2.mem.bytes = true := by
  unfold State.popRead; split <;> simp [hw]

@[simp] theorem State.windowAccess_wf (s : State) (w : RingWriter) (p : HubPart) (len : ℕ) (wr : Option U64)
    (hw : Memory.wf s.mem.bytes = true) :
    Memory.wf (State.windowAccess s w p len wr).2.mem.bytes = true := by
  unfold State.windowAccess; (repeat' split) <;> simp [hw]

@[simp] theorem State.bar0_wf (s : State) (off : ℕ) (len : ℕ) (wr : Option U64) (hw : Memory.wf s.mem.bytes = true) :
    Memory.wf (State.bar0 s off len wr).2.mem.bytes = true := by
  unfold State.bar0; (repeat' split) <;> simp [hw]

@[simp] theorem State.serveBar0_wf (s : State) (off : ℕ) (len : ℕ) (wr : Option U64)
    (hw : Memory.wf s.mem.bytes = true) :
    Memory.wf (State.serveBar0 s off len wr).mem.bytes = true := by
  simp [State.serveBar0, hw]

@[simp] theorem State.inboundWrite_wf (s : State) (first : ℕ) (n : ℕ) (x : ℕ) (data : List Byte) (poison : Bool)
    (hw : Memory.wf s.mem.bytes = true) :
    Memory.wf (State.inboundWrite s first n x data poison).2.mem.bytes = true := by
  unfold State.inboundWrite
  repeat' (first
    | with_reducible assumption | (simp [*]; done) | split | (intro _)
    | (with_reducible refine foldl_wf _ ?_ _ _ ?_))

@[simp] theorem State.serveBar2_wf (s : State) (off : ℕ) (len : ℕ) (wr : Option (List Byte × Bool))
    (hw : Memory.wf s.mem.bytes = true) :
    Memory.wf (State.serveBar2 s off len wr).mem.bytes = true := by
  unfold State.serveBar2; split <;> simp [hw]

@[simp] theorem State.serveWindow_wf (s : State) (core : ℕ) (off : ℕ) (len : ℕ) (wr : Option U64)
    (hw : Memory.wf s.mem.bytes = true) :
    Memory.wf (State.serveWindow s core off len wr).mem.bytes = true := by
  unfold State.serveWindow; split <;> simp [hw]

@[simp] theorem State.serveRootPort_wf (s : State) (q : ℕ) (addr : ℕ) (len : ℕ) (wr : Option (List Byte))
    (msi : Option (ℕ × ℕ)) (hw : Memory.wf s.mem.bytes = true) :
    Memory.wf (State.serveRootPort s q addr len wr msi).mem.bytes = true := by
  unfold State.serveRootPort
  repeat' (first
    | with_reducible assumption | (simp [*]; done) | split | (intro _)
    | (with_reducible refine foldl_wf _ ?_ _ _ ?_) | (with_reducible refine foldl_wf_fst _ ?_ _ _ ?_)
    | (with_reducible refine foldl_wf_snd _ ?_ _ _ ?_) | (with_reducible refine foldl_wf_mid _ ?_ _ _ ?_)
    | (with_reducible refine foldl_wf_last2 _ ?_ _ _ ?_) | (with_reducible refine foldl_wf_last3 _ ?_ _ _ ?_)
    | (with_reducible apply State.settle_wf) | (with_reducible apply State.inboundWrite_wf) | simp [*])

@[simp] theorem State.removeRails_wf (s : State) (hw : Memory.wf s.mem.bytes = true) :
    Memory.wf (State.removeRails s).mem.bytes = true := by
  simp [State.removeRails, hw]

@[simp] theorem State.moduleReset_wf (s : State) (hw : Memory.wf s.mem.bytes = true) :
    Memory.wf (State.moduleReset s).mem.bytes = true := by
  unfold State.moduleReset
  simp
  rfl

@[simp] theorem State.islandRestart_wf (s : State) (hw : Memory.wf s.mem.bytes = true) :
    Memory.wf (State.islandRestart s).mem.bytes = true := by
  have r : Memory.wf State.reset.mem.bytes = true := rfl
  unfold State.islandRestart
  simp [r]

@[simp] theorem State.enterRecovery_wf (s : State) (hw : Memory.wf s.mem.bytes = true) :
    Memory.wf (State.enterRecovery s).mem.bytes = true := by
  simp [State.enterRecovery, hw]

@[simp] theorem State.writeFence_wf (s : State) (n : ℕ) (v : ℕ) (hw : Memory.wf s.mem.bytes = true) :
    Memory.wf (State.writeFence s n v).mem.bytes = true := by
  simp [State.writeFence, hw]

theorem State.specialWrite_wf (s : State) (n : Nat) (value : List Byte) (x : State × Verdict)
    (hw : Memory.wf s.mem.bytes = true) (e : s.specialWrite n value = some x) : Memory.wf x.1.mem.bytes = true := by
  unfold State.specialWrite at e
  dsimp only at e
  repeat' (split at e)
  all_goals (first
    | (simp only [reduceCtorEq] at e; done)
    | (simp only [Option.some.injEq] at e; subst e; simp [hw]; done)
    | (rename_i q; have f := State.queueImage_frame s value; rw [q] at f; simp only [Option.some.injEq] at e; subst e; simp at f; simp [f, hw])
    | (rename_i q; have f := State.queueRecord_frame s value; rw [q] at f; simp only [Option.some.injEq] at e; subst e; simp at f; simp [f, hw]))

@[simp] theorem State.writeObj_wf (s : State) (n : ℕ) (r : ObjRow) (value : List Byte)
    (hw : Memory.wf s.mem.bytes = true) :
    Memory.wf (State.writeObj s n r value).1.mem.bytes = true := by
  unfold State.writeObj
  split
  · simpa using hw
  · split
    · rename_i x e
      exact State.specialWrite_wf _ _ _ _ hw e
    · repeat' split
      all_goals simpa using hw

@[simp] theorem State.judgeWrite_wf (s : State) (p : Path) (n : ℕ) (value : List Byte) (whole : Bool)
    (hw : Memory.wf s.mem.bytes = true) :
    Memory.wf (State.judgeWrite s p n value whole).1.mem.bytes = true := by
  unfold State.judgeWrite; (repeat' split) <;> simp [hw]

@[simp] theorem State.udpBeat_wf (s : State) (addr : List Byte) (hb : Heartbeat) (hw : Memory.wf s.mem.bytes = true) :
    Memory.wf (State.udpBeat s addr hb).mem.bytes = true := by
  unfold State.udpBeat; split <;> simp [hw]

@[simp] theorem State.judge_wf (s : State) (src : Source) (port : Option ℕ) (tag : ℕ) (bytes : List Byte)
    (hw : Memory.wf s.mem.bytes = true) :
    Memory.wf (State.judge s src port tag bytes).mem.bytes = true := by
  unfold State.judge
  repeat' (first
    | with_reducible assumption | (simp [*]; done) | split | (intro _)
    | (with_reducible refine foldl_wf _ ?_ _ _ ?_) | (with_reducible refine foldl_wf_fst _ ?_ _ _ ?_)
    | (with_reducible refine foldl_wf_snd _ ?_ _ _ ?_) | (with_reducible refine foldl_wf_mid _ ?_ _ _ ?_)
    | (with_reducible refine foldl_wf_last2 _ ?_ _ _ ?_) | (with_reducible refine foldl_wf_last3 _ ?_ _ _ ?_)
    | (with_reducible apply State.udpBeat_wf) | simp [*])

@[simp] theorem State.receive_wf (s : State) (src : Source) (port : Option ℕ) (tag : ℕ) (bytes : List Byte)
    (hw : Memory.wf s.mem.bytes = true) :
    Memory.wf (State.receive s src port tag bytes).mem.bytes = true := by
  unfold State.receive; split <;> simp [hw]

@[simp] theorem State.writeEntries_wf (x0 : ℕ) (x1 : State) (x2 : Path) (x3 : List Byte) (x4 : ℕ) (x5 : ℕ)
    (x6 : ℕ) (x7 : List Byte) (hw : Memory.wf x1.mem.bytes = true) :
    Memory.wf (State.writeEntries x0 x1 x2 x3 x4 x5 x6 x7).2.mem.bytes = true := by
  induction x0 generalizing x1 x4 x6 x7 with
  | zero => simp [State.writeEntries, *]
  | succ k ih =>
    unfold State.writeEntries
    repeat' (first
      | with_reducible assumption | (simp [hw]; done) | split | (with_reducible refine ih _ _ ?_) | (with_reducible refine ih _ ?_)
      | (with_reducible apply ih) | (with_reducible refine foldl_wf _ ?_ _ _ ?_) | (intro _)
      | (with_reducible apply State.judgeWrite_wf)
      | simp [hw])

@[simp] theorem State.serveFmpWrite_wf (r : Request) (p : Path) (s : State) (hw : Memory.wf s.mem.bytes = true) :
    Memory.wf (State.serveFmpWrite r p s).2.mem.bytes = true := by
  simp [State.serveFmpWrite, hw]

@[simp] theorem State.serveWriteSeg_wf (r : Request) (p : Path) (s : State) (hw : Memory.wf s.mem.bytes = true) :
    Memory.wf (State.serveWriteSeg r p s).2.mem.bytes = true := by
  unfold State.serveWriteSeg; (repeat' split) <;> simp [hw]

@[simp] theorem State.badBeats_wf (s : State) (die : ℕ) (n : ℕ) (hw : Memory.wf s.mem.bytes = true) :
    Memory.wf (State.badBeats s die n).mem.bytes = true := by
  unfold State.badBeats
  repeat' (first
    | with_reducible assumption | (simp [*]; done) | split | (intro _)
    | (with_reducible refine foldl_wf _ ?_ _ _ ?_))

@[simp] theorem State.receiveFrame_wf (s : State) (f : LinkFrame) (bad : List ℕ) (headerBad : Bool)
    (hw : Memory.wf s.mem.bytes = true) :
    Memory.wf (State.receiveFrame s f bad headerBad).mem.bytes = true := by
  unfold State.receiveFrame; split <;> simp [hw]

@[simp] theorem State.doJob_wf (s : State) (id : ArbId) (w : Waiter) (hw : Memory.wf s.mem.bytes = true) :
    Memory.wf (State.doJob s id w).mem.bytes = true := by
  unfold State.doJob
  split
  · dsimp only
    split
    · simpa using State.bankAccess_wf _ _ _ _ _ _ _ hw
    · exact State.bankAccess_wf _ _ _ _ _ _ _ hw
  · exact State.acceptRead_wf _ _ _ _ _ _ _ hw
  · exact State.settle_wf _ (State.writeLine_wf _ _ _ _ _ (State.takeChannel_wf _ _ _ hw))
  · exact State.settle_wf _ (State.mergeLine_wf _ _ _ _ _ _ _ _ (State.takeChannel_wf _ _ _ hw))
  · exact hw

@[simp] theorem State.bankRound_wf (s : State) (id : ArbId) (arrivals : List Waiter)
    (hw : Memory.wf s.mem.bytes = true) :
    Memory.wf (State.bankRound s id arrivals).mem.bytes = true := by
  unfold State.bankRound
  repeat' (first
    | with_reducible assumption | (simp [*]; done) | split | (intro _)
    | (with_reducible refine foldl_wf _ ?_ _ _ ?_) | (with_reducible refine foldl_wf_fst _ ?_ _ _ ?_)
    | (with_reducible refine foldl_wf_snd _ ?_ _ _ ?_) | (with_reducible refine foldl_wf_mid _ ?_ _ _ ?_)
    | (with_reducible refine foldl_wf_last2 _ ?_ _ _ ?_) | (with_reducible refine foldl_wf_last3 _ ?_ _ _ ?_)
    | (with_reducible apply State.doJob_wf) | simp [*])

@[simp] theorem State.accRound_wf (s : State) (die : ℕ) (bank : ℕ) (hw : Memory.wf s.mem.bytes = true) :
    Memory.wf (State.accRound s die bank).mem.bytes = true := by
  unfold State.accRound
  repeat' (first
    | with_reducible assumption | (simp [*]; done) | split | (intro _)
    | (with_reducible refine foldl_wf _ ?_ _ _ ?_))

@[simp] theorem State.loseBanks_wf (s : State) (d : ℕ) (mask : ℕ) (hw : Memory.wf s.mem.bytes = true) :
    Memory.wf (State.loseBanks s d mask).mem.bytes = true := by
  unfold State.loseBanks
  simp
  exact Memory.wf_filter _ _ hw

@[simp] theorem State.sleepBanks_wf (s : State) (hw : Memory.wf s.mem.bytes = true) :
    Memory.wf (State.sleepBanks s).mem.bytes = true := by
  unfold State.sleepBanks
  repeat' (first
    | with_reducible assumption | (simp [*]; done) | split | (intro _)
    | (with_reducible refine foldl_wf _ ?_ _ _ ?_))

@[simp] theorem State.loseHbm_wf (s : State) (hw : Memory.wf s.mem.bytes = true) :
    Memory.wf (State.loseHbm s).mem.bytes = true := by
  unfold State.loseHbm
  simp
  exact Memory.wf_filter _ _ hw

@[simp] theorem State.entryWork_wf (s : State) (k : ℕ) (hw : Memory.wf s.mem.bytes = true) :
    Memory.wf (State.entryWork s k).mem.bytes = true := by
  unfold State.entryWork
  repeat' (first
    | with_reducible assumption | (simp [*]; done) | split | (intro _)
    | (with_reducible refine foldl_wf _ ?_ _ _ ?_) | (with_reducible refine foldl_wf_fst _ ?_ _ _ ?_)
    | (with_reducible refine foldl_wf_snd _ ?_ _ _ ?_) | (with_reducible refine foldl_wf_mid _ ?_ _ _ ?_)
    | (with_reducible refine foldl_wf_last2 _ ?_ _ _ ?_) | (with_reducible refine foldl_wf_last3 _ ?_ _ _ ?_)
    | (with_reducible apply State.setReady_wf) | (with_reducible apply State.loseBanks_wf)
    | (with_reducible apply State.sleepBanks_wf) | (with_reducible apply State.loseHbm_wf))

@[simp] theorem State.perform_wf (s : State) (acc : Access) (hw : Memory.wf s.mem.bytes = true) :
    Memory.wf (State.perform s acc).mem.bytes = true := by
  unfold State.perform; split <;> simp [hw]

@[simp] theorem State.exitWork_wf (s : State) (hw : Memory.wf s.mem.bytes = true) :
    Memory.wf (State.exitWork s).mem.bytes = true := by
  unfold State.exitWork
  repeat' (first
    | with_reducible assumption | (simp [*]; done) | split | (intro _)
    | (with_reducible refine foldl_wf _ ?_ _ _ ?_) | (with_reducible refine foldl_wf_fst _ ?_ _ _ ?_)
    | (with_reducible refine foldl_wf_snd _ ?_ _ _ ?_) | (with_reducible refine foldl_wf_mid _ ?_ _ _ ?_)
    | (with_reducible refine foldl_wf_last2 _ ?_ _ _ ?_) | (with_reducible refine foldl_wf_last3 _ ?_ _ _ ?_)
    | (with_reducible apply State.setReady_wf) | (with_reducible apply State.readyDie_wf) | simp [*])

@[simp] theorem State.thermalEvent_wf (s : State) (code : ℕ) (hw : Memory.wf s.mem.bytes = true) :
    Memory.wf (State.thermalEvent s code).mem.bytes = true := by
  unfold State.thermalEvent; split <;> simp [hw]

@[simp] theorem State.tripNow_wf (s : State) (hw : Memory.wf s.mem.bytes = true) :
    Memory.wf (State.tripNow s).mem.bytes = true := by
  simp [State.tripNow, hw]

@[simp] theorem State.enterThrottle_wf (s : State) (hw : Memory.wf s.mem.bytes = true) :
    Memory.wf (State.enterThrottle s).mem.bytes = true := by
  simp [State.enterThrottle, hw]

@[simp] theorem State.askReset_wf (s : State) (hw : Memory.wf s.mem.bytes = true) :
    Memory.wf (State.askReset s).mem.bytes = true := by
  unfold State.askReset; split <;> simp [hw]

@[simp] theorem State.loseHub_wf (s : State) (l : List (ℕ × ℕ)) (hw : Memory.wf s.mem.bytes = true) :
    Memory.wf (State.loseHub s l).mem.bytes = true := by
  simp [State.loseHub, hw]

@[simp] theorem State.bringUpDdr_wf (s : State) (hw : Memory.wf s.mem.bytes = true) :
    Memory.wf (State.bringUpDdr s).mem.bytes = true := by
  unfold State.bringUpDdr
  repeat' (first
    | with_reducible assumption | (simp [*]; done) | split | (intro _)
    | (with_reducible refine foldl_wf _ ?_ _ _ ?_) | (with_reducible refine foldl_wf_fst _ ?_ _ _ ?_)
    | (with_reducible refine foldl_wf_snd _ ?_ _ _ ?_) | (with_reducible refine foldl_wf_mid _ ?_ _ _ ?_)
    | (with_reducible refine foldl_wf_last2 _ ?_ _ _ ?_) | (with_reducible refine foldl_wf_last3 _ ?_ _ _ ?_)
    | (with_reducible apply State.chooseLayout_wf))

@[simp] theorem State.trainDdr_wf (s : State) (hw : Memory.wf s.mem.bytes = true) :
    Memory.wf (State.trainDdr s).mem.bytes = true := by
  unfold State.trainDdr
  repeat' (first
    | with_reducible assumption | (simp [*]; done) | split | (intro _)
    | (with_reducible refine foldl_wf _ ?_ _ _ ?_) | (with_reducible refine foldl_wf_fst _ ?_ _ _ ?_)
    | (with_reducible refine foldl_wf_snd _ ?_ _ _ ?_) | (with_reducible refine foldl_wf_mid _ ?_ _ _ ?_)
    | (with_reducible refine foldl_wf_last2 _ ?_ _ _ ?_) | (with_reducible refine foldl_wf_last3 _ ?_ _ _ ?_)
    | (with_reducible apply State.chooseLayout_wf))

@[simp] theorem State.bringUpBanks_wf (s : State) (hw : Memory.wf s.mem.bytes = true) :
    Memory.wf (State.bringUpBanks s).mem.bytes = true := by
  unfold State.bringUpBanks
  repeat' (first
    | with_reducible assumption | (simp [*]; done) | split | (intro _)
    | (with_reducible refine foldl_wf _ ?_ _ _ ?_) | (with_reducible refine foldl_wf_fst _ ?_ _ _ ?_)
    | (with_reducible refine foldl_wf_snd _ ?_ _ _ ?_) | (with_reducible refine foldl_wf_mid _ ?_ _ _ ?_)
    | (with_reducible refine foldl_wf_last2 _ ?_ _ _ ?_) | (with_reducible refine foldl_wf_last3 _ ?_ _ _ ?_)
    | (with_reducible apply State.applyBanks_wf) | (with_reducible apply State.readyDie_wf))

@[simp] theorem State.railsOn_wf (s : State) (hw : Memory.wf s.mem.bytes = true) :
    Memory.wf (State.railsOn s).mem.bytes = true := by
  unfold State.railsOn
  repeat' (first
    | with_reducible assumption | (simp [*]; done) | split | (intro _)
    | (with_reducible refine foldl_wf _ ?_ _ _ ?_) | (with_reducible refine foldl_wf_fst _ ?_ _ _ ?_)
    | (with_reducible refine foldl_wf_snd _ ?_ _ _ ?_) | (with_reducible refine foldl_wf_mid _ ?_ _ _ ?_)
    | (with_reducible refine foldl_wf_last2 _ ?_ _ _ ?_) | (with_reducible refine foldl_wf_last3 _ ?_ _ _ ?_)
    | (with_reducible apply State.setReady_wf) | (with_reducible apply State.settleFence_wf)
    | (with_reducible apply State.startTraining_wf) | (with_reducible apply State.bringUpDdr_wf)
    | (with_reducible apply State.bringUpBanks_wf) | simp [*])

@[simp] theorem State.fabricTick_wf (s : State) (hw : Memory.wf s.mem.bytes = true) :
    Memory.wf (State.fabricTick s).mem.bytes = true := by
  unfold State.fabricTick
  repeat' (first
    | with_reducible assumption | (simp [*]; done) | split | (intro _)
    | (with_reducible refine foldl_wf _ ?_ _ _ ?_) | (with_reducible refine foldl_wf_fst _ ?_ _ _ ?_)
    | (with_reducible refine foldl_wf_snd _ ?_ _ _ ?_) | (with_reducible refine foldl_wf_mid _ ?_ _ _ ?_)
    | (with_reducible refine foldl_wf_last2 _ ?_ _ _ ?_) | (with_reducible refine foldl_wf_last3 _ ?_ _ _ ?_)
    | (with_reducible apply State.discover_wf) | simp [*])

theorem State.takeIssue_wf (s : State) (take : IssueEntry → State → Option State) (hw : Memory.wf s.mem.bytes = true)
    (ht : ∀ (x : IssueEntry) (u v : State), Memory.wf u.mem.bytes = true → take x u = some v → Memory.wf v.mem.bytes = true) :
    Memory.wf (s.takeIssue take).mem.bytes = true := by
  unfold State.takeIssue
  split
  · dsimp only
    split
    · exact State.ringCheck_wf _ _ hw
    · rename_i x s1 e
      split
      · rename_i s2 e2
        refine ht _ _ _ ?_ e2
        have f := State.issueHead_frame _ _ _ e
        simp [State.issueAdvance, f, hw]
      · exact State.ringCheck_wf _ _ hw
  · exact hw

theorem State.takeCommand_wf (s : State) (p : Command → Bool) (f : Command → State → State) (hw : Memory.wf s.mem.bytes = true)
    (h : ∀ (c : Command) (u : State), Memory.wf u.mem.bytes = true → Memory.wf (f c u).mem.bytes = true) :
    Memory.wf (s.takeCommand p f).mem.bytes = true := by
  refine State.takeIssue_wf _ _ hw ?_
  intro x u v hu e
  dsimp only at e
  split at e
  · simp at e
  · simp only [Option.some.injEq] at e
    subst e
    exact h _ _ (by simpa using hu)

theorem State.allowed_wf (s : State) (c : Command) (f : State → State) (hw : Memory.wf s.mem.bytes = true)
    (h : Memory.wf (f s).mem.bytes = true) : Memory.wf (s.allowed c f).mem.bytes = true := by
  unfold State.allowed
  split
  · exact h
  · exact State.commandRecord_wf _ _ _ _ _ _ _ _ (by simpa using hw)

theorem State.access_wf (s : State) (acc : Access) (f : State → State) (hw : Memory.wf s.mem.bytes = true)
    (h : Memory.wf (f s).mem.bytes = true) : Memory.wf (s.access acc f).mem.bytes = true := by
  unfold State.access
  split
  · exact hw
  · split
    · simpa using hw
    · exact h

theorem State.serve_wf (s : State) (ops : Nat → Bool) (act : Request → Path → State → Answer × State)
    (hw : Memory.wf s.mem.bytes = true)
    (h : ∀ (r : Request) (p : Path) (u : State), Memory.wf u.mem.bytes = true → Memory.wf (act r p u).2.mem.bytes = true) :
    Memory.wf (s.serve ops act).mem.bytes = true := by
  unfold State.serve
  split
  · exact hw
  · split
    · exact hw
    · dsimp only
      refine State.settle_wf _ ?_
      refine foldl_wf _ (fun u n hu => by simpa using hu) _ _ ?_
      simpa using h _ _ _ (by simpa using hw)

@[simp] theorem State.takeOperation_wf (s : State) (k : OpKind) (hw : Memory.wf s.mem.bytes = true) :
    Memory.wf (State.takeOperation s k).mem.bytes = true := by
  unfold State.takeOperation
  refine State.takeIssue_wf _ _ hw ?_
  intro x u v h e
  dsimp only at e
  split at e
  · simp at e
  · simp only [Option.some.injEq] at e; subst e; simpa using h

@[simp] theorem State.tickWork_wf (s : State) (hw : Memory.wf s.mem.bytes = true) :
    Memory.wf (State.tickWork s).mem.bytes = true := by
  unfold State.tickWork
  repeat' (first
    | with_reducible assumption | (simp [*]; done) | split | (intro _)
    | (with_reducible refine foldl_wf _ ?_ _ _ ?_) | (with_reducible refine foldl_wf_fst _ ?_ _ _ ?_)
    | (with_reducible refine foldl_wf_snd _ ?_ _ _ ?_) | (with_reducible refine foldl_wf_mid _ ?_ _ _ ?_)
    | (with_reducible refine foldl_wf_last2 _ ?_ _ _ ?_) | (with_reducible refine foldl_wf_last3 _ ?_ _ _ ?_)
    | (with_reducible apply State.mcPoison_wf) | (with_reducible apply State.trainDdr_wf)
    | (with_reducible apply State.fabricTick_wf) | simp [*])

@[simp] theorem State.passTick_wf (s : State) (hw : Memory.wf s.mem.bytes = true) :
    Memory.wf (State.passTick s).mem.bytes = true := by
  simp [State.passTick, hw]

@[simp] theorem State.passCycle_wf (s : State) (hw : Memory.wf s.mem.bytes = true) :
    Memory.wf (State.passCycle s).mem.bytes = true := by
  unfold State.passCycle
  repeat' (first
    | with_reducible assumption | (simp [*]; done) | split | (intro _)
    | (with_reducible refine foldl_wf _ ?_ _ _ ?_) | (with_reducible refine foldl_wf_fst _ ?_ _ _ ?_)
    | (with_reducible refine foldl_wf_snd _ ?_ _ _ ?_) | (with_reducible refine foldl_wf_mid _ ?_ _ _ ?_)
    | (with_reducible refine foldl_wf_last2 _ ?_ _ _ ?_) | (with_reducible refine foldl_wf_last3 _ ?_ _ _ ?_)
    | (with_reducible apply State.streamCycle_wf) | (with_reducible apply State.passTick_wf) | simp [*])

@[simp] theorem State.clock_wf (s : State) (hw : Memory.wf s.mem.bytes = true) :
    Memory.wf (State.clock s).mem.bytes = true := by
  unfold State.clock; (repeat' split) <;> simp [hw]

end Sys2Proof.Machine
end

