-- ==== Sys2Proof/Laws/State.lean ====
section
/-!
SUPPORT. The updates of the state, field by field: what each named update writes, and what is read after it. With these and
the frames (`Laws/Frames…`) no proof unfolds a record update.
-/

namespace Sys2Proof.Machine

/-! ## Objects -/

@[simp] theorem State.get_put_self (s : State) (n v : Nat) : (s.put n v).get n = v % 2 ^ 64 := by
  simp [State.get, State.put]

theorem State.get_put_of_ne (s : State) (n m v : Nat) (h : m ≠ n) : (s.put n v).get m = s.get m := by
  simp only [State.get, State.put]
  rw [SMap.get_set_of_ne _ _ _ _ _ _ h]

/-- What any object reads after one is written: decided where both numbers are literals. -/
@[simp] theorem State.get_put (s : State) (n m v : Nat) : (s.put n v).get m = if m = n then v % 2 ^ 64 else s.get m := by
  split
  · rename_i h; rw [h, State.get_put_self]
  · rename_i h; exact State.get_put_of_ne s n m v h

/-- A counter reads one event batch more, modulo 2^64 (R372). -/
@[simp] theorem State.get_bump_self (s : State) (n k : Nat) : (s.bump n k).get n = (s.get n + k) % 2 ^ 64 :=
  State.get_put_self s n (s.get n + k)

@[simp] theorem State.get_bump (s : State) (n m k : Nat) :
    (s.bump n k).get m = if m = n then (s.get n + k) % 2 ^ 64 else s.get m := State.get_put s n m _

@[simp] theorem State.get_bump32 (s : State) (n m k : Nat) :
    (s.bump32 n k).get m = if m = n then (s.get n + k) % 2 ^ 32 % 2 ^ 64 else s.get m := State.get_put s n m _

theorem State.get_lt (s : State) (n : Nat) : s.get n < 2 ^ 64 := (s.obj.get n _).isLt

@[simp] theorem State.getBlob_putBlob_self (s : State) (n len : Nat) (v : List Byte) : (s.putBlob n v).getBlob n len = fit len v := by
  simp [State.getBlob, State.putBlob]

/-! ## Parts kept in tables -/

@[simp] theorem State.putVector_hub (s : State) (v : Nat) (x : Vector) : (s.putVector v x).hub = { s.hub with vectors := s.hub.vectors.set v x Vector.zero } := rfl

@[simp] theorem State.vector_putVector_self (s : State) (v : Nat) (x : Vector) : (s.putVector v x).vector v = x := by
  simp [State.vector, State.putVector]

theorem State.vector_putVector_of_ne (s : State) (v v' : Nat) (x : Vector) (h : v' ≠ v) :
    (s.putVector v x).vector v' = s.vector v' := by
  simp only [State.vector, State.putVector]
  rw [SMap.get_set_of_ne _ _ _ _ _ _ h]

@[simp] theorem State.putRing_hub (s : State) (n : Nat) (x : Ring) : (s.putRing n x).hub = { s.hub with rings := s.hub.rings.set n x Ring.zero } := rfl

@[simp] theorem State.ring_putRing_self (s : State) (n : Nat) (x : Ring) : (s.putRing n x).ring n = x := by
  simp [State.ring, State.putRing]

theorem State.ring_putRing_of_ne (s : State) (n n' : Nat) (x : Ring) (h : n' ≠ n) :
    (s.putRing n x).ring n' = s.ring n' := by
  simp only [State.ring, State.putRing]
  rw [SMap.get_set_of_ne _ _ _ _ _ _ h]

@[simp] theorem State.putSlot_hub (s : State) (c : Nat) (x : SendSlot) : (s.putSlot c x).hub = { s.hub with slots := s.hub.slots.set c x SendSlot.idle } := rfl

@[simp] theorem State.slot_putSlot_self (s : State) (c : Nat) (x : SendSlot) : (s.putSlot c x).slot c = x := by
  simp [State.slot, State.putSlot]

theorem State.slot_putSlot_of_ne (s : State) (c c' : Nat) (x : SendSlot) (h : c' ≠ c) :
    (s.putSlot c x).slot c' = s.slot c' := by
  simp only [State.slot, State.putSlot]
  rw [SMap.get_set_of_ne _ _ _ _ _ _ h]

@[simp] theorem State.putPort_fab (s : State) (p : Nat) (x : Port) : (s.putPort p x).fab = { s.fab with ports := s.fab.ports.set p x Port.down } := rfl

@[simp] theorem State.port_putPort_self (s : State) (p : Nat) (x : Port) : (s.putPort p x).port p = x := by
  simp [State.port, State.putPort]

theorem State.port_putPort_of_ne (s : State) (p p' : Nat) (x : Port) (h : p' ≠ p) :
    (s.putPort p x).port p' = s.port p' := by
  simp only [State.port, State.putPort]
  rw [SMap.get_set_of_ne _ _ _ _ _ _ h]

@[simp] theorem State.putGroup_fab (s : State) (g : Nat) (x : McGroup) : (s.putGroup g x).fab = { s.fab with groups := s.fab.groups.set g x McGroup.empty } := rfl

@[simp] theorem State.group_putGroup_self (s : State) (g : Nat) (x : McGroup) : (s.putGroup g x).group g = x := by
  simp [State.group, State.putGroup]

theorem State.group_putGroup_of_ne (s : State) (g g' : Nat) (x : McGroup) (h : g' ≠ g) :
    (s.putGroup g x).group g' = s.group g' := by
  simp only [State.group, State.putGroup]
  rw [SMap.get_set_of_ne _ _ _ _ _ _ h]

@[simp] theorem State.putThread_streams (s : State) (eng thr : Nat) (x : Thread) : (s.putThread eng thr x).streams = { s.streams with threads := s.streams.threads.set (eng * 64 + thr) x Thread.reset } := rfl

@[simp] theorem State.thread_putThread_self (s : State) (eng thr : Nat) (x : Thread) : (s.putThread eng thr x).thread eng thr = x := by
  simp [State.thread, State.putThread]

theorem State.thread_putThread_of_ne (s : State) (eng thr eng' thr' : Nat) (x : Thread) (h : eng' * 64 + thr' ≠ eng * 64 + thr) :
    (s.putThread eng thr x).thread eng' thr' = s.thread eng' thr' := by
  simp only [State.thread, State.putThread]
  rw [SMap.get_set_of_ne _ _ _ _ _ _ h]

@[simp] theorem State.putLace_streams (s : State) (eng n : Nat) (x : Lace) : (s.putLace eng n x).streams = { s.streams with laces := s.streams.laces.set (eng * 16 + n) x Lace.empty } := rfl

@[simp] theorem State.lace_putLace_self (s : State) (eng n : Nat) (x : Lace) : (s.putLace eng n x).lace eng n = x := by
  simp [State.lace, State.putLace]

theorem State.lace_putLace_of_ne (s : State) (eng n eng' n' : Nat) (x : Lace) (h : eng' * 16 + n' ≠ eng * 16 + n) :
    (s.putLace eng n x).lace eng' n' = s.lace eng' n' := by
  simp only [State.lace, State.putLace]
  rw [SMap.get_set_of_ne _ _ _ _ _ _ h]

@[simp] theorem State.putHold_arr (s : State) (d : Nat) (x : DieHold) : (s.putHold d x).arr = { s.arr with holds := s.arr.holds.set d x DieHold.none } := rfl

@[simp] theorem State.hold_putHold_self (s : State) (d : Nat) (x : DieHold) : (s.putHold d x).hold d = x := by
  simp [State.hold, State.putHold]

theorem State.hold_putHold_of_ne (s : State) (d d' : Nat) (x : DieHold) (h : d' ≠ d) :
    (s.putHold d x).hold d' = s.hold d' := by
  simp only [State.hold, State.putHold]
  rw [SMap.get_set_of_ne _ _ _ _ _ _ h]

@[simp] theorem State.putFlush_arr (s : State) (d r : Nat) (x : Flush) : (s.putFlush d r x).arr = { s.arr with flush := s.arr.flush.set (d * 41 + r) x Flush.empty } := rfl

@[simp] theorem State.flushOf_putFlush_self (s : State) (d r : Nat) (x : Flush) : (s.putFlush d r x).flushOf d r = x := by
  simp [State.flushOf, State.putFlush]

theorem State.flushOf_putFlush_of_ne (s : State) (d r d' r' : Nat) (x : Flush) (h : d' * 41 + r' ≠ d * 41 + r) :
    (s.putFlush d r x).flushOf d' r' = s.flushOf d' r' := by
  simp only [State.flushOf, State.putFlush]
  rw [SMap.get_set_of_ne _ _ _ _ _ _ h]

@[simp] theorem State.putConf_arr (s : State) (d b : Nat) (x : List AccReq) : (s.putConf d b x).arr = { s.arr with confQ := s.arr.confQ.set (d * 64 + b) x [] } := rfl

@[simp] theorem State.confOf_putConf_self (s : State) (d b : Nat) (x : List AccReq) : (s.putConf d b x).confOf d b = x := by
  simp [State.confOf, State.putConf]

theorem State.confOf_putConf_of_ne (s : State) (d b d' b' : Nat) (x : List AccReq) (h : d' * 64 + b' ≠ d * 64 + b) :
    (s.putConf d b x).confOf d' b' = s.confOf d' b' := by
  simp only [State.confOf, State.putConf]
  rw [SMap.get_set_of_ne _ _ _ _ _ _ h]

@[simp] theorem State.putMirQueue_fab (s : State) (u : Nat) (x : List MirLine) : (s.putMirQueue u x).fab = { s.fab with mirQueue := s.fab.mirQueue.set u x [] } := rfl

@[simp] theorem State.mirQueued_putMirQueue_self (s : State) (u : Nat) (x : List MirLine) : (s.putMirQueue u x).mirQueued u = x := by
  simp [State.mirQueued, State.putMirQueue]

theorem State.mirQueued_putMirQueue_of_ne (s : State) (u u' : Nat) (x : List MirLine) (h : u' ≠ u) :
    (s.putMirQueue u x).mirQueued u' = s.mirQueued u' := by
  simp only [State.mirQueued, State.putMirQueue]
  rw [SMap.get_set_of_ne _ _ _ _ _ _ h]

@[simp] theorem State.putBuf_net (s : State) (k : Nat) (x : List Xfer) : (s.putBuf k x).net = { s.net with bufs := s.net.bufs.set k x [] } := rfl

@[simp] theorem State.buf_putBuf_self (s : State) (k : Nat) (x : List Xfer) : (s.putBuf k x).buf k = x := by
  simp [State.buf, State.putBuf]

theorem State.buf_putBuf_of_ne (s : State) (k k' : Nat) (x : List Xfer) (h : k' ≠ k) :
    (s.putBuf k x).buf k' = s.buf k' := by
  simp only [State.buf, State.putBuf]
  rw [SMap.get_set_of_ne _ _ _ _ _ _ h]

@[simp] theorem State.count_putCount_self (s : State) (k v : Nat) : (s.putCount k v).count k = v % 2 ^ 64 := by
  simp [State.count, State.putCount]

theorem State.count_putCount_of_ne (s : State) (k k' v : Nat) (h : k' ≠ k) : (s.putCount k v).count k' = s.count k' := by
  simp only [State.count, State.putCount]
  rw [SMap.get_set_of_ne _ _ _ _ _ _ h]

@[simp] theorem State.count_addCount_self (s : State) (k v : Nat) : (s.addCount k v).count k = (s.count k + v) % 2 ^ 64 := by
  simp [State.count, State.addCount, State.putCount]

theorem State.count_addCount_of_ne (s : State) (k k' v : Nat) (h : k' ≠ k) : (s.addCount k v).count k' = s.count k' := by
  simp only [State.count, State.addCount, State.putCount]
  rw [SMap.get_set_of_ne _ _ _ _ _ _ h]

theorem State.addCount_hub (s : State) (k v : Nat) :
    (s.addCount k v).hub = { s.hub with sync := (s.addCount k v).hub.sync, added := (s.addCount k v).hub.added } := rfl

@[simp] theorem State.addCount_rings (s : State) (k v : Nat) : (s.addCount k v).hub.rings = s.hub.rings := rfl

/-! ## Parts kept whole -/

@[simp] theorem State.putOps_ops (s : State) (l : List OpCtx) : (s.putOps l).arr.ops = l := rfl
@[simp] theorem State.putPower_power (s : State) (x : PowerState) : (s.putPower x).isl.power = x := rfl
@[simp] theorem State.putTrust_trust (s : State) (x : Trust) : (s.putTrust x).isl.trust = x := rfl
@[simp] theorem State.putFlash_flash (s : State) (x : Flash) : (s.putFlash x).isl.flash = x := rfl
@[simp] theorem State.putWear_wear (s : State) (x : Wear) : (s.putWear x).isl.wear = x := rfl
@[simp] theorem State.putSide_side (s : State) (x : Sideband) : (s.putSide x).isl.side = x := rfl
@[simp] theorem State.putFmp_fmp (s : State) (x : FmpState) : (s.putFmp x).isl.fmp = x := rfl
@[simp] theorem State.putEp_ep (s : State) (x : Endpoint) : (s.putEp x).hub.ep = x := rfl

/-! ## Operations -/

theorem State.onOp_ops (s : State) (i : Nat) (f : OpCtx → OpCtx) (h : i < s.arr.ops.length) :
    (s.onOp i f).arr.ops = s.arr.ops.set i (f (s.op i)) := by
  simp [State.onOp, State.op, State.putOps, h]

/-- The operation changed reads as changed. -/
theorem State.op_onOp_self (s : State) (i : Nat) (f : OpCtx → OpCtx) (h : i < s.arr.ops.length) : (s.onOp i f).op i = f (s.op i) := by
  simp [State.onOp, State.op, State.putOps, h]

/-- The others read as before. -/
theorem State.op_onOp_of_ne (s : State) (i j : Nat) (f : OpCtx → OpCtx) (h : j ≠ i) : (s.onOp i f).op j = s.op j := by
  unfold State.onOp
  split
  · simp [State.op, State.putOps, List.getElem?_set, Ne.symm h]
  · rfl

end Sys2Proof.Machine
end

