-- ==== Sys2Proof/Laws/Objects.lean ====
section
/-!
SUPPORT. Which objects a write to memory, a record on a ring and an event move: `sideObject` and no other.
-/

namespace Sys2Proof.Machine

theorem foldl_frame_mem {α β : Type} (P : State → β) (g : State → α → State) :
    ∀ (l : List α), (∀ s a, a ∈ l → P (g s a) = P s) → ∀ s : State, P (l.foldl g s) = P s
  | [], _, _ => rfl
  | a :: l, h, s =>
    (foldl_frame_mem P g l (fun s b m => h s b (List.mem_cons_of_mem a m)) (g s a)).trans (h s a List.mem_cons_self)

/-- The objects that are no side objects, spelled out. -/
theorem sideObject_false (n : Nat) (h : sideObject n = false) :
    (n ≠ 0x716003 ∧ n ≠ 0x716004 ∧ n ≠ 0x716007 ∧ n ≠ 0x716008 ∧ n ≠ 0x71600D ∧ n ≠ 0x71600E ∧ n ≠ 0x716011 ∧ n ≠ 0x717002 ∧
      n ≠ 0x717006 ∧ n ≠ 0x717008 ∧ n ≠ 0x717009 ∧ n ≠ 0x71700F ∧ n ≠ 0x71900D ∧ n ≠ 0x71900E ∧ n ≠ 0x71A006 ∧ n ≠ 0x71B008 ∧ n ≠ 0x71B009 ∧ n ≠ 0x71B00A ∧ n ≠ 0x7F0007 ∧
      n ≠ 0x7E0002 ∧ n ≠ 0x102004 ∧ n ≠ 0x510006) ∧ ∀ r, r < 16 → n ≠ (0x5600 + r) * 256 + 4 := by
  simp only [sideObject, Bool.or_eq_false_iff, List.contains_eq_mem, decide_eq_false_iff_not, List.mem_cons, not_or,
    List.not_mem_nil, not_false_eq_true, and_true] at h
  refine ⟨h.1, fun r hr e => ?_⟩
  have := h.2
  simp only [Bool.and_eq_false_iff, decide_eq_false_iff_not] at this
  omega

/-- An object read through a change of another part of the state. -/
theorem State.get_of_obj (s t : State) (h : t.obj = s.obj) (n : Nat) : t.get n = s.get n := by simp [State.get, h]

@[simp] theorem State.get_with (s : State) (cycle subTick : Nat) (copy : SMap U64) (blob : SMap (List Byte)) (mem : MemState)
    (arr : ArrayState) (streams : StreamState) (hub : HubState) (net : NetState) (fab : FabState) (isl : Island) (free : Nat)
    (pending : List Instr) (j : Nat) :
    (State.mk cycle subTick s.obj copy blob mem arr streams hub net fab isl free pending).get j = s.get j := rfl


@[simp] theorem State.putBlob_get (s : State) (n : ℕ) (v : List Byte) (j : Nat) :
    (State.putBlob s n v).get j = s.get j := State.get_of_obj _ _ (by simp) j

@[simp] theorem State.draw_get (s : State) (j : Nat) :
    (State.draw s).2.get j = s.get j := State.get_of_obj _ _ (by simp) j

@[simp] theorem State.putDiff_get (s : State) (line : ℕ) (d : List Byte) (j : Nat) :
    (State.putDiff s line d).get j = s.get j := State.get_of_obj _ _ (by simp) j

@[simp] theorem State.putTag_get (s : State) (line : ℕ) (t : U16) (j : Nat) :
    (State.putTag s line t).get j = s.get j := State.get_of_obj _ _ (by simp) j

@[simp] theorem State.putFlag_get (s : State) (line : ℕ) (p : Bool) (j : Nat) :
    (State.putFlag s line p).get j = s.get j := State.get_of_obj _ _ (by simp) j

@[simp] theorem State.putBytes_get (s : State) (a : ℕ) (en : List Bool) (data : List Byte) (j : Nat) :
    (State.putBytes s a en data).get j = s.get j := State.get_of_obj _ _ (by simp) j

@[simp] theorem State.dropWritebacks_get (s : State) (line : ℕ) (j : Nat) (hs : sideObject j = false) :
    (State.dropWritebacks s line).get j = s.get j := by
  obtain ⟨⟨h1, h2, h3, h4, h5, h6, h7, h8, h9, h10, h11, h12, h13, h14, h15, h16, h17, h18, h19, h20, h21, h22⟩, hr⟩ := sideObject_false j hs
  unfold State.dropWritebacks
  repeat' (first
    | with_reducible rfl | (simp [*]; done) | split | (intro _)
    | (with_reducible refine (foldl_frame (fun u : State => u.get j) _ ?_ _ _).trans ?_)
    | (with_reducible refine (foldl_frame_fst (fun u : State => u.get j) _ ?_ _ _).trans ?_)
    | (with_reducible refine (foldl_frame_snd (fun u : State => u.get j) _ ?_ _ _).trans ?_)
    | (with_reducible refine (foldl_frame_mid (fun u : State => u.get j) _ ?_ _ _).trans ?_)
    | (with_reducible refine (foldl_frame_last2 (fun u : State => u.get j) _ ?_ _ _).trans ?_)
    | (with_reducible refine (foldl_frame_last3 (fun u : State => u.get j) _ ?_ _ _).trans ?_) | simp [*])

@[simp] theorem State.putMirQueue_get (s : State) (u : ℕ) (l : List MirLine) (j : Nat) :
    (State.putMirQueue s u l).get j = s.get j := State.get_of_obj _ _ (by simp) j

theorem State.diverge_get (s : State) (r : Nat) (j : Nat) (hr0 : r < 16) (hs : sideObject j = false) : (s.diverge r).get j = s.get j := by
  have hf := sideObject_false j hs
  have := hf.2 r hr0
  simp [State.diverge, hf.1, this]

@[simp] theorem State.capture_get (s : State) (a : ℕ) (poison : Bool) (j : Nat) (hs : sideObject j = false) :
    (State.capture s a poison).get j = s.get j := by
  have hf := sideObject_false j hs
  unfold State.capture
  refine (foldl_frame_mem (fun u : State => u.get j) _ _ ?_ _)
  intro u r m
  have hr : r < 16 := by
    unfold State.mirrors at m
    split at m
    · simp at m
    · simp only [List.mem_filter, List.mem_range] at m; exact m.1
  dsimp only
  split
  · exact State.diverge_get u r j hr hs
  · simp [hf.1]

@[simp] theorem State.countBeats_get (s : State) (beats : ℕ) (links : ℕ) (transfers : ℕ) (vcB : Bool) (j : Nat) (e0 : j ≠ 0x718001) (e1 : j ≠ 0x718006) :
    (State.countBeats s beats links transfers vcB).get j = s.get j := by
  unfold State.countBeats; (repeat' split) <;> simp [*]

@[simp] theorem State.countMerge_get (s : State) (r : LineRead) (j : Nat) (hs : sideObject j = false) :
    (State.countMerge s r).get j = s.get j := by
  obtain ⟨⟨h1, h2, h3, h4, h5, h6, h7, h8, h9, h10, h11, h12, h13, h14, h15, h16, h17, h18, h19, h20, h21, h22⟩, hr⟩ := sideObject_false j hs
  unfold State.countMerge; (repeat' split) <;> simp [*]

@[simp] theorem State.writeLine_get (s : State) (a : ℕ) (en : List Bool) (data : List Byte) (poison : Bool) (j : Nat) (hs : sideObject j = false) :
    (State.writeLine s a en data poison).get j = s.get j := by
  obtain ⟨⟨h1, h2, h3, h4, h5, h6, h7, h8, h9, h10, h11, h12, h13, h14, h15, h16, h17, h18, h19, h20, h21, h22⟩, hr⟩ := sideObject_false j hs
  unfold State.writeLine; (repeat' split) <;> simp [*]

@[simp] theorem State.countUnmappedRead_get (s : State) (j : Nat) (hs : sideObject j = false) (e0 : j ≠ 0x717001) :
    (State.countUnmappedRead s).get j = s.get j := by
  obtain ⟨⟨h1, h2, h3, h4, h5, h6, h7, h8, h9, h10, h11, h12, h13, h14, h15, h16, h17, h18, h19, h20, h21, h22⟩, hr⟩ := sideObject_false j hs
  simp [State.countUnmappedRead, *]

@[simp] theorem State.countUnmappedWrite_get (s : State) (j : Nat) (hs : sideObject j = false) :
    (State.countUnmappedWrite s).get j = s.get j := by
  obtain ⟨⟨h1, h2, h3, h4, h5, h6, h7, h8, h9, h10, h11, h12, h13, h14, h15, h16, h17, h18, h19, h20, h21, h22⟩, hr⟩ := sideObject_false j hs
  simp [State.countUnmappedWrite, *]

@[simp] theorem State.countLine_get (s : State) (r : LineRead) (j : Nat) (hs : sideObject j = false) (e0 : j ≠ 0x717001) :
    (State.countLine s r).get j = s.get j := by
  obtain ⟨⟨h1, h2, h3, h4, h5, h6, h7, h8, h9, h10, h11, h12, h13, h14, h15, h16, h17, h18, h19, h20, h21, h22⟩, hr⟩ := sideObject_false j hs
  unfold State.countLine; (repeat' split) <;> simp [*]

@[simp] theorem State.readPhys_get (s : State) (a : ℕ) (n : ℕ) (j : Nat) (hs : sideObject j = false) (e0 : j ≠ 0x717001) :
    (State.readPhys s a n).2.2.2.get j = s.get j := by
  obtain ⟨⟨h1, h2, h3, h4, h5, h6, h7, h8, h9, h10, h11, h12, h13, h14, h15, h16, h17, h18, h19, h20, h21, h22⟩, hr⟩ := sideObject_false j hs
  unfold State.readPhys
  repeat' (first
    | with_reducible rfl | (simp [*]; done) | split | (intro _)
    | (with_reducible refine (foldl_frame (fun u : State => u.get j) _ ?_ _ _).trans ?_)
    | (with_reducible refine (foldl_frame_fst (fun u : State => u.get j) _ ?_ _ _).trans ?_)
    | (with_reducible refine (foldl_frame_snd (fun u : State => u.get j) _ ?_ _ _).trans ?_)
    | (with_reducible refine (foldl_frame_mid (fun u : State => u.get j) _ ?_ _ _).trans ?_)
    | (with_reducible refine (foldl_frame_last2 (fun u : State => u.get j) _ ?_ _ _).trans ?_)
    | (with_reducible refine (foldl_frame_last3 (fun u : State => u.get j) _ ?_ _ _).trans ?_))

@[simp] theorem State.writePhys_get (s : State) (a : ℕ) (data : List Byte) (poison : Bool) (j : Nat) (hs : sideObject j = false) :
    (State.writePhys s a data poison).2.get j = s.get j := by
  obtain ⟨⟨h1, h2, h3, h4, h5, h6, h7, h8, h9, h10, h11, h12, h13, h14, h15, h16, h17, h18, h19, h20, h21, h22⟩, hr⟩ := sideObject_false j hs
  unfold State.writePhys
  repeat' (first
    | with_reducible rfl | (simp [*]; done) | split | (intro _)
    | (with_reducible refine (foldl_frame (fun u : State => u.get j) _ ?_ _ _).trans ?_)
    | (with_reducible refine (foldl_frame_fst (fun u : State => u.get j) _ ?_ _ _).trans ?_)
    | (with_reducible refine (foldl_frame_snd (fun u : State => u.get j) _ ?_ _ _).trans ?_)
    | (with_reducible refine (foldl_frame_mid (fun u : State => u.get j) _ ?_ _ _).trans ?_)
    | (with_reducible refine (foldl_frame_last2 (fun u : State => u.get j) _ ?_ _ _).trans ?_)
    | (with_reducible refine (foldl_frame_last3 (fun u : State => u.get j) _ ?_ _ _).trans ?_) | simp [*])

@[simp] theorem State.taskWriteLine_get (s : State) (w : Window) (die : ℕ) (a : ℕ) (en : List Bool) (data : List Byte) (poison : Bool) (c : Counts) (j : Nat) (hs : sideObject j = false) :
    (State.taskWriteLine s w die a en data poison c).1.get j = s.get j := by
  obtain ⟨⟨h1, h2, h3, h4, h5, h6, h7, h8, h9, h10, h11, h12, h13, h14, h15, h16, h17, h18, h19, h20, h21, h22⟩, hr⟩ := sideObject_false j hs
  unfold State.taskWriteLine
  repeat' (first
    | with_reducible rfl | (simp [*]; done) | split | (intro _)
    | (with_reducible refine (foldl_frame (fun u : State => u.get j) _ ?_ _ _).trans ?_)
    | (with_reducible refine (foldl_frame_fst (fun u : State => u.get j) _ ?_ _ _).trans ?_)
    | (with_reducible refine (foldl_frame_snd (fun u : State => u.get j) _ ?_ _ _).trans ?_)
    | (with_reducible refine (foldl_frame_mid (fun u : State => u.get j) _ ?_ _ _).trans ?_)
    | (with_reducible refine (foldl_frame_last2 (fun u : State => u.get j) _ ?_ _ _).trans ?_)
    | (with_reducible refine (foldl_frame_last3 (fun u : State => u.get j) _ ?_ _ _).trans ?_) | simp [*])

@[simp] theorem State.taskWrite_get (s : State) (w : Window) (die : ℕ) (a : ℕ) (data : List Byte) (poison : Bool) (c : Counts) (j : Nat) (hs : sideObject j = false) :
    (State.taskWrite s w die a data poison c).1.get j = s.get j := by
  obtain ⟨⟨h1, h2, h3, h4, h5, h6, h7, h8, h9, h10, h11, h12, h13, h14, h15, h16, h17, h18, h19, h20, h21, h22⟩, hr⟩ := sideObject_false j hs
  unfold State.taskWrite
  repeat' (first
    | with_reducible rfl | (simp [*]; done) | split | (intro _)
    | (with_reducible refine (foldl_frame (fun u : State => u.get j) _ ?_ _ _).trans ?_)
    | (with_reducible refine (foldl_frame_fst (fun u : State => u.get j) _ ?_ _ _).trans ?_))

@[simp] theorem State.wake_get (s : State) (acc : Access) (j : Nat) :
    (State.wake s acc).get j = s.get j := State.get_of_obj _ _ (by simp) j

@[simp] theorem State.putVector_get (s : State) (v : ℕ) (e : Vector) (j : Nat) :
    (State.putVector s v e).get j = s.get j := State.get_of_obj _ _ (by simp) j

@[simp] theorem State.wakeHost_get (s : State) (e : Vector) (j : Nat) :
    (State.wakeHost s e).get j = s.get j := State.get_of_obj _ _ (by simp) j

@[simp] theorem State.raiseVector_get (s : State) (v : ℕ) (j : Nat) (hs : sideObject j = false) :
    (State.raiseVector s v).get j = s.get j := by
  obtain ⟨⟨h1, h2, h3, h4, h5, h6, h7, h8, h9, h10, h11, h12, h13, h14, h15, h16, h17, h18, h19, h20, h21, h22⟩, hr⟩ := sideObject_false j hs
  unfold State.raiseVector; (repeat' split) <;> simp [*]

@[simp] theorem State.putCount_get (s : State) (k : ℕ) (v : ℕ) (j : Nat) :
    (State.putCount s k v).get j = s.get j := State.get_of_obj _ _ (by simp) j

@[simp] theorem State.addCount_get (s : State) (k : ℕ) (v : ℕ) (j : Nat) :
    (State.addCount s k v).get j = s.get j := State.get_of_obj _ _ (by simp) j

@[simp] theorem State.syncAdd_get (s : State) (k : ℕ) (v : ℕ) (j : Nat) (hs : sideObject j = false) :
    (State.syncAdd s k v).get j = s.get j := by
  obtain ⟨⟨h1, h2, h3, h4, h5, h6, h7, h8, h9, h10, h11, h12, h13, h14, h15, h16, h17, h18, h19, h20, h21, h22⟩, hr⟩ := sideObject_false j hs
  unfold State.syncAdd; split <;> simp [*]

@[simp] theorem State.syncSignal_get (s : State) (fld : ℕ) (j : Nat) (hs : sideObject j = false) :
    (State.syncSignal s fld).get j = s.get j := by
  unfold State.syncSignal; split <;> simp [*]

@[simp] theorem State.putRing_get (s : State) (n : ℕ) (r : Ring) (j : Nat) :
    (State.putRing s n r).get j = s.get j := State.get_of_obj _ _ (by simp) j

@[simp] theorem State.ringAdvance_get (s : State) (n : ℕ) (j : Nat) (hs : sideObject j = false) :
    (State.ringAdvance s n).get j = s.get j := by
  obtain ⟨⟨h1, h2, h3, h4, h5, h6, h7, h8, h9, h10, h11, h12, h13, h14, h15, h16, h17, h18, h19, h20, h21, h22⟩, hr⟩ := sideObject_false j hs
  unfold State.ringAdvance
  repeat' (first
    | with_reducible rfl | (simp [*]; done) | split | (intro _)
    | (with_reducible refine (foldl_frame (fun u : State => u.get j) _ ?_ _ _).trans ?_)
    | (with_reducible refine (foldl_frame_fst (fun u : State => u.get j) _ ?_ _ _).trans ?_)
    | (with_reducible refine (foldl_frame_snd (fun u : State => u.get j) _ ?_ _ _).trans ?_)
    | (with_reducible refine (foldl_frame_mid (fun u : State => u.get j) _ ?_ _ _).trans ?_)
    | (with_reducible refine (foldl_frame_last2 (fun u : State => u.get j) _ ?_ _ _).trans ?_)
    | (with_reducible refine (foldl_frame_last3 (fun u : State => u.get j) _ ?_ _ _).trans ?_) | simp [*])

@[simp] theorem State.ringStore_get (s : State) (n : ℕ) (entry : List Byte) (j : Nat) (hs : sideObject j = false) :
    (State.ringStore s n entry).get j = s.get j := by
  simp [State.ringStore, *]

@[simp] theorem State.ringDrop_get (s : State) (n : ℕ) (j : Nat) (hs : sideObject j = false) :
    (State.ringDrop s n).get j = s.get j := by
  obtain ⟨⟨h1, h2, h3, h4, h5, h6, h7, h8, h9, h10, h11, h12, h13, h14, h15, h16, h17, h18, h19, h20, h21, h22⟩, hr⟩ := sideObject_false j hs
  simp [State.ringDrop, *]

@[simp] theorem State.logWrite_get (s : State) (evt : List Byte) (j : Nat) (hs : sideObject j = false) :
    (State.logWrite s evt).get j = s.get j := by
  obtain ⟨⟨h1, h2, h3, h4, h5, h6, h7, h8, h9, h10, h11, h12, h13, h14, h15, h16, h17, h18, h19, h20, h21, h22⟩, hr⟩ := sideObject_false j hs
  simp [State.logWrite, *]

@[simp] theorem State.eventPut_get (s : State) (evt : List Byte) (j : Nat) (hs : sideObject j = false) :
    (State.eventPut s evt).get j = s.get j := by
  obtain ⟨⟨h1, h2, h3, h4, h5, h6, h7, h8, h9, h10, h11, h12, h13, h14, h15, h16, h17, h18, h19, h20, h21, h22⟩, hr⟩ := sideObject_false j hs
  unfold State.eventPut
  repeat' (first
    | with_reducible rfl | (simp [*]; done) | split | (intro _)
    | (with_reducible refine (foldl_frame (fun u : State => u.get j) _ ?_ _ _).trans ?_)
    | (with_reducible refine (foldl_frame_fst (fun u : State => u.get j) _ ?_ _ _).trans ?_)
    | (with_reducible refine (foldl_frame_snd (fun u : State => u.get j) _ ?_ _ _).trans ?_)
    | (with_reducible refine (foldl_frame_mid (fun u : State => u.get j) _ ?_ _ _).trans ?_)
    | (with_reducible refine (foldl_frame_last2 (fun u : State => u.get j) _ ?_ _ _).trans ?_)
    | (with_reducible refine (foldl_frame_last3 (fun u : State => u.get j) _ ?_ _ _).trans ?_) | simp [*])

@[simp] theorem State.sendUdp_get (s : State) (dst : Source) (bytes : List Byte) (j : Nat) :
    (State.sendUdp s dst bytes).get j = s.get j := State.get_of_obj _ _ (by simp) j

@[simp] theorem State.eventOut_get (s : State) (evt : List Byte) (j : Nat) (hs : sideObject j = false) :
    (State.eventOut s evt).get j = s.get j := by
  obtain ⟨⟨h1, h2, h3, h4, h5, h6, h7, h8, h9, h10, h11, h12, h13, h14, h15, h16, h17, h18, h19, h20, h21, h22⟩, hr⟩ := sideObject_false j hs
  simp [State.eventOut, *]

@[simp] theorem State.eventSend_get (s : State) (cls : ℕ) (evt : List Byte) (j : Nat) (hs : sideObject j = false) :
    (State.eventSend s cls evt).get j = s.get j := by
  unfold State.eventSend; (repeat' split) <;> simp [*]

@[simp] theorem State.eventEmit_get (s : State) (cls : ℕ) (code : ℕ) (unit : ℕ) (sub : ℕ) (merged : ℕ) (tick : ℕ) (data : List Byte) (j : Nat) (hs : sideObject j = false) :
    (State.eventEmit s cls code unit sub merged tick data).get j = s.get j := by
  obtain ⟨⟨h1, h2, h3, h4, h5, h6, h7, h8, h9, h10, h11, h12, h13, h14, h15, h16, h17, h18, h19, h20, h21, h22⟩, hr⟩ := sideObject_false j hs
  unfold State.eventEmit
  repeat' (first
    | with_reducible rfl | (simp [*]; done) | split | (intro _)
    | (with_reducible refine (foldl_frame (fun u : State => u.get j) _ ?_ _ _).trans ?_)
    | (with_reducible refine (foldl_frame_fst (fun u : State => u.get j) _ ?_ _ _).trans ?_)
    | (with_reducible refine (foldl_frame_snd (fun u : State => u.get j) _ ?_ _ _).trans ?_)
    | (with_reducible refine (foldl_frame_mid (fun u : State => u.get j) _ ?_ _ _).trans ?_)
    | (with_reducible refine (foldl_frame_last2 (fun u : State => u.get j) _ ?_ _ _).trans ?_)
    | (with_reducible refine (foldl_frame_last3 (fun u : State => u.get j) _ ?_ _ _).trans ?_) | simp [*])

@[simp] theorem State.recordWrite_get (s : State) (n : ℕ) (h : RecordHead) (c : Counts) (sync : ℕ) (j : Nat) (hs : sideObject j = false) :
    (State.recordWrite s n h c sync).get j = s.get j := by
  obtain ⟨⟨h1, h2, h3, h4, h5, h6, h7, h8, h9, h10, h11, h12, h13, h14, h15, h16, h17, h18, h19, h20, h21, h22⟩, hr⟩ := sideObject_false j hs
  unfold State.recordWrite
  repeat' (first
    | with_reducible rfl | (simp [*]; done) | split | (intro _)
    | (with_reducible refine (foldl_frame (fun u : State => u.get j) _ ?_ _ _).trans ?_)
    | (with_reducible refine (foldl_frame_fst (fun u : State => u.get j) _ ?_ _ _).trans ?_)
    | (with_reducible refine (foldl_frame_snd (fun u : State => u.get j) _ ?_ _ _).trans ?_)
    | (with_reducible refine (foldl_frame_mid (fun u : State => u.get j) _ ?_ _ _).trans ?_)
    | (with_reducible refine (foldl_frame_last2 (fun u : State => u.get j) _ ?_ _ _).trans ?_)
    | (with_reducible refine (foldl_frame_last3 (fun u : State => u.get j) _ ?_ _ _).trans ?_) | simp [*])

@[simp] theorem State.flushHeldFuel_get (x0 : ℕ) (x1 : State) (x2 : ℕ) (j : Nat) (hs : sideObject j = false) :
    (State.flushHeldFuel x0 x1 x2).get j = x1.get j := by
  induction x0 generalizing x1 x2 with
  | zero => rfl
  | succ k ih =>
    unfold State.flushHeldFuel
    split
    · split <;> simp
    · split
      · rfl
      · simp [ih, hs]

@[simp] theorem State.flushHeld_get (s : State) (n : ℕ) (j : Nat) (hs : sideObject j = false) :
    (State.flushHeld s n).get j = s.get j := by
  simp [State.flushHeld, *]

@[simp] theorem State.ringReset_get (s : State) (n : ℕ) (j : Nat) (hs : sideObject j = false) :
    (State.ringReset s n).get j = s.get j := by
  obtain ⟨⟨h1, h2, h3, h4, h5, h6, h7, h8, h9, h10, h11, h12, h13, h14, h15, h16, h17, h18, h19, h20, h21, h22⟩, hr⟩ := sideObject_false j hs
  unfold State.ringReset
  repeat' (first
    | with_reducible rfl | (simp [*]; done) | split | (intro _)
    | (with_reducible refine (foldl_frame (fun u : State => u.get j) _ ?_ _ _).trans ?_)
    | (with_reducible refine (foldl_frame_fst (fun u : State => u.get j) _ ?_ _ _).trans ?_)
    | (with_reducible refine (foldl_frame_snd (fun u : State => u.get j) _ ?_ _ _).trans ?_)
    | (with_reducible refine (foldl_frame_mid (fun u : State => u.get j) _ ?_ _ _).trans ?_)
    | (with_reducible refine (foldl_frame_last2 (fun u : State => u.get j) _ ?_ _ _).trans ?_)
    | (with_reducible refine (foldl_frame_last3 (fun u : State => u.get j) _ ?_ _ _).trans ?_) | simp [*])

@[simp] theorem State.ringCheck_get (s : State) (n : ℕ) (j : Nat) (hs : sideObject j = false) :
    (State.ringCheck s n).get j = s.get j := by
  unfold State.ringCheck; split <;> simp [*]

@[simp] theorem State.event_get (s : State) (cls : ℕ) (code : ℕ) (unit : ℕ) (sub : ℕ) (data : List Byte) (j : Nat) (hs : sideObject j = false) :
    (State.event s cls code unit sub data).get j = s.get j := by
  obtain ⟨⟨h1, h2, h3, h4, h5, h6, h7, h8, h9, h10, h11, h12, h13, h14, h15, h16, h17, h18, h19, h20, h21, h22⟩, hr⟩ := sideObject_false j hs
  unfold State.event
  repeat' (first
    | with_reducible rfl | (simp [*]; done) | split | (intro _)
    | (with_reducible refine (foldl_frame (fun u : State => u.get j) _ ?_ _ _).trans ?_)
    | (with_reducible refine (foldl_frame_fst (fun u : State => u.get j) _ ?_ _ _).trans ?_)
    | (with_reducible refine (foldl_frame_snd (fun u : State => u.get j) _ ?_ _ _).trans ?_)
    | (with_reducible refine (foldl_frame_mid (fun u : State => u.get j) _ ?_ _ _).trans ?_)
    | (with_reducible refine (foldl_frame_last2 (fun u : State => u.get j) _ ?_ _ _).trans ?_)
    | (with_reducible refine (foldl_frame_last3 (fun u : State => u.get j) _ ?_ _ _).trans ?_) | simp [*])

@[simp] theorem State.settle_get (s : State) (j : Nat) (hs : sideObject j = false) :
    (State.settle s).get j = s.get j := by
  obtain ⟨⟨h1, h2, h3, h4, h5, h6, h7, h8, h9, h10, h11, h12, h13, h14, h15, h16, h17, h18, h19, h20, h21, h22⟩, hr⟩ := sideObject_false j hs
  unfold State.settle
  repeat' (first
    | with_reducible rfl | (simp [*]; done) | split | (intro _)
    | (with_reducible refine (foldl_frame (fun u : State => u.get j) _ ?_ _ _).trans ?_))

@[simp] theorem State.parityError_get (s : State) (die : ℕ) (sub : ℕ) (addr : ℕ) (j : Nat) (hs : sideObject j = false) (e0 : j ≠ 0x718008) (e1 : j ≠ 0x71B001) :
    (State.parityError s die sub addr).get j = s.get j := by
  unfold State.parityError; split <;> simp [*]

@[simp] theorem State.controlReset_get (s : State) (die : ℕ) (sub : ℕ) (entry : ℕ) (j : Nat) (hs : sideObject j = false) (e0 : j ≠ 0x71B002) :
    (State.controlReset s die sub entry).get j = s.get j := by
  simp [State.controlReset, *]

@[simp] theorem State.complete_get (s0 : State) (h : RecordHead) (c : Counts) (cring : ℕ) (sync : ℕ) (j : Nat) (hs : sideObject j = false) :
    (State.complete s0 h c cring sync).get j = s0.get j := by
  obtain ⟨⟨h1, h2, h3, h4, h5, h6, h7, h8, h9, h10, h11, h12, h13, h14, h15, h16, h17, h18, h19, h20, h21, h22⟩, hr⟩ := sideObject_false j hs
  unfold State.complete
  repeat' (first
    | with_reducible rfl | (simp [*]; done) | split | (intro _)
    | (with_reducible refine (foldl_frame (fun u : State => u.get j) _ ?_ _ _).trans ?_)
    | (with_reducible refine (foldl_frame_fst (fun u : State => u.get j) _ ?_ _ _).trans ?_)
    | (with_reducible refine (foldl_frame_snd (fun u : State => u.get j) _ ?_ _ _).trans ?_)
    | (with_reducible refine (foldl_frame_mid (fun u : State => u.get j) _ ?_ _ _).trans ?_)
    | (with_reducible refine (foldl_frame_last2 (fun u : State => u.get j) _ ?_ _ _).trans ?_)
    | (with_reducible refine (foldl_frame_last3 (fun u : State => u.get j) _ ?_ _ _).trans ?_) | simp [*])

@[simp] theorem State.setReady_get (s : State) (changes : List (ℕ × Bool)) (j : Nat) (hs : sideObject j = false) (e0 : j ≠ 0x201001) :
    (State.setReady s changes).get j = s.get j := by
  obtain ⟨⟨h1, h2, h3, h4, h5, h6, h7, h8, h9, h10, h11, h12, h13, h14, h15, h16, h17, h18, h19, h20, h21, h22⟩, hr⟩ := sideObject_false j hs
  unfold State.setReady
  repeat' (first
    | with_reducible rfl | (simp [*]; done) | split | (intro _)
    | (with_reducible refine (foldl_frame (fun u : State => u.get j) _ ?_ _ _).trans ?_)
    | (with_reducible refine (foldl_frame_fst (fun u : State => u.get j) _ ?_ _ _).trans ?_)
    | (with_reducible refine (foldl_frame_snd (fun u : State => u.get j) _ ?_ _ _).trans ?_)
    | (with_reducible refine (foldl_frame_mid (fun u : State => u.get j) _ ?_ _ _).trans ?_)
    | (with_reducible refine (foldl_frame_last2 (fun u : State => u.get j) _ ?_ _ _).trans ?_)
    | (with_reducible refine (foldl_frame_last3 (fun u : State => u.get j) _ ?_ _ _).trans ?_) | simp [*])

@[simp] theorem State.applyWrite_get (s : State) (w : Window) (c : Counts) (o : OutWrite) (j : Nat) (hs : sideObject j = false) :
    (State.applyWrite s w c o).1.get j = s.get j := by
  obtain ⟨⟨h1, h2, h3, h4, h5, h6, h7, h8, h9, h10, h11, h12, h13, h14, h15, h16, h17, h18, h19, h20, h21, h22⟩, hr⟩ := sideObject_false j hs
  unfold State.applyWrite
  repeat' (first
    | with_reducible rfl | (simp [*]; done) | split | (intro _)
    | (with_reducible refine (foldl_frame (fun u : State => u.get j) _ ?_ _ _).trans ?_)
    | (with_reducible refine (foldl_frame_fst (fun u : State => u.get j) _ ?_ _ _).trans ?_))

@[simp] theorem State.putOps_get (s : State) (l : List OpCtx) (j : Nat) :
    (State.putOps s l).get j = s.get j := State.get_of_obj _ _ (by simp) j

@[simp] theorem State.onOp_get (s : State) (i : ℕ) (f : OpCtx → OpCtx) (j : Nat) :
    (State.onOp s i f).get j = s.get j := State.get_of_obj _ _ (by simp) j

@[simp] theorem State.opCount_get (s : State) (i : ℕ) (f : Counts → Counts) (j : Nat) :
    (State.opCount s i f).get j = s.get j := State.get_of_obj _ _ (by simp) j

@[simp] theorem State.putHold_get (s : State) (d : ℕ) (h : DieHold) (j : Nat) :
    (State.putHold s d h).get j = s.get j := State.get_of_obj _ _ (by simp) j

@[simp] theorem State.eccHold_get (s : State) (d : ℕ) (j : Nat) (e0 : j ≠ 0x715004) :
    (State.eccHold s d).get j = s.get j := by
  simp [State.eccHold, *]

@[simp] theorem State.supplyHold_get (s : State) (d : ℕ) (j : Nat) (e0 : j ≠ 0x715006) :
    (State.supplyHold s d).get j = s.get j := by
  unfold State.supplyHold; split <;> simp [*]

@[simp] theorem State.controlPoison_get (s : State) (unit : ℕ) (sub : ℕ) (addr : ℕ) (tag : ℕ) (j : Nat) (hs : sideObject j = false) (e0 : j ≠ 0x71B005) :
    (State.controlPoison s unit sub addr tag).get j = s.get j := by
  simp [State.controlPoison, *]

@[simp] theorem State.countWords_get (s : State) (corrected : ℕ) (bad : Bool) (j : Nat) (e0 : j ≠ 0x716009) (e1 : j ≠ 0x71600A) :
    (State.countWords s corrected bad).get j = s.get j := by
  unfold State.countWords; (repeat' split) <;> simp [*]

@[simp] theorem State.accApply_get (s : State) (i : ℕ) (d : ℕ) (req : AccReq) (errs : List WordErr) (j : Nat) (hs : sideObject j = false) (e0 : j ≠ 0x713001) (e1 : j ≠ 0x713009) (e2 : j ≠ 0x716009) (e3 : j ≠ 0x71600A) :
    (State.accApply s i d req errs).get j = s.get j := by
  obtain ⟨⟨h1, h2, h3, h4, h5, h6, h7, h8, h9, h10, h11, h12, h13, h14, h15, h16, h17, h18, h19, h20, h21, h22⟩, hr⟩ := sideObject_false j hs
  unfold State.accApply
  repeat' (first
    | with_reducible rfl | (simp [*]; done) | split | (intro _)
    | (with_reducible refine (foldl_frame (fun u : State => u.get j) _ ?_ _ _).trans ?_)
    | (with_reducible refine (foldl_frame_fst (fun u : State => u.get j) _ ?_ _ _).trans ?_)
    | (with_reducible refine (foldl_frame_snd (fun u : State => u.get j) _ ?_ _ _).trans ?_)
    | (with_reducible refine (foldl_frame_mid (fun u : State => u.get j) _ ?_ _ _).trans ?_)
    | (with_reducible refine (foldl_frame_last2 (fun u : State => u.get j) _ ?_ _ _).trans ?_)
    | (with_reducible refine (foldl_frame_last3 (fun u : State => u.get j) _ ?_ _ _).trans ?_) | simp [*])

@[simp] theorem State.putFlush_get (s : State) (d : ℕ) (r : ℕ) (f : Flush) (j : Nat) :
    (State.putFlush s d r f).get j = s.get j := State.get_of_obj _ _ (by simp) j

@[simp] theorem State.putConf_get (s : State) (d : ℕ) (b : ℕ) (l : List AccReq) (j : Nat) :
    (State.putConf s d b l).get j = s.get j := State.get_of_obj _ _ (by simp) j

@[simp] theorem State.drainAcc_get (s : State) (i : ℕ) (d : ℕ) (j : Nat) (hs : sideObject j = false) (e0 : j ≠ 0x713001) (e1 : j ≠ 0x713009) (e2 : j ≠ 0x716009) (e3 : j ≠ 0x71600A) :
    (State.drainAcc s i d).get j = s.get j := by
  obtain ⟨⟨h1, h2, h3, h4, h5, h6, h7, h8, h9, h10, h11, h12, h13, h14, h15, h16, h17, h18, h19, h20, h21, h22⟩, hr⟩ := sideObject_false j hs
  unfold State.drainAcc
  repeat' (first
    | with_reducible rfl | (simp [*]; done) | split | (intro _)
    | (with_reducible refine (foldl_frame (fun u : State => u.get j) _ ?_ _ _).trans ?_)
    | (with_reducible refine (foldl_frame_fst (fun u : State => u.get j) _ ?_ _ _).trans ?_)
    | (with_reducible refine (foldl_frame_snd (fun u : State => u.get j) _ ?_ _ _).trans ?_)
    | (with_reducible refine (foldl_frame_mid (fun u : State => u.get j) _ ?_ _ _).trans ?_)
    | (with_reducible refine (foldl_frame_last2 (fun u : State => u.get j) _ ?_ _ _).trans ?_)
    | (with_reducible refine (foldl_frame_last3 (fun u : State => u.get j) _ ?_ _ _).trans ?_) | simp [*])

@[simp] theorem State.dropAcc_get (s : State) (d : ℕ) (j : Nat) :
    (State.dropAcc s d).get j = s.get j := State.get_of_obj _ _ (by simp) j

@[simp] theorem State.clearValid_get (s : State) (d : ℕ) (j : Nat) :
    (State.clearValid s d).get j = s.get j := State.get_of_obj _ _ (by simp) j

@[simp] theorem State.loadFlush_get (s : State) (i : ℕ) (d : ℕ) (e : OpEnv) (pl : Plan) (p : Product) (tiles : List Tile) (res : Bool) (segs : List Segment) (j : Nat) (e0 : j ≠ 0x713009) :
    (State.loadFlush s i d e pl p tiles res segs).get j = s.get j := by
  unfold State.loadFlush
  repeat' (first
    | with_reducible rfl | (simp [*]; done) | split | (intro _)
    | (with_reducible refine (foldl_frame (fun u : State => u.get j) _ ?_ _ _).trans ?_)
    | (with_reducible refine (foldl_frame_fst (fun u : State => u.get j) _ ?_ _ _).trans ?_)
    | (with_reducible refine (foldl_frame_snd (fun u : State => u.get j) _ ?_ _ _).trans ?_)
    | (with_reducible refine (foldl_frame_mid (fun u : State => u.get j) _ ?_ _ _).trans ?_)
    | (with_reducible refine (foldl_frame_last2 (fun u : State => u.get j) _ ?_ _ _).trans ?_)
    | (with_reducible refine (foldl_frame_last3 (fun u : State => u.get j) _ ?_ _ _).trans ?_) | simp [*])

@[simp] theorem State.countCollected_get (s : State) (i : ℕ) (wraps : ℕ) (clips : ℕ) (j : Nat) (e0 : j ≠ 0x713009) (e1 : j ≠ 0x717001) :
    (State.countCollected s i wraps clips).get j = s.get j := by
  unfold State.countCollected; (repeat' split) <;> simp [*]

@[simp] theorem State.countPredicted_get (s : State) (r : Predicted) (j : Nat) (e0 : j ≠ 0x714001) (e1 : j ≠ 0x714002) (e2 : j ≠ 0x714003) (e3 : j ≠ 0x714009) :
    (State.countPredicted s r).get j = s.get j := by
  simp [State.countPredicted, *]

@[simp] theorem State.countMisses_get (s : State) (i : ℕ) (pl : Plan) (j : Nat) (e0 : j ≠ 0x714004) (e1 : j ≠ 0x714005) :
    (State.countMisses s i pl).get j = s.get j := by
  simp [State.countMisses, *]

@[simp] theorem State.commitWrites_get (s : State) (i : ℕ) (d : ℕ) (j : Nat) (hs : sideObject j = false) (e0 : j ≠ 0x71B004) :
    (State.commitWrites s i d).get j = s.get j := by
  obtain ⟨⟨h1, h2, h3, h4, h5, h6, h7, h8, h9, h10, h11, h12, h13, h14, h15, h16, h17, h18, h19, h20, h21, h22⟩, hr⟩ := sideObject_false j hs
  unfold State.commitWrites
  repeat' (first
    | with_reducible rfl | (simp [*]; done) | split | (intro _)
    | (with_reducible refine (foldl_frame (fun u : State => u.get j) _ ?_ _ _).trans ?_)
    | (with_reducible refine (foldl_frame_fst (fun u : State => u.get j) _ ?_ _ _).trans ?_)
    | (with_reducible refine (foldl_frame_snd (fun u : State => u.get j) _ ?_ _ _).trans ?_)
    | (with_reducible refine (foldl_frame_mid (fun u : State => u.get j) _ ?_ _ _).trans ?_)
    | (with_reducible refine (foldl_frame_last2 (fun u : State => u.get j) _ ?_ _ _).trans ?_)
    | (with_reducible refine (foldl_frame_last3 (fun u : State => u.get j) _ ?_ _ _).trans ?_) | simp [*])

@[simp] theorem State.countIndices_get (s : State) (i : ℕ) (j : Nat) (e0 : j ≠ 0x712004) (e1 : j ≠ 0x713006) (e2 : j ≠ 0x713007) (e3 : j ≠ 0x713008) (e4 : j ≠ 0x71300A) :
    (State.countIndices s i).get j = s.get j := by
  unfold State.countIndices
  repeat' (first
    | with_reducible rfl | (simp [*]; done) | split | (intro _)
    | (with_reducible refine (foldl_frame (fun u : State => u.get j) _ ?_ _ _).trans ?_)
    | (with_reducible refine (foldl_frame_fst (fun u : State => u.get j) _ ?_ _ _).trans ?_)
    | (with_reducible refine (foldl_frame_snd (fun u : State => u.get j) _ ?_ _ _).trans ?_)
    | (with_reducible refine (foldl_frame_mid (fun u : State => u.get j) _ ?_ _ _).trans ?_)
    | (with_reducible refine (foldl_frame_last2 (fun u : State => u.get j) _ ?_ _ _).trans ?_)
    | (with_reducible refine (foldl_frame_last3 (fun u : State => u.get j) _ ?_ _ _).trans ?_) | simp [*])

@[simp] theorem State.enterRun_get (s : State) (j : Nat) (e0 : j ≠ 0x200006) :
    (State.enterRun s).get j = s.get j := by
  unfold State.enterRun; split <;> simp [*]

@[simp] theorem State.phaseUpdates_get (s : State) (i : ℕ) (d : ℕ) (ph : ℕ) (e : OpEnv) (pl : Plan) (p : Product) (tiles : List Tile) (j : Nat) (e0 : j ≠ 0x713009) :
    (State.phaseUpdates s i d ph e pl p tiles).get j = s.get j := by
  unfold State.phaseUpdates
  repeat' (first
    | with_reducible rfl | (simp [*]; done) | split | (intro _)
    | (with_reducible refine (foldl_frame (fun u : State => u.get j) _ ?_ _ _).trans ?_)
    | (with_reducible refine (foldl_frame_fst (fun u : State => u.get j) _ ?_ _ _).trans ?_)
    | (with_reducible refine (foldl_frame_snd (fun u : State => u.get j) _ ?_ _ _).trans ?_)
    | (with_reducible refine (foldl_frame_mid (fun u : State => u.get j) _ ?_ _ _).trans ?_)
    | (with_reducible refine (foldl_frame_last2 (fun u : State => u.get j) _ ?_ _ _).trans ?_)
    | (with_reducible refine (foldl_frame_last3 (fun u : State => u.get j) _ ?_ _ _).trans ?_) | simp [*])

@[simp] theorem State.settleConv_get (s : State) (i : ℕ) (j : Nat) (hs : sideObject j = false) (e0 : j ≠ 0x713001) (e1 : j ≠ 0x713009) (e2 : j ≠ 0x716009) (e3 : j ≠ 0x71600A) :
    (State.settleConv s i).get j = s.get j := by
  obtain ⟨⟨h1, h2, h3, h4, h5, h6, h7, h8, h9, h10, h11, h12, h13, h14, h15, h16, h17, h18, h19, h20, h21, h22⟩, hr⟩ := sideObject_false j hs
  unfold State.settleConv
  repeat' (first
    | with_reducible rfl | (simp [*]; done) | split | (intro _)
    | (with_reducible refine (foldl_frame (fun u : State => u.get j) _ ?_ _ _).trans ?_)
    | (with_reducible refine (foldl_frame_fst (fun u : State => u.get j) _ ?_ _ _).trans ?_)
    | (with_reducible refine (foldl_frame_snd (fun u : State => u.get j) _ ?_ _ _).trans ?_)
    | (with_reducible refine (foldl_frame_mid (fun u : State => u.get j) _ ?_ _ _).trans ?_)
    | (with_reducible refine (foldl_frame_last2 (fun u : State => u.get j) _ ?_ _ _).trans ?_)
    | (with_reducible refine (foldl_frame_last3 (fun u : State => u.get j) _ ?_ _ _).trans ?_) | simp [*])

@[simp] theorem State.arrive_get (s : State) (i : ℕ) (d : ℕ) (j : Nat) :
    (State.arrive s i d).get j = s.get j := State.get_of_obj _ _ (by simp) j

@[simp] theorem State.applyClock_get (s : State) (j : Nat) (e0 : j ≠ 0x200009) (e1 : j ≠ 0x20000A) :
    (State.applyClock s).get j = s.get j := by
  unfold State.applyClock; split <;> simp [*]

@[simp] theorem State.applyClockOn_get (s : State) (d : ℕ) (active : List ℕ) (j : Nat) (e0 : j ≠ 0x200009) (e1 : j ≠ 0x20000A) :
    (State.applyClockOn s d active).get j = s.get j := by
  unfold State.applyClockOn
  repeat' (first
    | with_reducible rfl | (simp [*]; done) | split | (intro _)
    | (with_reducible refine (foldl_frame (fun u : State => u.get j) _ ?_ _ _).trans ?_)
    | (with_reducible refine (foldl_frame_fst (fun u : State => u.get j) _ ?_ _ _).trans ?_)
    | (with_reducible refine (foldl_frame_snd (fun u : State => u.get j) _ ?_ _ _).trans ?_)
    | (with_reducible refine (foldl_frame_mid (fun u : State => u.get j) _ ?_ _ _).trans ?_)
    | (with_reducible refine (foldl_frame_last2 (fun u : State => u.get j) _ ?_ _ _).trans ?_)
    | (with_reducible refine (foldl_frame_last3 (fun u : State => u.get j) _ ?_ _ _).trans ?_) | simp [*])

@[simp] theorem State.requestClock_get (s : State) (j : Nat) (e0 : j ≠ 0x200009) (e1 : j ≠ 0x20000A) :
    (State.requestClock s).get j = s.get j := by
  unfold State.requestClock; split <;> simp [*]

@[simp] theorem State.beginFetch_get (s : State) (i : ℕ) (d : ℕ) (start : ℕ) (await : Bool) (j : Nat) :
    (State.beginFetch s i d start await).get j = s.get j := State.get_of_obj _ _ (by simp) j

@[simp] theorem State.completeOp_get (s : State) (status : ℕ) (xcode : ℕ) (poison : Bool) (j : Nat) (hs : sideObject j = false) (e0 : j ≠ 0x71B003) :
    (State.completeOp s status xcode poison).get j = s.get j := by
  unfold State.completeOp; (repeat' split) <;> simp [*]

@[simp] theorem State.putPort_get (s : State) (p : ℕ) (x : Port) (j : Nat) :
    (State.putPort s p x).get j = s.get j := State.get_of_obj _ _ (by simp) j

@[simp] theorem State.sendFlit_get (s : State) (p : ℕ) (kind : ℕ) (lane : ℕ) (seq : ℕ) (payload : List Byte) (j : Nat) :
    (State.sendFlit s p kind lane seq payload).get j = s.get j := State.get_of_obj _ _ (by simp) j

@[simp] theorem State.checkTwinLink_get (s : State) (j : Nat) (hs : sideObject j = false) :
    (State.checkTwinLink s).get j = s.get j := by
  unfold State.checkTwinLink; split <;> simp [*]

@[simp] theorem State.enqueue_get (s : State) (p : ℕ) (m : Msg) (j : Nat) :
    (State.enqueue s p m).get j = s.get j := State.get_of_obj _ _ (by simp) j

@[simp] theorem State.deliver_get (s : State) (ingress : Option ℕ) (m : Msg) (j : Nat) :
    (State.deliver s ingress m).get j = s.get j := State.get_of_obj _ _ (by simp) j

@[simp] theorem State.leave_getD_get (s : State) (p : Nat) (m : Msg) (b : Bool) (u : State) (j : Nat) :
    ((s.leave p m b).getD u).get j = if s.portLinked p then s.get j else u.get j := by
  unfold State.leave
  split <;> simp [*]

@[simp] theorem State.sendResponse_get (s : State) (m : Msg) (j : Nat) :
    (State.sendResponse s m).get j = s.get j := State.get_of_obj _ _ (by simp) j

@[simp] theorem State.discardMsg_get (s : State) (m : Msg) (j : Nat) (hs : sideObject j = false) :
    (State.discardMsg s m).get j = s.get j := by
  unfold State.discardMsg
  split
  · exact foldl_frame (fun u : State => u.get j) _ (fun u a => by simp) _ _
  · split
    · split
      · rename_i r e
        refine State.diverge_get s r j ?_ hs
        unfold State.mirrorRegion at e
        have := List.mem_of_find?_eq_some e
        simpa using this
      · rfl
    · rfl

@[simp] theorem State.sendMsg_get (s : State) (m : Msg) (j : Nat) (hs : sideObject j = false) (e0 : j ≠ 0x719008) :
    (State.sendMsg s m).get j = s.get j := by
  unfold State.sendMsg
  split
  · simp
  · simp [hs]
  · refine foldl_frame (fun u : State => u.get j) _ (fun u a => ?_) _ _
    simp
  · simp [*]

@[simp] theorem State.feedMirror_get (s : State) (p : ℕ) (j : Nat) :
    (State.feedMirror s p).get j = s.get j := State.get_of_obj _ _ (by simp) j

@[simp] theorem State.sendLane_get (s : State) (p : ℕ) (l : ℕ) (j : Nat) (e0 : j ≠ 0x719001) :
    (State.sendLane s p l).get j = s.get j := by
  unfold State.sendLane
  repeat' (first
    | with_reducible rfl | (simp [*]; done) | split | (intro _)
    | (with_reducible refine (foldl_frame (fun u : State => u.get j) _ ?_ _ _).trans ?_)
    | (with_reducible refine (foldl_frame_fst (fun u : State => u.get j) _ ?_ _ _).trans ?_)
    | (with_reducible refine (foldl_frame_snd (fun u : State => u.get j) _ ?_ _ _).trans ?_)
    | (with_reducible refine (foldl_frame_mid (fun u : State => u.get j) _ ?_ _ _).trans ?_)
    | (with_reducible refine (foldl_frame_last2 (fun u : State => u.get j) _ ?_ _ _).trans ?_)
    | (with_reducible refine (foldl_frame_last3 (fun u : State => u.get j) _ ?_ _ _).trans ?_) | simp [*])

@[simp] theorem State.sendData_get (s : State) (p : ℕ) (l : ℕ) (j : Nat) (e0 : j ≠ 0x719001) :
    (State.sendData s p l).get j = s.get j := by
  unfold State.sendData; split <;> simp [*]

@[simp] theorem State.putGroup_get (s : State) (g : ℕ) (x : McGroup) (j : Nat) :
    (State.putGroup s g x).get j = s.get j := State.get_of_obj _ _ (by simp) j

@[simp] theorem State.replicate_get (s : State) (g : ℕ) (m : Msg) (forwarded : Bool) (j : Nat) :
    (State.replicate s g m forwarded).get j = s.get j := State.get_of_obj _ _ (by simp) j

@[simp] theorem State.mcPlace_get (s : State) (g : ℕ) (x : ℕ) (data : List Byte) (poison : List Bool) (j : Nat) (hs : sideObject j = false) :
    (State.mcPlace s g x data poison).get j = s.get j := by
  obtain ⟨⟨h1, h2, h3, h4, h5, h6, h7, h8, h9, h10, h11, h12, h13, h14, h15, h16, h17, h18, h19, h20, h21, h22⟩, hr⟩ := sideObject_false j hs
  unfold State.mcPlace
  repeat' (first
    | with_reducible rfl | (simp [*]; done) | split | (intro _)
    | (with_reducible refine (foldl_frame (fun u : State => u.get j) _ ?_ _ _).trans ?_)
    | (with_reducible refine (foldl_frame_fst (fun u : State => u.get j) _ ?_ _ _).trans ?_)
    | (with_reducible refine (foldl_frame_snd (fun u : State => u.get j) _ ?_ _ _).trans ?_)
    | (with_reducible refine (foldl_frame_mid (fun u : State => u.get j) _ ?_ _ _).trans ?_)
    | (with_reducible refine (foldl_frame_last2 (fun u : State => u.get j) _ ?_ _ _).trans ?_)
    | (with_reducible refine (foldl_frame_last3 (fun u : State => u.get j) _ ?_ _ _).trans ?_) | simp [*])

@[simp] theorem State.mcPoison_get (s : State) (g : ℕ) (j : Nat) (hs : sideObject j = false) :
    (State.mcPoison s g).get j = s.get j := by
  obtain ⟨⟨h1, h2, h3, h4, h5, h6, h7, h8, h9, h10, h11, h12, h13, h14, h15, h16, h17, h18, h19, h20, h21, h22⟩, hr⟩ := sideObject_false j hs
  unfold State.mcPoison
  repeat' (first
    | with_reducible rfl | (simp [*]; done) | split | (intro _)
    | (with_reducible refine (foldl_frame (fun u : State => u.get j) _ ?_ _ _).trans ?_)
    | (with_reducible refine (foldl_frame_fst (fun u : State => u.get j) _ ?_ _ _).trans ?_)
    | (with_reducible refine (foldl_frame_snd (fun u : State => u.get j) _ ?_ _ _).trans ?_)
    | (with_reducible refine (foldl_frame_mid (fun u : State => u.get j) _ ?_ _ _).trans ?_)
    | (with_reducible refine (foldl_frame_last2 (fun u : State => u.get j) _ ?_ _ _).trans ?_)
    | (with_reducible refine (foldl_frame_last3 (fun u : State => u.get j) _ ?_ _ _).trans ?_) | simp [*])

@[simp] theorem State.putThread_get (s : State) (eng : ℕ) (thr : ℕ) (t : Thread) (j : Nat) :
    (State.putThread s eng thr t).get j = s.get j := State.get_of_obj _ _ (by simp) j

@[simp] theorem State.threadRecord_get (s : State) (t : Thread) (status : ℕ) (sync : ℕ) (j : Nat) (hs : sideObject j = false) :
    (State.threadRecord s t status sync).get j = s.get j := by
  simp [State.threadRecord, *]

@[simp] theorem State.commandRecord_get (s : State) (code : ℕ) (tag : ℕ) (cring : ℕ) (deadline : ℕ) (taken : ℕ) (status : ℕ) (state : ℕ) (j : Nat) (hs : sideObject j = false) :
    (State.commandRecord s code tag cring deadline taken status state).get j = s.get j := by
  simp [State.commandRecord, *]

@[simp] theorem State.idleThread_get (s : State) (eng : ℕ) (thr : ℕ) (j : Nat) :
    (State.idleThread s eng thr).get j = s.get j := State.get_of_obj _ _ (by simp) j

@[simp] theorem State.killEngine_get (s : State) (eng : ℕ) (j : Nat) (hs : sideObject j = false) :
    (State.killEngine s eng).get j = s.get j := by
  obtain ⟨⟨h1, h2, h3, h4, h5, h6, h7, h8, h9, h10, h11, h12, h13, h14, h15, h16, h17, h18, h19, h20, h21, h22⟩, hr⟩ := sideObject_false j hs
  unfold State.killEngine
  repeat' (first
    | with_reducible rfl | (simp [*]; done) | split | (intro _)
    | (with_reducible refine (foldl_frame (fun u : State => u.get j) _ ?_ _ _).trans ?_)
    | (with_reducible refine (foldl_frame_fst (fun u : State => u.get j) _ ?_ _ _).trans ?_)
    | (with_reducible refine (foldl_frame_snd (fun u : State => u.get j) _ ?_ _ _).trans ?_)
    | (with_reducible refine (foldl_frame_mid (fun u : State => u.get j) _ ?_ _ _).trans ?_)
    | (with_reducible refine (foldl_frame_last2 (fun u : State => u.get j) _ ?_ _ _).trans ?_)
    | (with_reducible refine (foldl_frame_last3 (fun u : State => u.get j) _ ?_ _ _).trans ?_) | simp [*])

@[simp] theorem State.noteClosed_get (s : State) (d : ℕ) (lastAt : ℕ) (lens : List ℕ) (j : Nat) :
    (State.noteClosed s d lastAt lens).get j = s.get j := State.get_of_obj _ _ (by simp) j

@[simp] theorem State.putLace_get (s : State) (eng : ℕ) (n : ℕ) (l : Lace) (j : Nat) :
    (State.putLace s eng n l).get j = s.get j := State.get_of_obj _ _ (by simp) j

@[simp] theorem State.streamWrite_get (s : State) (w : Window) (die : ℕ) (a : ℕ) (data : List (Byte × Bool)) (c : Counts) (j : Nat) (hs : sideObject j = false) (e0 : j ≠ 0x717003) :
    (State.streamWrite s w die a data c).1.get j = s.get j := by
  obtain ⟨⟨h1, h2, h3, h4, h5, h6, h7, h8, h9, h10, h11, h12, h13, h14, h15, h16, h17, h18, h19, h20, h21, h22⟩, hr⟩ := sideObject_false j hs
  unfold State.streamWrite
  repeat' (first
    | with_reducible rfl | (simp [*]; done) | split | (intro _)
    | (with_reducible refine (foldl_frame (fun u : State => u.get j) _ ?_ _ _).trans ?_)
    | (with_reducible refine (foldl_frame_fst (fun u : State => u.get j) _ ?_ _ _).trans ?_))

@[simp] theorem State.takeTag_get (s : State) (j : Nat) :
    (State.takeTag s).2.get j = s.get j := State.get_of_obj _ _ (by simp) j

@[simp] theorem State.onEntry_get (s : State) (eng : ℕ) (thr : ℕ) (index : ℕ) (f : IssuedEntry → IssuedEntry) (j : Nat) :
    (State.onEntry s eng thr index f).get j = s.get j := State.get_of_obj _ _ (by simp) j

@[simp] theorem State.addRemote_get (s : State) (eng : ℕ) (thr : ℕ) (index : ℕ) (up : Bool) (j : Nat) :
    (State.addRemote s eng thr index up).get j = s.get j := State.get_of_obj _ _ (by simp) j

@[simp] theorem State.remoteRead_get (s : State) (eng : ℕ) (thr : ℕ) (index : ℕ) (dev : ℕ) (addr : ℕ) (len : ℕ) (dst : ℕ) (remoteDst : Bool) (j : Nat) (hs : sideObject j = false) (e0 : j ≠ 0x719008) :
    (State.remoteRead s eng thr index dev addr len dst remoteDst).get j = s.get j := by
  simp [State.remoteRead, *]

@[simp] theorem State.remoteWrite_get (s : State) (eng : ℕ) (thr : ℕ) (index : ℕ) (dev : ℕ) (addr : ℕ) (data : List (Byte × Bool)) (j : Nat) (hs : sideObject j = false) (e0 : j ≠ 0x719008) :
    (State.remoteWrite s eng thr index dev addr data).get j = s.get j := by
  simp [State.remoteWrite, *]

@[simp] theorem State.remoteRun_get (s : State) (eng : ℕ) (thr : ℕ) (index : ℕ) (dev : ℕ) (addr : ℕ) (data : List (Byte × Bool)) (j : Nat) (hs : sideObject j = false) (e0 : j ≠ 0x717003) (e1 : j ≠ 0x719008) :
    (State.remoteRun s eng thr index dev addr data).get j = s.get j := by
  obtain ⟨⟨h1, h2, h3, h4, h5, h6, h7, h8, h9, h10, h11, h12, h13, h14, h15, h16, h17, h18, h19, h20, h21, h22⟩, hr⟩ := sideObject_false j hs
  unfold State.remoteRun
  repeat' (first
    | with_reducible rfl | (simp [*]; done) | split | (intro _)
    | (with_reducible refine (foldl_frame (fun u : State => u.get j) _ ?_ _ _).trans ?_))

@[simp] theorem State.askAll_get (s : State) (eng : ℕ) (thr : ℕ) (index : ℕ) (x4 : ℕ) (j : Nat) (hs : sideObject j = false) (e0 : j ≠ 0x719008) :
    (State.askAll s eng thr index x4).get j = s.get j := by
  obtain ⟨⟨h1, h2, h3, h4, h5, h6, h7, h8, h9, h10, h11, h12, h13, h14, h15, h16, h17, h18, h19, h20, h21, h22⟩, hr⟩ := sideObject_false j hs
  induction x4 generalizing s with
  | zero => rfl
  | succ k ih =>
    unfold State.askAll
    split
    · rename_i t e
      rw [ih]
      unfold State.askRemote at e
      dsimp only at e
      repeat' (split at e)
      all_goals first
        | (simp at e; done)
        | (simp only [Option.some.injEq] at e; subst e; simp [*])
    · rfl

@[simp] theorem State.askNow_get (s : State) (eng : ℕ) (thr : ℕ) (index : ℕ) (e : Entry) (j : Nat) (hs : sideObject j = false) (e0 : j ≠ 0x719008) :
    (State.askNow s eng thr index e).get j = s.get j := by
  simp [State.askNow, *]

@[simp] theorem State.noteAppend_get (s : State) (eng : ℕ) (thr : ℕ) (index : ℕ) (g : ℕ) (j : Nat) :
    (State.noteAppend s eng thr index g).get j = s.get j := State.get_of_obj _ _ (by simp) j

@[simp] theorem State.clearMark_get (s : State) (eng : ℕ) (thr : ℕ) (index : ℕ) (addr : ℕ) (j : Nat) :
    (State.clearMark s eng thr index addr).get j = s.get j := State.get_of_obj _ _ (by simp) j

@[simp] theorem State.landLine_get (s : State) (eng : ℕ) (thr : ℕ) (index : ℕ) (l : LineWrite) (j : Nat) (hs : sideObject j = false) (e0 : j ≠ 0x717003) :
    (State.landLine s eng thr index l).get j = s.get j := by
  simp [State.landLine, *]

@[simp] theorem State.landEntry_get (s : State) (eng : ℕ) (thr : ℕ) (x : IssuedEntry) (j : Nat) (hs : sideObject j = false) (e0 : j ≠ 0x717003) :
    (State.landEntry s eng thr x).get j = s.get j := by
  obtain ⟨⟨h1, h2, h3, h4, h5, h6, h7, h8, h9, h10, h11, h12, h13, h14, h15, h16, h17, h18, h19, h20, h21, h22⟩, hr⟩ := sideObject_false j hs
  unfold State.landEntry
  repeat' (first
    | with_reducible rfl | (simp [*]; done) | split | (intro _)
    | (with_reducible refine (foldl_frame (fun u : State => u.get j) _ ?_ _ _).trans ?_)
    | (with_reducible refine (foldl_frame_fst (fun u : State => u.get j) _ ?_ _ _).trans ?_)
    | (with_reducible refine (foldl_frame_snd (fun u : State => u.get j) _ ?_ _ _).trans ?_)
    | (with_reducible refine (foldl_frame_mid (fun u : State => u.get j) _ ?_ _ _).trans ?_)
    | (with_reducible refine (foldl_frame_last2 (fun u : State => u.get j) _ ?_ _ _).trans ?_)
    | (with_reducible refine (foldl_frame_last3 (fun u : State => u.get j) _ ?_ _ _).trans ?_) | simp [*])

@[simp] theorem State.markMore_get (s : State) (eng : ℕ) (thr : ℕ) (x : IssuedEntry) (j : Nat) :
    (State.markMore s eng thr x).get j = s.get j := State.get_of_obj _ _ (by simp) j

@[simp] theorem State.entryCycle_get (s : State) (eng : ℕ) (thr : ℕ) (x : IssuedEntry) (j : Nat) (hs : sideObject j = false) (e0 : j ≠ 0x717003) (e1 : j ≠ 0x719008) :
    (State.entryCycle s eng thr x).get j = s.get j := by
  obtain ⟨⟨h1, h2, h3, h4, h5, h6, h7, h8, h9, h10, h11, h12, h13, h14, h15, h16, h17, h18, h19, h20, h21, h22⟩, hr⟩ := sideObject_false j hs
  unfold State.entryCycle
  repeat' (first
    | with_reducible rfl | (simp [*]; done) | split | (intro _)
    | (with_reducible refine (foldl_frame (fun u : State => u.get j) _ ?_ _ _).trans ?_)
    | (with_reducible refine (foldl_frame_fst (fun u : State => u.get j) _ ?_ _ _).trans ?_)
    | (with_reducible refine (foldl_frame_snd (fun u : State => u.get j) _ ?_ _ _).trans ?_)
    | (with_reducible refine (foldl_frame_mid (fun u : State => u.get j) _ ?_ _ _).trans ?_)
    | (with_reducible refine (foldl_frame_last2 (fun u : State => u.get j) _ ?_ _ _).trans ?_)
    | (with_reducible refine (foldl_frame_last3 (fun u : State => u.get j) _ ?_ _ _).trans ?_) | simp [*])

@[simp] theorem State.noteLost_get (s : State) (unit : ℕ) (cause : ℕ) (j : Nat) :
    (State.noteLost s unit cause).get j = s.get j := State.get_of_obj _ _ (by simp) j

@[simp] theorem State.putBuf_get (s : State) (k : ℕ) (l : List Xfer) (j : Nat) :
    (State.putBuf s k l).get j = s.get j := State.get_of_obj _ _ (by simp) j

@[simp] theorem State.putArbiter_get (s : State) (a : Arbiter) (j : Nat) :
    (State.putArbiter s a).get j = s.get j := State.get_of_obj _ _ (by simp) j

@[simp] theorem State.putWaiters_get (s : State) (id : ArbId) (l : List Waiter) (j : Nat) :
    (State.putWaiters s id l).get j = s.get j := State.get_of_obj _ _ (by simp) j

@[simp] theorem State.countLost_get (s : State) (l : List Waiter) (j : Nat) (e0 : j ≠ 0x718002) (e1 : j ≠ 0x718004) (e2 : j ≠ 0x718005) :
    (State.countLost s l).get j = s.get j := by
  unfold State.countLost
  repeat' (first
    | with_reducible rfl | (simp [*]; done) | split | (intro _)
    | (with_reducible refine (foldl_frame (fun u : State => u.get j) _ ?_ _ _).trans ?_)
    | (with_reducible refine (foldl_frame_fst (fun u : State => u.get j) _ ?_ _ _).trans ?_)
    | (with_reducible refine (foldl_frame_snd (fun u : State => u.get j) _ ?_ _ _).trans ?_)
    | (with_reducible refine (foldl_frame_mid (fun u : State => u.get j) _ ?_ _ _).trans ?_)
    | (with_reducible refine (foldl_frame_last2 (fun u : State => u.get j) _ ?_ _ _).trans ?_)
    | (with_reducible refine (foldl_frame_last3 (fun u : State => u.get j) _ ?_ _ _).trans ?_) | simp [*])

@[simp] theorem State.presentJob_get (s : State) (die : ℕ) (addr : ℕ) (wr : Option Beat) (x : Xfer) (j : Nat) :
    (State.presentJob s die addr wr x).get j = s.get j := State.get_of_obj _ _ (by simp) j

@[simp] theorem State.release_get (s : State) (d : ℕ) (n : ℕ) (j : Nat) :
    (State.release s d n).get j = s.get j := State.get_of_obj _ _ (by simp) j

@[simp] theorem State.finishXfer_get (s : State) (die : ℕ) (x : Xfer) (j : Nat) :
    (State.finishXfer s die x).get j = s.get j := State.get_of_obj _ _ (by simp) j

@[simp] theorem State.reachEnd_get (s : State) (die : ℕ) (x : Xfer) (j : Nat) :
    (State.reachEnd s die x).get j = s.get j := State.get_of_obj _ _ (by simp) j

@[simp] theorem State.answerLost_get (s : State) (x : Xfer) (j : Nat) (hs : sideObject j = false) (e0 : j ≠ 0x717001) :
    (State.answerLost s x).get j = s.get j := by
  obtain ⟨⟨h1, h2, h3, h4, h5, h6, h7, h8, h9, h10, h11, h12, h13, h14, h15, h16, h17, h18, h19, h20, h21, h22⟩, hr⟩ := sideObject_false j hs
  unfold State.answerLost; (repeat' split) <;> simp [*]

@[simp] theorem State.takeBeats_get (s : State) (die : ℕ) (port : ℕ) (x : Xfer) (j : Nat) (hs : sideObject j = false) (e0 : j ≠ 0x717001) :
    (State.takeBeats s die port x).get j = s.get j := by
  unfold State.takeBeats; (repeat' split) <;> simp [*]

@[simp] theorem State.noteXfer_get (s : State) (x : Xfer) (j : Nat) (e0 : j ≠ 0x718006) :
    (State.noteXfer s x).get j = s.get j := by
  unfold State.noteXfer; split <;> simp [*]

@[simp] theorem State.enterFrame_get (s : State) (src : ℕ) (die : ℕ) (port : ℕ) (f : Frame) (j : Nat) (hs : sideObject j = false) (e0 : j ≠ 0x717001) (e1 : j ≠ 0x718001) (e2 : j ≠ 0x718006) :
    (State.enterFrame s src die port f).get j = s.get j := by
  obtain ⟨⟨h1, h2, h3, h4, h5, h6, h7, h8, h9, h10, h11, h12, h13, h14, h15, h16, h17, h18, h19, h20, h21, h22⟩, hr⟩ := sideObject_false j hs
  unfold State.enterFrame
  repeat' (first
    | with_reducible rfl | (simp [*]; done) | split | (intro _)
    | (with_reducible refine (foldl_frame (fun u : State => u.get j) _ ?_ _ _).trans ?_)
    | (with_reducible refine (foldl_frame_fst (fun u : State => u.get j) _ ?_ _ _).trans ?_)
    | (with_reducible refine (foldl_frame_snd (fun u : State => u.get j) _ ?_ _ _).trans ?_)
    | (with_reducible refine (foldl_frame_mid (fun u : State => u.get j) _ ?_ _ _).trans ?_)
    | (with_reducible refine (foldl_frame_last2 (fun u : State => u.get j) _ ?_ _ _).trans ?_)
    | (with_reducible refine (foldl_frame_last3 (fun u : State => u.get j) _ ?_ _ _).trans ?_) | simp [*])

@[simp] theorem State.owe_get (s : State) (a : OwedLine) (j : Nat) :
    (State.owe s a).get j = s.get j := State.get_of_obj _ _ (by simp) j

@[simp] theorem State.respond_get (s : State) (a : OwedLine) (j : Nat) (hs : sideObject j = false) (e0 : j ≠ 0x717001) (e1 : j ≠ 0x718001) (e2 : j ≠ 0x718006) :
    (State.respond s a).get j = s.get j := by
  obtain ⟨⟨h1, h2, h3, h4, h5, h6, h7, h8, h9, h10, h11, h12, h13, h14, h15, h16, h17, h18, h19, h20, h21, h22⟩, hr⟩ := sideObject_false j hs
  unfold State.respond
  repeat' (first
    | with_reducible rfl | (simp [*]; done) | split | (intro _)
    | (with_reducible refine (foldl_frame (fun u : State => u.get j) _ ?_ _ _).trans ?_)
    | (with_reducible refine (foldl_frame_fst (fun u : State => u.get j) _ ?_ _ _).trans ?_)
    | (with_reducible refine (foldl_frame_snd (fun u : State => u.get j) _ ?_ _ _).trans ?_)
    | (with_reducible refine (foldl_frame_mid (fun u : State => u.get j) _ ?_ _ _).trans ?_)
    | (with_reducible refine (foldl_frame_last2 (fun u : State => u.get j) _ ?_ _ _).trans ?_)
    | (with_reducible refine (foldl_frame_last3 (fun u : State => u.get j) _ ?_ _ _).trans ?_) | simp [*])

@[simp] theorem State.drainEdge_get (s : State) (die : ℕ) (port : ℕ) (j : Nat) :
    (State.drainEdge s die port).get j = s.get j := State.get_of_obj _ _ (by simp) j

@[simp] theorem State.netCycle_get (s : State) (j : Nat) (hs : sideObject j = false) (e0 : j ≠ 0x717001) (e1 : j ≠ 0x718001) (e2 : j ≠ 0x718006) :
    (State.netCycle s).get j = s.get j := by
  obtain ⟨⟨h1, h2, h3, h4, h5, h6, h7, h8, h9, h10, h11, h12, h13, h14, h15, h16, h17, h18, h19, h20, h21, h22⟩, hr⟩ := sideObject_false j hs
  unfold State.netCycle
  repeat' (first
    | with_reducible rfl | (simp [*]; done) | split | (intro _)
    | (with_reducible refine (foldl_frame (fun u : State => u.get j) _ ?_ _ _).trans ?_))

@[simp] theorem State.startFetch_get (s : State) (i : ℕ) (d : ℕ) (j : Nat) :
    (State.startFetch s i d).get j = s.get j := State.get_of_obj _ _ (by simp) j

@[simp] theorem State.replan_get (s : State) (i : ℕ) (j : Nat) :
    (State.replan s i).get j = s.get j := State.get_of_obj _ _ (by simp) j

@[simp] theorem State.finishAbandoned_get (x0 : ℕ) (x1 : State) (j : Nat) (hs : sideObject j = false) (e0 : j ≠ 0x71B003) :
    (State.finishAbandoned x0 x1).get j = x1.get j := by
  obtain ⟨⟨h1, h2, h3, h4, h5, h6, h7, h8, h9, h10, h11, h12, h13, h14, h15, h16, h17, h18, h19, h20, h21, h22⟩, hr⟩ := sideObject_false j hs
  induction x0 generalizing x1 with
  | zero => simp [State.finishAbandoned]
  | succ k ih =>
    unfold State.finishAbandoned
    repeat' (first | with_reducible rfl | (simp [*]; done) | split | simp [*])

@[simp] theorem State.sortOps_get (s : State) (abandon : Bool) (lost : Bool) (j : Nat) (hs : sideObject j = false) (e0 : j ≠ 0x71B003) :
    (State.sortOps s abandon lost).get j = s.get j := by
  obtain ⟨⟨h1, h2, h3, h4, h5, h6, h7, h8, h9, h10, h11, h12, h13, h14, h15, h16, h17, h18, h19, h20, h21, h22⟩, hr⟩ := sideObject_false j hs
  unfold State.sortOps
  repeat' (first
    | with_reducible rfl | (simp [*]; done) | split | (intro _)
    | (with_reducible refine (foldl_frame (fun u : State => u.get j) _ ?_ _ _).trans ?_)
    | (with_reducible refine (foldl_frame_fst (fun u : State => u.get j) _ ?_ _ _).trans ?_)
    | (with_reducible refine (foldl_frame_snd (fun u : State => u.get j) _ ?_ _ _).trans ?_)
    | (with_reducible refine (foldl_frame_mid (fun u : State => u.get j) _ ?_ _ _).trans ?_)
    | (with_reducible refine (foldl_frame_last2 (fun u : State => u.get j) _ ?_ _ _).trans ?_)
    | (with_reducible refine (foldl_frame_last3 (fun u : State => u.get j) _ ?_ _ _).trans ?_) | simp [*])

@[simp] theorem State.moduleLost_get (s : State) (j : Nat) (hs : sideObject j = false) :
    (State.moduleLost s).get j = s.get j := by
  unfold State.moduleLost; split <;> simp [*]

@[simp] theorem State.lossRecords_get (s : State) (l : List (ℕ × ℕ)) (j : Nat) (hs : sideObject j = false) (e0 : j ≠ 0x71B006) :
    (State.lossRecords s l).get j = s.get j := by
  obtain ⟨⟨h1, h2, h3, h4, h5, h6, h7, h8, h9, h10, h11, h12, h13, h14, h15, h16, h17, h18, h19, h20, h21, h22⟩, hr⟩ := sideObject_false j hs
  unfold State.lossRecords
  repeat' (first
    | with_reducible rfl | (simp [*]; done) | split | (intro _)
    | (with_reducible refine (foldl_frame (fun u : State => u.get j) _ ?_ _ _).trans ?_))

@[simp] theorem State.setUnits_get (s : State) (fenced : ℕ) (stk : ℕ) (active : List ℕ) (j : Nat) (e0 : j ≠ 0x330003) (e1 : j ≠ 0x330004) (e2 : j ≠ 0x330005) (e3 : j ≠ 0x330008) (e4 : j ≠ 0x330009) :
    (State.setUnits s fenced stk active).get j = s.get j := by
  unfold State.setUnits; split <;> simp [*]

@[simp] theorem State.killEngines_get (s : State) (newly : ℕ) (j : Nat) (hs : sideObject j = false) :
    (State.killEngines s newly).get j = s.get j := by
  obtain ⟨⟨h1, h2, h3, h4, h5, h6, h7, h8, h9, h10, h11, h12, h13, h14, h15, h16, h17, h18, h19, h20, h21, h22⟩, hr⟩ := sideObject_false j hs
  unfold State.killEngines
  repeat' (first
    | with_reducible rfl | (simp [*]; done) | split | (intro _)
    | (with_reducible refine (foldl_frame (fun u : State => u.get j) _ ?_ _ _).trans ?_))

@[simp] theorem State.answerHeld_get (s : State) (newly : ℕ) (active : List ℕ) (j : Nat) (hs : sideObject j = false) (e0 : j ≠ 0x717001) :
    (State.answerHeld s newly active).get j = s.get j := by
  obtain ⟨⟨h1, h2, h3, h4, h5, h6, h7, h8, h9, h10, h11, h12, h13, h14, h15, h16, h17, h18, h19, h20, h21, h22⟩, hr⟩ := sideObject_false j hs
  unfold State.answerHeld
  repeat' (first
    | with_reducible rfl | (simp [*]; done) | split | (intro _)
    | (with_reducible refine (foldl_frame (fun u : State => u.get j) _ ?_ _ _).trans ?_))

@[simp] theorem State.refuseOp_get (s : State) (i : ℕ) (status : ℕ) (xcode : ℕ) (found : ℕ) (j : Nat) :
    (State.refuseOp s i status xcode found).get j = s.get j := State.get_of_obj _ _ (by simp) j

@[simp] theorem State.countPlan_get (s : State) (i : ℕ) (pl : Plan) (pc : PlanCounts) (j : Nat) (e0 : j ≠ 0x712001) (e1 : j ≠ 0x712002) (e2 : j ≠ 0x712003) (e3 : j ≠ 0x712004) (e4 : j ≠ 0x712005) (e5 : j ≠ 0x712006) (e6 : j ≠ 0x712007) (e7 : j ≠ 0x712008) (e8 : j ≠ 0x714006) (e9 : j ≠ 0x714007) (e10 : j ≠ 0x715001) (e11 : j ≠ 0x71500C) :
    (State.countPlan s i pl pc).get j = s.get j := by
  unfold State.countPlan; split <;> simp [*]

@[simp] theorem State.forecast_get (s : State) (i : ℕ) (j : Nat) (hs : sideObject j = false) (e0 : j ≠ 0x71700A) :
    (State.forecast s i).get j = s.get j := by
  obtain ⟨⟨h1, h2, h3, h4, h5, h6, h7, h8, h9, h10, h11, h12, h13, h14, h15, h16, h17, h18, h19, h20, h21, h22⟩, hr⟩ := sideObject_false j hs
  unfold State.forecast
  repeat' (first
    | with_reducible rfl | (simp [*]; done) | split | (intro _)
    | (with_reducible refine (foldl_frame (fun u : State => u.get j) _ ?_ _ _).trans ?_)
    | (with_reducible refine (foldl_frame_fst (fun u : State => u.get j) _ ?_ _ _).trans ?_)
    | (with_reducible refine (foldl_frame_snd (fun u : State => u.get j) _ ?_ _ _).trans ?_)
    | (with_reducible refine (foldl_frame_mid (fun u : State => u.get j) _ ?_ _ _).trans ?_)
    | (with_reducible refine (foldl_frame_last2 (fun u : State => u.get j) _ ?_ _ _).trans ?_)
    | (with_reducible refine (foldl_frame_last3 (fun u : State => u.get j) _ ?_ _ _).trans ?_) | simp [*])

@[simp] theorem State.countSlip_get (s : State) (i : ℕ) (die : ℕ) (j : Nat) (e0 : j ≠ 0x715008) (e1 : j ≠ 0x715009) :
    (State.countSlip s i die).get j = s.get j := by
  unfold State.countSlip
  repeat' (first
    | with_reducible rfl | (simp [*]; done) | split | (intro _)
    | (with_reducible refine (foldl_frame (fun u : State => u.get j) _ ?_ _ _).trans ?_)
    | (with_reducible refine (foldl_frame_fst (fun u : State => u.get j) _ ?_ _ _).trans ?_)
    | (with_reducible refine (foldl_frame_snd (fun u : State => u.get j) _ ?_ _ _).trans ?_)
    | (with_reducible refine (foldl_frame_mid (fun u : State => u.get j) _ ?_ _ _).trans ?_)
    | (with_reducible refine (foldl_frame_last2 (fun u : State => u.get j) _ ?_ _ _).trans ?_)
    | (with_reducible refine (foldl_frame_last3 (fun u : State => u.get j) _ ?_ _ _).trans ?_) | simp [*])

@[simp] theorem State.accParity_get (s : State) (die : ℕ) (requester : ℕ) (req : AccReq) (parity : Bool) (j : Nat) (hs : sideObject j = false) (e0 : j ≠ 0x718008) (e1 : j ≠ 0x71B001) :
    (State.accParity s die requester req parity).2.get j = s.get j := by
  unfold State.accParity; split <;> simp [*]

@[simp] theorem State.rowWon_get (s : State) (die : ℕ) (bank : ℕ) (requester : ℕ) (j : Nat) :
    (State.rowWon s die bank requester).get j = s.get j := State.get_of_obj _ _ (by simp) j

@[simp] theorem State.rowLost_get (s : State) (die : ℕ) (bank : ℕ) (requester : ℕ) (j : Nat) (e0 : j ≠ 0x718002) (e1 : j ≠ 0x718004) (e2 : j ≠ 0x718005) :
    (State.rowLost s die bank requester).get j = s.get j := by
  simp [State.rowLost, *]

@[simp] theorem State.presentRow_get (s : State) (i : ℕ) (die : ℕ) (requester : ℕ) (errs : List WordErr) (parity : Bool) (j : Nat) (hs : sideObject j = false) (e0 : j ≠ 0x713001) (e1 : j ≠ 0x713002) (e2 : j ≠ 0x713003) (e3 : j ≠ 0x713009) (e4 : j ≠ 0x716009) (e5 : j ≠ 0x71600A) (e6 : j ≠ 0x718002) (e7 : j ≠ 0x718004) (e8 : j ≠ 0x718005) (e9 : j ≠ 0x718008) (e10 : j ≠ 0x71B001) :
    (State.presentRow s i die requester errs parity).get j = s.get j := by
  obtain ⟨⟨h1, h2, h3, h4, h5, h6, h7, h8, h9, h10, h11, h12, h13, h14, h15, h16, h17, h18, h19, h20, h21, h22⟩, hr⟩ := sideObject_false j hs
  unfold State.presentRow
  repeat' (first
    | with_reducible rfl | (simp [*]; done) | split | (intro _)
    | (with_reducible refine (foldl_frame (fun u : State => u.get j) _ ?_ _ _).trans ?_)
    | (with_reducible refine (foldl_frame_fst (fun u : State => u.get j) _ ?_ _ _).trans ?_)
    | (with_reducible refine (foldl_frame_snd (fun u : State => u.get j) _ ?_ _ _).trans ?_)
    | (with_reducible refine (foldl_frame_mid (fun u : State => u.get j) _ ?_ _ _).trans ?_)
    | (with_reducible refine (foldl_frame_last2 (fun u : State => u.get j) _ ?_ _ _).trans ?_)
    | (with_reducible refine (foldl_frame_last3 (fun u : State => u.get j) _ ?_ _ _).trans ?_) | simp [*])

@[simp] theorem State.lacePush_get (s : State) (eng : ℕ) (lace : ℕ) (h : U32) (j : Nat) (hs : sideObject j = false) :
    (State.lacePush s eng lace h).get j = s.get j := by
  obtain ⟨⟨h1, h2, h3, h4, h5, h6, h7, h8, h9, h10, h11, h12, h13, h14, h15, h16, h17, h18, h19, h20, h21, h22⟩, hr⟩ := sideObject_false j hs
  unfold State.lacePush
  repeat' (first
    | with_reducible rfl | (simp [*]; done) | split | (intro _)
    | (with_reducible refine (foldl_frame (fun u : State => u.get j) _ ?_ _ _).trans ?_)
    | (with_reducible refine (foldl_frame_fst (fun u : State => u.get j) _ ?_ _ _).trans ?_)
    | (with_reducible refine (foldl_frame_snd (fun u : State => u.get j) _ ?_ _ _).trans ?_)
    | (with_reducible refine (foldl_frame_mid (fun u : State => u.get j) _ ?_ _ _).trans ?_)
    | (with_reducible refine (foldl_frame_last2 (fun u : State => u.get j) _ ?_ _ _).trans ?_)
    | (with_reducible refine (foldl_frame_last3 (fun u : State => u.get j) _ ?_ _ _).trans ?_) | simp [*])

@[simp] theorem State.lacePop_get (s : State) (eng : ℕ) (lace : ℕ) (j : Nat) (e0 : j ≠ 0x717007) :
    (State.lacePop s eng lace).2.get j = s.get j := by
  unfold State.lacePop
  repeat' (first
    | with_reducible rfl | (simp [*]; done) | split | (intro _)
    | (with_reducible refine (foldl_frame (fun u : State => u.get j) _ ?_ _ _).trans ?_)
    | (with_reducible refine (foldl_frame_fst (fun u : State => u.get j) _ ?_ _ _).trans ?_)
    | (with_reducible refine (foldl_frame_snd (fun u : State => u.get j) _ ?_ _ _).trans ?_)
    | (with_reducible refine (foldl_frame_mid (fun u : State => u.get j) _ ?_ _ _).trans ?_)
    | (with_reducible refine (foldl_frame_last2 (fun u : State => u.get j) _ ?_ _ _).trans ?_)
    | (with_reducible refine (foldl_frame_last3 (fun u : State => u.get j) _ ?_ _ _).trans ?_) | simp [*])

@[simp] theorem State.laceClear_get (s : State) (eng : ℕ) (lace : ℕ) (v : ℕ) (j : Nat) :
    (State.laceClear s eng lace v).get j = s.get j := State.get_of_obj _ _ (by simp) j

@[simp] theorem State.returned_get (s : State) (v : List Byte) (j : Nat) :
    (State.returned s v).get j = s.get j := State.get_of_obj _ _ (by simp) j

@[simp] theorem State.ringUncorrectable_get (s : State) (n : ℕ) (j : Nat) (hs : sideObject j = false) (e0 : j ≠ 0x71B002) :
    (State.ringUncorrectable s n).get j = s.get j := by
  simp [State.ringUncorrectable, *]

@[simp] theorem State.ringPush_get (s0 : State) (n : ℕ) (entry : List Byte) (j : Nat) (hs : sideObject j = false) :
    (State.ringPush s0 n entry).get j = s0.get j := by
  obtain ⟨⟨h1, h2, h3, h4, h5, h6, h7, h8, h9, h10, h11, h12, h13, h14, h15, h16, h17, h18, h19, h20, h21, h22⟩, hr⟩ := sideObject_false j hs
  unfold State.ringPush
  repeat' (first
    | with_reducible rfl | (simp [*]; done) | split | (intro _)
    | (with_reducible refine (foldl_frame (fun u : State => u.get j) _ ?_ _ _).trans ?_)
    | (with_reducible refine (foldl_frame_fst (fun u : State => u.get j) _ ?_ _ _).trans ?_)
    | (with_reducible refine (foldl_frame_snd (fun u : State => u.get j) _ ?_ _ _).trans ?_)
    | (with_reducible refine (foldl_frame_mid (fun u : State => u.get j) _ ?_ _ _).trans ?_)
    | (with_reducible refine (foldl_frame_last2 (fun u : State => u.get j) _ ?_ _ _).trans ?_)
    | (with_reducible refine (foldl_frame_last3 (fun u : State => u.get j) _ ?_ _ _).trans ?_) | simp [*])

@[simp] theorem State.ringPop_get (s0 : State) (n : ℕ) (j : Nat) (hs : sideObject j = false) (e0 : j ≠ 0x717001) (e1 : j ≠ 0x717007) :
    (State.ringPop s0 n).2.get j = s0.get j := by
  obtain ⟨⟨h1, h2, h3, h4, h5, h6, h7, h8, h9, h10, h11, h12, h13, h14, h15, h16, h17, h18, h19, h20, h21, h22⟩, hr⟩ := sideObject_false j hs
  unfold State.ringPop
  repeat' (first
    | with_reducible rfl | (simp [*]; done) | split | (intro _)
    | (with_reducible refine (foldl_frame (fun u : State => u.get j) _ ?_ _ _).trans ?_)
    | (with_reducible refine (foldl_frame_fst (fun u : State => u.get j) _ ?_ _ _).trans ?_)
    | (with_reducible refine (foldl_frame_snd (fun u : State => u.get j) _ ?_ _ _).trans ?_)
    | (with_reducible refine (foldl_frame_mid (fun u : State => u.get j) _ ?_ _ _).trans ?_)
    | (with_reducible refine (foldl_frame_last2 (fun u : State => u.get j) _ ?_ _ _).trans ?_)
    | (with_reducible refine (foldl_frame_last3 (fun u : State => u.get j) _ ?_ _ _).trans ?_) | simp [*])

@[simp] theorem State.ringIndex_get (s0 : State) (n : ℕ) (which : RingIndex) (v : U32) (j : Nat) (hs : sideObject j = false) :
    (State.ringIndex s0 n which v).get j = s0.get j := by
  obtain ⟨⟨h1, h2, h3, h4, h5, h6, h7, h8, h9, h10, h11, h12, h13, h14, h15, h16, h17, h18, h19, h20, h21, h22⟩, hr⟩ := sideObject_false j hs
  unfold State.ringIndex
  repeat' (first
    | with_reducible rfl | (simp [*]; done) | split | (intro _)
    | (with_reducible refine (foldl_frame (fun u : State => u.get j) _ ?_ _ _).trans ?_)
    | (with_reducible refine (foldl_frame_fst (fun u : State => u.get j) _ ?_ _ _).trans ?_)
    | (with_reducible refine (foldl_frame_snd (fun u : State => u.get j) _ ?_ _ _).trans ?_)
    | (with_reducible refine (foldl_frame_mid (fun u : State => u.get j) _ ?_ _ _).trans ?_)
    | (with_reducible refine (foldl_frame_last2 (fun u : State => u.get j) _ ?_ _ _).trans ?_)
    | (with_reducible refine (foldl_frame_last3 (fun u : State => u.get j) _ ?_ _ _).trans ?_) | simp [*])

@[simp] theorem State.ringField_get (s : State) (n : ℕ) (fld : RingField) (v : ℕ) (j : Nat) :
    (State.ringField s n fld v).get j = s.get j := State.get_of_obj _ _ (by simp) j

@[simp] theorem State.putPushBuffer_get (s : State) (w : RingWriter) (n : ℕ) (b : List Byte) (j : Nat) :
    (State.putPushBuffer s w n b).get j = s.get j := State.get_of_obj _ _ (by simp) j

@[simp] theorem State.pushStore_get (s : State) (w : RingWriter) (n : ℕ) (off : ℕ) (len : ℕ) (v : ℕ) (j : Nat) (hs : sideObject j = false) :
    (State.pushStore s w n off len v).get j = s.get j := by
  unfold State.pushStore; split <;> simp [*]

@[simp] theorem State.syncSet_get (s : State) (k : ℕ) (v : ℕ) (j : Nat) :
    (State.syncSet s k v).get j = s.get j := State.get_of_obj _ _ (by simp) j

@[simp] theorem State.syncWindowAdd_get (s : State) (k : ℕ) (v : ℕ) (j : Nat) :
    (State.syncWindowAdd s k v).get j = s.get j := State.get_of_obj _ _ (by simp) j

@[simp] theorem State.freeBuffer_get (s : State) (p : ℕ) (l : ℕ) (j : Nat) :
    (State.freeBuffer s p l).get j = s.get j := State.get_of_obj _ _ (by simp) j

@[simp] theorem State.takeMsg_get (s : State) (m : Msg) (j : Nat) :
    (State.takeMsg s m).2.get j = s.get j := State.get_of_obj _ _ (by simp) j

@[simp] theorem State.takeKind_get (s : State) (ok : Msg → Bool) (j : Nat) :
    (State.takeKind s ok).2.get j = s.get j := State.get_of_obj _ _ (by simp) j

@[simp] theorem State.dropMsg_get (s : State) (m : Msg) (j : Nat) (hs : sideObject j = false) (e0 : j ≠ 0x719008) :
    (State.dropMsg s m).get j = s.get j := by
  simp [State.dropMsg, *]

@[simp] theorem State.passOn_get (s : State) (ingress : Option ℕ) (p : ℕ) (m : Msg) (j : Nat) (hs : sideObject j = false) (e0 : j ≠ 0x718001) (e1 : j ≠ 0x718006) :
    (State.passOn s ingress p m).get j = s.get j := by
  unfold State.passOn; (repeat' split) <;> simp [*]

@[simp] theorem State.replicateOn_get (s : State) (ingress : Option ℕ) (g : ℕ) (m : Msg) (j : Nat) (hs : sideObject j = false) (e0 : j ≠ 0x718001) (e1 : j ≠ 0x718006) :
    (State.replicateOn s ingress g m).get j = s.get j := by
  obtain ⟨⟨h1, h2, h3, h4, h5, h6, h7, h8, h9, h10, h11, h12, h13, h14, h15, h16, h17, h18, h19, h20, h21, h22⟩, hr⟩ := sideObject_false j hs
  unfold State.replicateOn
  repeat' (first
    | with_reducible rfl | (simp [*]; done) | split | (intro _)
    | (with_reducible refine (foldl_frame (fun u : State => u.get j) _ ?_ _ _).trans ?_))

@[simp] theorem State.remotePiece_get (s : State) (src : ℕ) (a : ℕ) (n : ℕ) (j : Nat) (hs : sideObject j = false) (e0 : j ≠ 0x717001) :
    (State.remotePiece s src a n).2.2.get j = s.get j := by
  obtain ⟨⟨h1, h2, h3, h4, h5, h6, h7, h8, h9, h10, h11, h12, h13, h14, h15, h16, h17, h18, h19, h20, h21, h22⟩, hr⟩ := sideObject_false j hs
  unfold State.remotePiece
  repeat' (first
    | with_reducible rfl | (simp [*]; done) | split | (intro _)
    | (with_reducible refine (foldl_frame (fun u : State => u.get j) _ ?_ _ _).trans ?_)
    | (with_reducible refine (foldl_frame_fst (fun u : State => u.get j) _ ?_ _ _).trans ?_)
    | (with_reducible refine (foldl_frame_snd (fun u : State => u.get j) _ ?_ _ _).trans ?_)
    | (with_reducible refine (foldl_frame_mid (fun u : State => u.get j) _ ?_ _ _).trans ?_)
    | (with_reducible refine (foldl_frame_last2 (fun u : State => u.get j) _ ?_ _ _).trans ?_)
    | (with_reducible refine (foldl_frame_last3 (fun u : State => u.get j) _ ?_ _ _).trans ?_) | simp [*])

@[simp] theorem State.remoteFetch_get (s : State) (src : ℕ) (a : ℕ) (n : ℕ) (j : Nat) (hs : sideObject j = false) (e0 : j ≠ 0x717001) :
    (State.remoteFetch s src a n).2.2.get j = s.get j := by
  obtain ⟨⟨h1, h2, h3, h4, h5, h6, h7, h8, h9, h10, h11, h12, h13, h14, h15, h16, h17, h18, h19, h20, h21, h22⟩, hr⟩ := sideObject_false j hs
  unfold State.remoteFetch
  repeat' (first
    | with_reducible rfl | (simp [*]; done) | split | (intro _)
    | (with_reducible refine (foldl_frame (fun u : State => u.get j) _ ?_ _ _).trans ?_)
    | (with_reducible refine (foldl_frame_fst (fun u : State => u.get j) _ ?_ _ _).trans ?_)
    | (with_reducible refine (foldl_frame_snd (fun u : State => u.get j) _ ?_ _ _).trans ?_)
    | (with_reducible refine (foldl_frame_mid (fun u : State => u.get j) _ ?_ _ _).trans ?_)
    | (with_reducible refine (foldl_frame_last2 (fun u : State => u.get j) _ ?_ _ _).trans ?_))

@[simp] theorem State.serveRead_get (s : State) (m : Msg) (j : Nat) (hs : sideObject j = false) (e0 : j ≠ 0x717001) (e1 : j ≠ 0x719009) :
    (State.serveRead s m).get j = s.get j := by
  obtain ⟨⟨h1, h2, h3, h4, h5, h6, h7, h8, h9, h10, h11, h12, h13, h14, h15, h16, h17, h18, h19, h20, h21, h22⟩, hr⟩ := sideObject_false j hs
  unfold State.serveRead
  repeat' (first
    | with_reducible rfl | (simp [*]; done) | split | (intro _)
    | (with_reducible refine (foldl_frame (fun u : State => u.get j) _ ?_ _ _).trans ?_))

@[simp] theorem State.writeAdmitted_get (m : Msg) (data : List Byte) (acc : ℕ × State) (p : ℕ × ℕ) (j : Nat) (hs : sideObject j = false) :
    (State.writeAdmitted m data acc p).2.get j = acc.2.get j := by
  obtain ⟨⟨h1, h2, h3, h4, h5, h6, h7, h8, h9, h10, h11, h12, h13, h14, h15, h16, h17, h18, h19, h20, h21, h22⟩, hr⟩ := sideObject_false j hs
  unfold State.writeAdmitted
  repeat' (first
    | with_reducible rfl | (simp [*]; done) | split | (intro _)
    | (with_reducible refine (foldl_frame (fun u : State => u.get j) _ ?_ _ _).trans ?_)
    | (with_reducible refine (foldl_frame_fst (fun u : State => u.get j) _ ?_ _ _).trans ?_)
    | (with_reducible refine (foldl_frame_snd (fun u : State => u.get j) _ ?_ _ _).trans ?_)
    | (with_reducible refine (foldl_frame_mid (fun u : State => u.get j) _ ?_ _ _).trans ?_)
    | (with_reducible refine (foldl_frame_last2 (fun u : State => u.get j) _ ?_ _ _).trans ?_)
    | (with_reducible refine (foldl_frame_last3 (fun u : State => u.get j) _ ?_ _ _).trans ?_) | simp [*])

@[simp] theorem State.serveWrite_get (s : State) (m : Msg) (j : Nat) (hs : sideObject j = false) (e0 : j ≠ 0x719009) :
    (State.serveWrite s m).get j = s.get j := by
  obtain ⟨⟨h1, h2, h3, h4, h5, h6, h7, h8, h9, h10, h11, h12, h13, h14, h15, h16, h17, h18, h19, h20, h21, h22⟩, hr⟩ := sideObject_false j hs
  unfold State.serveWrite
  repeat' (first
    | with_reducible rfl | (simp [*]; done) | split | (intro _)
    | (with_reducible refine (foldl_frame (fun u : State => u.get j) _ ?_ _ _).trans ?_)
    | (with_reducible refine (foldl_frame_fst (fun u : State => u.get j) _ ?_ _ _).trans ?_)
    | (with_reducible refine (foldl_frame_snd (fun u : State => u.get j) _ ?_ _ _).trans ?_)
    | (with_reducible refine (foldl_frame_mid (fun u : State => u.get j) _ ?_ _ _).trans ?_)
    | (with_reducible refine (foldl_frame_last2 (fun u : State => u.get j) _ ?_ _ _).trans ?_)
    | (with_reducible refine (foldl_frame_last3 (fun u : State => u.get j) _ ?_ _ _).trans ?_) | simp [*])

@[simp] theorem State.serveSignal_get (s : State) (m : Msg) (j : Nat) (hs : sideObject j = false) (e0 : j ≠ 0x71900A) :
    (State.serveSignal s m).get j = s.get j := by
  obtain ⟨⟨h1, h2, h3, h4, h5, h6, h7, h8, h9, h10, h11, h12, h13, h14, h15, h16, h17, h18, h19, h20, h21, h22⟩, hr⟩ := sideObject_false j hs
  unfold State.serveSignal
  repeat' (first
    | with_reducible rfl | (simp [*]; done) | split | (intro _)
    | (with_reducible refine (foldl_frame (fun u : State => u.get j) _ ?_ _ _).trans ?_)
    | (with_reducible refine (foldl_frame_fst (fun u : State => u.get j) _ ?_ _ _).trans ?_)
    | (with_reducible refine (foldl_frame_snd (fun u : State => u.get j) _ ?_ _ _).trans ?_)
    | (with_reducible refine (foldl_frame_mid (fun u : State => u.get j) _ ?_ _ _).trans ?_)
    | (with_reducible refine (foldl_frame_last2 (fun u : State => u.get j) _ ?_ _ _).trans ?_)
    | (with_reducible refine (foldl_frame_last3 (fun u : State => u.get j) _ ?_ _ _).trans ?_) | simp [*])

@[simp] theorem State.serveRingPush_get (s : State) (m : Msg) (j : Nat) (hs : sideObject j = false) (e0 : j ≠ 0x71900A) :
    (State.serveRingPush s m).get j = s.get j := by
  obtain ⟨⟨h1, h2, h3, h4, h5, h6, h7, h8, h9, h10, h11, h12, h13, h14, h15, h16, h17, h18, h19, h20, h21, h22⟩, hr⟩ := sideObject_false j hs
  unfold State.serveRingPush
  repeat' (first
    | with_reducible rfl | (simp [*]; done) | split | (intro _)
    | (with_reducible refine (foldl_frame (fun u : State => u.get j) _ ?_ _ _).trans ?_)
    | (with_reducible refine (foldl_frame_fst (fun u : State => u.get j) _ ?_ _ _).trans ?_)
    | (with_reducible refine (foldl_frame_snd (fun u : State => u.get j) _ ?_ _ _).trans ?_)
    | (with_reducible refine (foldl_frame_mid (fun u : State => u.get j) _ ?_ _ _).trans ?_)
    | (with_reducible refine (foldl_frame_last2 (fun u : State => u.get j) _ ?_ _ _).trans ?_)
    | (with_reducible refine (foldl_frame_last3 (fun u : State => u.get j) _ ?_ _ _).trans ?_) | simp [*])

@[simp] theorem State.putSlot_get (s : State) (c : ℕ) (x : SendSlot) (j : Nat) :
    (State.putSlot s c x).get j = s.get j := State.get_of_obj _ _ (by simp) j

@[simp] theorem State.sendFirmware_get (s : State) (route : List ℕ) (mtype : ℕ) (txtag : ℕ) (j : Nat) (hs : sideObject j = false) (e0 : j ≠ 0x719008) :
    (State.sendFirmware s route mtype txtag).get j = s.get j := by
  simp [State.sendFirmware, *]

@[simp] theorem State.sendProbe_get (s : State) (route : List ℕ) (j : Nat) (hs : sideObject j = false) (e0 : j ≠ 0x719008) :
    (State.sendProbe s route).get j = s.get j := by
  simp [State.sendProbe, *]

@[simp] theorem State.learn_get (s : State) (route : List ℕ) (info : PeerInfo) (j : Nat) (hs : sideObject j = false) (e0 : j ≠ 0x719008) :
    (State.learn s route info).get j = s.get j := by
  obtain ⟨⟨h1, h2, h3, h4, h5, h6, h7, h8, h9, h10, h11, h12, h13, h14, h15, h16, h17, h18, h19, h20, h21, h22⟩, hr⟩ := sideObject_false j hs
  unfold State.learn
  repeat' (first
    | with_reducible rfl | (simp [*]; done) | split | (intro _)
    | (with_reducible refine (foldl_frame (fun u : State => u.get j) _ ?_ _ _).trans ?_))

@[simp] theorem State.mcReceive_get (s : State) (g : ℕ) (m : Msg) (j : Nat) (hs : sideObject j = false) :
    (State.mcReceive s g m).get j = s.get j := by
  unfold State.mcReceive; split <;> simp [*]

@[simp] theorem State.serveMulticast_get (s : State) (m : Msg) (j : Nat) (hs : sideObject j = false) :
    (State.serveMulticast s m).get j = s.get j := by
  obtain ⟨⟨h1, h2, h3, h4, h5, h6, h7, h8, h9, h10, h11, h12, h13, h14, h15, h16, h17, h18, h19, h20, h21, h22⟩, hr⟩ := sideObject_false j hs
  unfold State.serveMulticast
  repeat' (first
    | with_reducible rfl | (simp [*]; done) | split | (intro _)
    | (with_reducible refine (foldl_frame (fun u : State => u.get j) _ ?_ _ _).trans ?_)
    | (with_reducible refine (foldl_frame_fst (fun u : State => u.get j) _ ?_ _ _).trans ?_)
    | (with_reducible refine (foldl_frame_snd (fun u : State => u.get j) _ ?_ _ _).trans ?_)
    | (with_reducible refine (foldl_frame_mid (fun u : State => u.get j) _ ?_ _ _).trans ?_)
    | (with_reducible refine (foldl_frame_last2 (fun u : State => u.get j) _ ?_ _ _).trans ?_)
    | (with_reducible refine (foldl_frame_last3 (fun u : State => u.get j) _ ?_ _ _).trans ?_) | simp [*])

@[simp] theorem State.takeCtl_get (s : State) (g : ℕ) (op : ℕ) (j : Nat) :
    (State.takeCtl s g op).get j = s.get j := State.get_of_obj _ _ (by simp) j

@[simp] theorem State.mcAskRejoin_get (s : State) (g : ℕ) (j : Nat) (hs : sideObject j = false) (e0 : j ≠ 0x719008) :
    (State.mcAskRejoin s g).get j = s.get j := by
  simp [State.mcAskRejoin, *]

@[simp] theorem State.sendBeat_get (s : State) (j : Nat) :
    (State.sendBeat s).get j = s.get j := State.get_of_obj _ _ (by simp) j

@[simp] theorem State.settleRole_get (s : State) (hb : Heartbeat) (j : Nat) (e0 : j ≠ 0x510002) :
    (State.settleRole s hb).get j = s.get j := by
  unfold State.settleRole
  repeat' (first
    | with_reducible rfl | (simp [*]; done) | split | (intro _)
    | (with_reducible refine (foldl_frame (fun u : State => u.get j) _ ?_ _ _).trans ?_)
    | (with_reducible refine (foldl_frame_fst (fun u : State => u.get j) _ ?_ _ _).trans ?_)
    | (with_reducible refine (foldl_frame_snd (fun u : State => u.get j) _ ?_ _ _).trans ?_)
    | (with_reducible refine (foldl_frame_mid (fun u : State => u.get j) _ ?_ _ _).trans ?_)
    | (with_reducible refine (foldl_frame_last2 (fun u : State => u.get j) _ ?_ _ _).trans ?_)
    | (with_reducible refine (foldl_frame_last3 (fun u : State => u.get j) _ ?_ _ _).trans ?_) | simp [*])

@[simp] theorem State.demote_get (s : State) (hb : Heartbeat) (j : Nat) (hs : sideObject j = false) (e0 : j ≠ 0x510002) :
    (State.demote s hb).get j = s.get j := by
  unfold State.demote; split <;> simp [*]

@[simp] theorem State.takeBeat_get (s : State) (hb : Heartbeat) (j : Nat) (hs : sideObject j = false) (e0 : j ≠ 0x510002) (e1 : j ≠ 0x510007) (e2 : j ≠ 0x510008) :
    (State.takeBeat s hb).get j = s.get j := by
  obtain ⟨⟨h1, h2, h3, h4, h5, h6, h7, h8, h9, h10, h11, h12, h13, h14, h15, h16, h17, h18, h19, h20, h21, h22⟩, hr⟩ := sideObject_false j hs
  unfold State.takeBeat
  repeat' (first
    | with_reducible rfl | (simp [*]; done) | split | (intro _)
    | (with_reducible refine (foldl_frame (fun u : State => u.get j) _ ?_ _ _).trans ?_)
    | (with_reducible refine (foldl_frame_fst (fun u : State => u.get j) _ ?_ _ _).trans ?_)
    | (with_reducible refine (foldl_frame_snd (fun u : State => u.get j) _ ?_ _ _).trans ?_)
    | (with_reducible refine (foldl_frame_mid (fun u : State => u.get j) _ ?_ _ _).trans ?_)
    | (with_reducible refine (foldl_frame_last2 (fun u : State => u.get j) _ ?_ _ _).trans ?_)
    | (with_reducible refine (foldl_frame_last3 (fun u : State => u.get j) _ ?_ _ _).trans ?_) | simp [*])

@[simp] theorem State.portBeat_get (s : State) (p : ℕ) (hb : Heartbeat) (j : Nat) (hs : sideObject j = false) (e0 : j ≠ 0x510002) (e1 : j ≠ 0x510007) (e2 : j ≠ 0x510008) :
    (State.portBeat s p hb).get j = s.get j := by
  unfold State.portBeat; split <;> simp [*]

@[simp] theorem State.applyMirrorFuel_get (x0 : ℕ) (x1 : State) (j : Nat) (hs : sideObject j = false) (e0 : j ≠ 0x510007) :
    (State.applyMirrorFuel x0 x1).get j = x1.get j := by
  obtain ⟨⟨h1, h2, h3, h4, h5, h6, h7, h8, h9, h10, h11, h12, h13, h14, h15, h16, h17, h18, h19, h20, h21, h22⟩, hr⟩ := sideObject_false j hs
  induction x0 generalizing x1 with
  | zero => simp [State.applyMirrorFuel]
  | succ k ih =>
    unfold State.applyMirrorFuel
    repeat' (first | with_reducible rfl | (simp [*]; done) | split | simp [*])

@[simp] theorem State.applyMirror_get (s : State) (j : Nat) (hs : sideObject j = false) (e0 : j ≠ 0x510007) :
    (State.applyMirror s).get j = s.get j := by
  simp [State.applyMirror, *]

@[simp] theorem State.serveMirror_get (s : State) (seq : U32) (addr : ℕ) (data : List Byte) (poison : Bool) (j : Nat) (hs : sideObject j = false) (e0 : j ≠ 0x510007) :
    (State.serveMirror s seq addr data poison).get j = s.get j := by
  unfold State.serveMirror; split <;> simp [*]

@[simp] theorem State.takeMirrors_get (s : State) (j : Nat) (hs : sideObject j = false) (e0 : j ≠ 0x510007) :
    (State.takeMirrors s).get j = s.get j := by
  obtain ⟨⟨h1, h2, h3, h4, h5, h6, h7, h8, h9, h10, h11, h12, h13, h14, h15, h16, h17, h18, h19, h20, h21, h22⟩, hr⟩ := sideObject_false j hs
  unfold State.takeMirrors
  repeat' (first
    | with_reducible rfl | (simp [*]; done) | split | (intro _)
    | (with_reducible refine (foldl_frame (fun u : State => u.get j) _ ?_ _ _).trans ?_))

@[simp] theorem State.reportMirror_get (s : State) (j : Nat) :
    (State.reportMirror s).get j = s.get j := State.get_of_obj _ _ (by simp) j

@[simp] theorem State.takeOver_get (s : State) (j : Nat) (hs : sideObject j = false) (e0 : j ≠ 0x510002) (e1 : j ≠ 0x510007) (e2 : j ≠ 0x719010) :
    (State.takeOver s).get j = s.get j := by
  simp [State.takeOver, *]

@[simp] theorem State.writeTakeover_get (s : State) (v : ℕ) (j : Nat) (hs : sideObject j = false) (e0 : j ≠ 0x510002) (e1 : j ≠ 0x510007) (e2 : j ≠ 0x51000A) (e3 : j ≠ 0x719010) :
    (State.writeTakeover s v).get j = s.get j := by
  obtain ⟨⟨h1, h2, h3, h4, h5, h6, h7, h8, h9, h10, h11, h12, h13, h14, h15, h16, h17, h18, h19, h20, h21, h22⟩, hr⟩ := sideObject_false j hs
  unfold State.writeTakeover
  repeat' (first
    | with_reducible rfl | (simp [*]; done) | split | (intro _)
    | (with_reducible refine (foldl_frame (fun u : State => u.get j) _ ?_ _ _).trans ?_)
    | (with_reducible refine (foldl_frame_fst (fun u : State => u.get j) _ ?_ _ _).trans ?_)
    | (with_reducible refine (foldl_frame_snd (fun u : State => u.get j) _ ?_ _ _).trans ?_)
    | (with_reducible refine (foldl_frame_mid (fun u : State => u.get j) _ ?_ _ _).trans ?_)
    | (with_reducible refine (foldl_frame_last2 (fun u : State => u.get j) _ ?_ _ _).trans ?_)
    | (with_reducible refine (foldl_frame_last3 (fun u : State => u.get j) _ ?_ _ _).trans ?_) | simp [*])

@[simp] theorem State.takeCredit_get (s : State) (p : ℕ) (credit : ℕ) (j : Nat) :
    (State.takeCredit s p credit).get j = s.get j := State.get_of_obj _ _ (by simp) j

@[simp] theorem State.takeData_get (s : State) (p : ℕ) (l : ℕ) (seq : ℕ) (payload : List Byte) (j : Nat) (e0 : j ≠ 0x719002) :
    (State.takeData s p l seq payload).get j = s.get j := by
  unfold State.takeData
  repeat' (first
    | with_reducible rfl | (simp [*]; done) | split | (intro _)
    | (with_reducible refine (foldl_frame (fun u : State => u.get j) _ ?_ _ _).trans ?_)
    | (with_reducible refine (foldl_frame_fst (fun u : State => u.get j) _ ?_ _ _).trans ?_)
    | (with_reducible refine (foldl_frame_snd (fun u : State => u.get j) _ ?_ _ _).trans ?_)
    | (with_reducible refine (foldl_frame_mid (fun u : State => u.get j) _ ?_ _ _).trans ?_)
    | (with_reducible refine (foldl_frame_last2 (fun u : State => u.get j) _ ?_ _ _).trans ?_)
    | (with_reducible refine (foldl_frame_last3 (fun u : State => u.get j) _ ?_ _ _).trans ?_) | simp [*])

@[simp] theorem State.onRecord_get (s : State) (rq : Requester) (f : Counts → Counts) (j : Nat) :
    (State.onRecord s rq f).get j = s.get j := State.get_of_obj _ _ (by simp) j

@[simp] theorem State.oweWriteback_get (s : State) (line : ℕ) (d : Decoded) (j : Nat) :
    (State.oweWriteback s line d).get j = s.get j := State.get_of_obj _ _ (by simp) j

@[simp] theorem State.noteWear_get (s : State) (unit : ℕ) (j : Nat) :
    (State.noteWear s unit).get j = s.get j := State.get_of_obj _ _ (by simp) j

@[simp] theorem State.takeChannel_get (s : State) (ch : ℕ) (n : ℕ) (j : Nat) :
    (State.takeChannel s ch n).get j = s.get j := State.get_of_obj _ _ (by simp) j

@[simp] theorem State.deliverLine_get (s : State) (rq : Requester) (wait : ℕ) (addr : ℕ) (data : List Byte) (poison : Bool) (j : Nat) :
    (State.deliverLine s rq wait addr data poison).get j = s.get j := State.get_of_obj _ _ (by simp) j

@[simp] theorem State.acceptRead_get (s : State) (die : ℕ) (off : ℕ) (addr : ℕ) (rq : Requester) (waited : ℕ) (reply : Option (ℕ × ℕ)) (j : Nat) :
    (State.acceptRead s die off addr rq waited reply).get j = s.get j := State.get_of_obj _ _ (by simp) j

@[simp] theorem State.uncorrRecord_get (s : State) (p : Place) (data : List Byte) (j : Nat) (hs : sideObject j = false) :
    (State.uncorrRecord s p data).get j = s.get j := by
  unfold State.uncorrRecord; split <;> simp [*]

@[simp] theorem State.countCorrection_get (s : State) (p : Place) (n : ℕ) (j : Nat) (e0 : j ≠ 0x716001) (e1 : j ≠ 0x716002) (e2 : j ≠ 0x71600B) (e3 : j ≠ 0x71600C) :
    (State.countCorrection s p n).get j = s.get j := by
  unfold State.countCorrection; (repeat' split) <;> simp [*]

@[simp] theorem State.oweScrub_get (s : State) (line : ℕ) (tag : U16) (d : Decoded) (j : Nat) :
    (State.oweScrub s line tag d).get j = s.get j := State.get_of_obj _ _ (by simp) j

@[simp] theorem State.takeBank_get (s : State) (die : ℕ) (bank : ℕ) (j : Nat) :
    (State.takeBank s die bank).get j = s.get j := State.get_of_obj _ _ (by simp) j

@[simp] theorem State.bankAccess_get (s : State) (rq : Requester) (die : ℕ) (o : ℕ) (wr : Option SpWrite) (errs : List WordErr) (parity : Bool) (j : Nat) (hs : sideObject j = false) (e0 : j ≠ 0x716009) (e1 : j ≠ 0x71600A) (e2 : j ≠ 0x717001) (e3 : j ≠ 0x718008) (e4 : j ≠ 0x71B001) :
    (State.bankAccess s rq die o wr errs parity).get j = s.get j := by
  obtain ⟨⟨h1, h2, h3, h4, h5, h6, h7, h8, h9, h10, h11, h12, h13, h14, h15, h16, h17, h18, h19, h20, h21, h22⟩, hr⟩ := sideObject_false j hs
  unfold State.bankAccess
  repeat' (first
    | with_reducible rfl | (simp [*]; done) | split | (intro _)
    | (with_reducible refine (foldl_frame (fun u : State => u.get j) _ ?_ _ _).trans ?_)
    | (with_reducible refine (foldl_frame_fst (fun u : State => u.get j) _ ?_ _ _).trans ?_)
    | (with_reducible refine (foldl_frame_snd (fun u : State => u.get j) _ ?_ _ _).trans ?_)
    | (with_reducible refine (foldl_frame_mid (fun u : State => u.get j) _ ?_ _ _).trans ?_)
    | (with_reducible refine (foldl_frame_last2 (fun u : State => u.get j) _ ?_ _ _).trans ?_)
    | (with_reducible refine (foldl_frame_last3 (fun u : State => u.get j) _ ?_ _ _).trans ?_) | simp [*])

@[simp] theorem State.readyDie_get (s : State) (die : ℕ) (j : Nat) (hs : sideObject j = false) (e0 : j ≠ 0x201001) :
    (State.readyDie s die).get j = s.get j := by
  unfold State.readyDie; split <;> simp [*]

@[simp] theorem State.writeHbmMode_get (s : State) (v : Byte) (j : Nat) (e0 : j ≠ 0x400001) :
    (State.writeHbmMode s v).get j = s.get j := by
  unfold State.writeHbmMode
  repeat' (first
    | with_reducible rfl | (simp [*]; done) | split | (intro _)
    | (with_reducible refine (foldl_frame (fun u : State => u.get j) _ ?_ _ _).trans ?_))

@[simp] theorem State.writeDdrMode_get (s : State) (v : Byte) (j : Nat) (e0 : j ≠ 0x400002) :
    (State.writeDdrMode s v).get j = s.get j := by
  simp [State.writeDdrMode, *]

@[simp] theorem State.putEp_get (s : State) (e : Endpoint) (j : Nat) :
    (State.putEp s e).get j = s.get j := State.get_of_obj _ _ (by simp) j

@[simp] theorem State.completion_get (s : State) (data : List Byte) (ep : Bool) (ur : Bool) (j : Nat) :
    (State.completion s data ep ur).get j = s.get j := State.get_of_obj _ _ (by simp) j

@[simp] theorem State.contextWrite_get (s : State) (n : ℕ) (off : ℕ) (len : ℕ) (v : ℕ) (j : Nat) (hs : sideObject j = false) :
    (State.contextWrite s n off len v).get j = s.get j := by
  unfold State.contextWrite; (repeat' split) <;> simp [*]

@[simp] theorem State.popRead_get (s : State) (n : ℕ) (off : ℕ) (len : ℕ) (j : Nat) (hs : sideObject j = false) (e0 : j ≠ 0x717001) (e1 : j ≠ 0x717007) :
    (State.popRead s n off len).2.get j = s.get j := by
  unfold State.popRead; split <;> simp [*]

@[simp] theorem State.windowAccess_get (s : State) (w : RingWriter) (p : HubPart) (len : ℕ) (wr : Option U64) (j : Nat) (hs : sideObject j = false) (e0 : j ≠ 0x717001) (e1 : j ≠ 0x717007) :
    (State.windowAccess s w p len wr).2.get j = s.get j := by
  unfold State.windowAccess; (repeat' split) <;> simp [*]

@[simp] theorem State.bar0_get (s : State) (off : ℕ) (len : ℕ) (wr : Option U64) (j : Nat) (hs : sideObject j = false) (e0 : j ≠ 0x717001) (e1 : j ≠ 0x717007) (e2 : j ≠ 0x71A00A) :
    (State.bar0 s off len wr).2.get j = s.get j := by
  obtain ⟨⟨h1, h2, h3, h4, h5, h6, h7, h8, h9, h10, h11, h12, h13, h14, h15, h16, h17, h18, h19, h20, h21, h22⟩, hr⟩ := sideObject_false j hs
  unfold State.bar0; (repeat' split) <;> simp [*]

@[simp] theorem State.serveBar0_get (s : State) (off : ℕ) (len : ℕ) (wr : Option U64) (j : Nat) (hs : sideObject j = false) (e0 : j ≠ 0x717001) (e1 : j ≠ 0x717007) (e2 : j ≠ 0x71A00A) :
    (State.serveBar0 s off len wr).get j = s.get j := by
  unfold State.serveBar0; split <;> simp [*]

@[simp] theorem State.inboundRead_get (s : State) (first : ℕ) (n : ℕ) (x : ℕ) (len : ℕ) (j : Nat) (hs : sideObject j = false) (e0 : j ≠ 0x717001) :
    (State.inboundRead s first n x len).2.2.2.get j = s.get j := by
  obtain ⟨⟨h1, h2, h3, h4, h5, h6, h7, h8, h9, h10, h11, h12, h13, h14, h15, h16, h17, h18, h19, h20, h21, h22⟩, hr⟩ := sideObject_false j hs
  unfold State.inboundRead
  repeat' (first
    | with_reducible rfl | (simp [*]; done) | split | (intro _)
    | (with_reducible refine (foldl_frame (fun u : State => u.get j) _ ?_ _ _).trans ?_))

@[simp] theorem State.inboundWrite_get (s : State) (first : ℕ) (n : ℕ) (x : ℕ) (data : List Byte) (poison : Bool) (j : Nat) (hs : sideObject j = false) :
    (State.inboundWrite s first n x data poison).2.get j = s.get j := by
  obtain ⟨⟨h1, h2, h3, h4, h5, h6, h7, h8, h9, h10, h11, h12, h13, h14, h15, h16, h17, h18, h19, h20, h21, h22⟩, hr⟩ := sideObject_false j hs
  unfold State.inboundWrite
  repeat' (first
    | with_reducible rfl | (simp [*]; done) | split | (intro _)
    | (with_reducible refine (foldl_frame (fun u : State => u.get j) _ ?_ _ _).trans ?_))

@[simp] theorem State.serveBar2_get (s : State) (off : ℕ) (len : ℕ) (wr : Option (List Byte × Bool)) (j : Nat) (hs : sideObject j = false) (e0 : j ≠ 0x717001) (e1 : j ≠ 0x71A001) (e2 : j ≠ 0x71A003) (e3 : j ≠ 0x71A004) :
    (State.serveBar2 s off len wr).get j = s.get j := by
  obtain ⟨⟨h1, h2, h3, h4, h5, h6, h7, h8, h9, h10, h11, h12, h13, h14, h15, h16, h17, h18, h19, h20, h21, h22⟩, hr⟩ := sideObject_false j hs
  unfold State.serveBar2
  repeat' (first
    | with_reducible rfl | (simp [*]; done) | split | (intro _)
    | (with_reducible refine (foldl_frame (fun u : State => u.get j) _ ?_ _ _).trans ?_)
    | (with_reducible refine (foldl_frame_fst (fun u : State => u.get j) _ ?_ _ _).trans ?_)
    | (with_reducible refine (foldl_frame_snd (fun u : State => u.get j) _ ?_ _ _).trans ?_)
    | (with_reducible refine (foldl_frame_mid (fun u : State => u.get j) _ ?_ _ _).trans ?_)
    | (with_reducible refine (foldl_frame_last2 (fun u : State => u.get j) _ ?_ _ _).trans ?_)
    | (with_reducible refine (foldl_frame_last3 (fun u : State => u.get j) _ ?_ _ _).trans ?_) | simp [*])

@[simp] theorem State.outbound_get (s : State) (y : ℕ) (len : ℕ) (wr : Option (List Byte)) (reply : List Byte) (j : Nat) :
    (State.outbound s y len wr reply).get j = s.get j := State.get_of_obj _ _ (by simp) j

@[simp] theorem State.rootAccess_get (s : State) (q : ℕ) (config : Bool) (a : ℕ) (len : ℕ) (wr : Option (List Byte)) (reply : List Byte) (j : Nat) :
    (State.rootAccess s q config a len wr reply).get j = s.get j := State.get_of_obj _ _ (by simp) j

@[simp] theorem State.serveWindow_get (s : State) (core : ℕ) (off : ℕ) (len : ℕ) (wr : Option U64) (j : Nat) (hs : sideObject j = false) (e0 : j ≠ 0x717001) (e1 : j ≠ 0x717007) :
    (State.serveWindow s core off len wr).get j = s.get j := by
  obtain ⟨⟨h1, h2, h3, h4, h5, h6, h7, h8, h9, h10, h11, h12, h13, h14, h15, h16, h17, h18, h19, h20, h21, h22⟩, hr⟩ := sideObject_false j hs
  unfold State.serveWindow; (repeat' split) <;> simp [*]

@[simp] theorem State.signal_get (s : State) (x : Signal) (j : Nat) :
    (State.signal s x).get j = s.get j := State.get_of_obj _ _ (by simp) j

@[simp] theorem State.serveRootPort_get (s : State) (q : ℕ) (addr : ℕ) (len : ℕ) (wr : Option (List Byte)) (msi : Option (ℕ × ℕ)) (j : Nat) (hs : sideObject j = false) (e0 : j ≠ 0x717001) (e1 : j ≠ 0x71A002) (e2 : j ≠ 0x71A003) :
    (State.serveRootPort s q addr len wr msi).get j = s.get j := by
  obtain ⟨⟨h1, h2, h3, h4, h5, h6, h7, h8, h9, h10, h11, h12, h13, h14, h15, h16, h17, h18, h19, h20, h21, h22⟩, hr⟩ := sideObject_false j hs
  unfold State.serveRootPort
  repeat' (first
    | with_reducible rfl | (simp [*]; done) | split | (intro _)
    | (with_reducible refine (foldl_frame (fun u : State => u.get j) _ ?_ _ _).trans ?_)
    | (with_reducible refine (foldl_frame_fst (fun u : State => u.get j) _ ?_ _ _).trans ?_)
    | (with_reducible refine (foldl_frame_snd (fun u : State => u.get j) _ ?_ _ _).trans ?_)
    | (with_reducible refine (foldl_frame_mid (fun u : State => u.get j) _ ?_ _ _).trans ?_)
    | (with_reducible refine (foldl_frame_last2 (fun u : State => u.get j) _ ?_ _ _).trans ?_)
    | (with_reducible refine (foldl_frame_last3 (fun u : State => u.get j) _ ?_ _ _).trans ?_) | simp [*])

@[simp] theorem State.sendHeld_get (s : State) (j : Nat) :
    (State.sendHeld s).get j = s.get j := State.get_of_obj _ _ (by simp) j

@[simp] theorem State.drivePerst_get (s : State) (j : Nat) :
    (State.drivePerst s).get j = s.get j := State.get_of_obj _ _ (by simp) j

@[simp] theorem State.writeRpPerst_get (s : State) (v : ℕ) (j : Nat) (e0 : j ≠ 0x112001) :
    (State.writeRpPerst s v).get j = s.get j := by
  simp [State.writeRpPerst, *]

@[simp] theorem State.deliverMsix_get (s : State) (n : ℕ) (j : Nat) (e0 : j ≠ 0x71A00B) :
    (State.deliverMsix s n).get j = s.get j := by
  unfold State.deliverMsix
  repeat' (first
    | with_reducible rfl | (simp [*]; done) | split | (intro _)
    | (with_reducible refine (foldl_frame (fun u : State => u.get j) _ ?_ _ _).trans ?_)
    | (with_reducible refine (foldl_frame_fst (fun u : State => u.get j) _ ?_ _ _).trans ?_)
    | (with_reducible refine (foldl_frame_snd (fun u : State => u.get j) _ ?_ _ _).trans ?_)
    | (with_reducible refine (foldl_frame_mid (fun u : State => u.get j) _ ?_ _ _).trans ?_)
    | (with_reducible refine (foldl_frame_last2 (fun u : State => u.get j) _ ?_ _ _).trans ?_)
    | (with_reducible refine (foldl_frame_last3 (fun u : State => u.get j) _ ?_ _ _).trans ?_) | simp [*])

@[simp] theorem State.kick_get (s : State) (j : Nat) :
    (State.kick s).get j = s.get j := State.get_of_obj _ _ (by simp) j

@[simp] theorem State.removeRails_get (s : State) (j : Nat) (hs : sideObject j = false) (e0 : j ≠ 0x201001) (e1 : j ≠ 0x2F2002) :
    (State.removeRails s).get j = s.get j := by
  simp [State.removeRails, *]

@[simp] theorem State.refused_get (s : State) (j : Nat) (e0 : j ≠ 0x717005) :
    (State.refused s).get j = s.get j := by
  simp [State.refused, *]

@[simp] theorem State.endHandle_get (s : State) (id : ℕ) (status : ℕ) (state : ℕ) (j : Nat) :
    (State.endHandle s id status state).get j = s.get j := State.get_of_obj _ _ (by simp) j

@[simp] theorem State.putTrust_get (s : State) (t : Trust) (j : Nat) :
    (State.putTrust s t).get j = s.get j := State.get_of_obj _ _ (by simp) j

@[simp] theorem State.putFlash_get (s : State) (f : Flash) (j : Nat) :
    (State.putFlash s f).get j = s.get j := State.get_of_obj _ _ (by simp) j

@[simp] theorem State.leaveRecovery_get (s : State) (j : Nat) :
    (State.leaveRecovery s).get j = s.get j := State.get_of_obj _ _ (by simp) j

@[simp] theorem State.restartWrite_get (s : State) (j : Nat) :
    (State.restartWrite s).get j = s.get j := State.get_of_obj _ _ (by simp) j

@[simp] theorem State.tornImage_get (s : State) (j : Nat) :
    (State.tornImage s).get j = s.get j := State.get_of_obj _ _ (by simp) j

@[simp] theorem State.deriveIdentity_get (s : State) (pattern : List Byte) (j : Nat) (e0 : j ≠ 0x500004) (e1 : j ≠ 0x600005) :
    (State.deriveIdentity s pattern).get j = s.get j := by
  simp [State.deriveIdentity, *]

@[simp] theorem State.enterRecovery_get (s : State) (j : Nat) (hs : sideObject j = false) (e0 : j ≠ 0x600001) (e1 : j ≠ 0x600004) :
    (State.enterRecovery s).get j = s.get j := by
  simp [State.enterRecovery, *]

@[simp] theorem State.startImage_get (s : State) (j : Nat) (e0 : j ≠ 0x100004) :
    (State.startImage s).get j = s.get j := by
  unfold State.startImage
  repeat' (first
    | with_reducible rfl | (simp [*]; done) | split | (intro _)
    | (with_reducible refine (foldl_frame (fun u : State => u.get j) _ ?_ _ _).trans ?_)
    | (with_reducible refine (foldl_frame_fst (fun u : State => u.get j) _ ?_ _ _).trans ?_)
    | (with_reducible refine (foldl_frame_snd (fun u : State => u.get j) _ ?_ _ _).trans ?_)
    | (with_reducible refine (foldl_frame_mid (fun u : State => u.get j) _ ?_ _ _).trans ?_)
    | (with_reducible refine (foldl_frame_last2 (fun u : State => u.get j) _ ?_ _ _).trans ?_)
    | (with_reducible refine (foldl_frame_last3 (fun u : State => u.get j) _ ?_ _ _).trans ?_) | simp [*])

@[simp] theorem State.measureRecord_get (s : State) (j : Nat) :
    (State.measureRecord s).get j = s.get j := State.get_of_obj _ _ (by simp) j

@[simp] theorem State.showCounters_get (s : State) (j : Nat) (e0 : j ≠ 0x600002) (e1 : j ≠ 0x600003) :
    (State.showCounters s).get j = s.get j := by
  simp [State.showCounters, *]

@[simp] theorem State.writeCert_get (s : State) (cert : List Byte) (j : Nat) (e0 : j ≠ 0x600005) (e1 : j ≠ 0x717005) :
    (State.writeCert s cert).1.get j = s.get j := by
  unfold State.writeCert; split <;> simp [*]

@[simp] theorem State.queueMeasure_get (s : State) (m : Measure) (j : Nat) :
    (State.queueMeasure s m).get j = s.get j := State.get_of_obj _ _ (by simp) j

@[simp] theorem State.extend_get (s : State) (n : ℕ) (d : List Byte) (j : Nat) :
    (State.extend s n d).get j = s.get j := State.get_of_obj _ _ (by simp) j

@[simp] theorem State.startQuote_get (s : State) (nonce : List Byte) (j : Nat) (e0 : j ≠ 0x610008) :
    (State.startQuote s nonce).get j = s.get j := by
  simp [State.startQuote, *]

@[simp] theorem State.violation_get (s : State) (j : Nat) (e0 : j ≠ 0x7F0001) :
    (State.violation s).get j = s.get j := by
  simp [State.violation, *]

@[simp] theorem refusable_get (x : State × Bool) (st : ℕ) (j : Nat) :
    (refusable x st).1.get j = x.1.get j := State.get_of_obj _ _ (by simp) j

@[simp] theorem State.resetWrite_get (s : State) (j : Nat) :
    (State.resetWrite s).get j = s.get j := State.get_of_obj _ _ (by simp) j

@[simp] theorem State.refreshCopy_get (s : State) (j : Nat) :
    (State.refreshCopy s).get j = s.get j := State.get_of_obj _ _ (by simp) j

@[simp] theorem State.putFmp_get (s : State) (f : FmpState) (j : Nat) :
    (State.putFmp s f).get j = s.get j := State.get_of_obj _ _ (by simp) j

@[simp] theorem State.putMailbox_get (s : State) (c : ℕ) (m : ℕ × List Byte) (j : Nat) :
    (State.putMailbox s c m).get j = s.get j := State.get_of_obj _ _ (by simp) j

@[simp] theorem State.transmit_get (s : State) (src : Source) (tag : ℕ) (bytes : List Byte) (j : Nat) (hs : sideObject j = false) (e0 : j ≠ 0x719008) :
    (State.transmit s src tag bytes).get j = s.get j := by
  unfold State.transmit; (repeat' split) <;> simp [*]

@[simp] theorem State.discard_get (s : State) (src : Source) (j : Nat) (e0 : j ≠ 0x7F0004) :
    (State.discard s src).get j = s.get j := by
  unfold State.discard; split <;> simp [*]

@[simp] theorem State.udpBeat_get (s : State) (addr : List Byte) (hb : Heartbeat) (j : Nat) (hs : sideObject j = false) (e0 : j ≠ 0x510002) (e1 : j ≠ 0x510007) (e2 : j ≠ 0x510008) (e3 : j ≠ 0x7F0004) :
    (State.udpBeat s addr hb).get j = s.get j := by
  unfold State.udpBeat; split <;> simp [*]

@[simp] theorem State.queueRequest_get (s : State) (r : Request) (j : Nat) :
    (State.queueRequest s r).get j = s.get j := State.get_of_obj _ _ (by simp) j

@[simp] theorem State.judge_get (s : State) (src : Source) (port : Option ℕ) (tag : ℕ) (bytes : List Byte) (j : Nat) (hs : sideObject j = false) (e0 : j ≠ 0x510002) (e1 : j ≠ 0x510007) (e2 : j ≠ 0x510008) (e3 : j ≠ 0x719008) (e4 : j ≠ 0x7F0003) (e5 : j ≠ 0x7F0004) :
    (State.judge s src port tag bytes).get j = s.get j := by
  obtain ⟨⟨h1, h2, h3, h4, h5, h6, h7, h8, h9, h10, h11, h12, h13, h14, h15, h16, h17, h18, h19, h20, h21, h22⟩, hr⟩ := sideObject_false j hs
  unfold State.judge
  repeat' (first
    | with_reducible rfl | (simp [*]; done) | split | (intro _)
    | (with_reducible refine (foldl_frame (fun u : State => u.get j) _ ?_ _ _).trans ?_)
    | (with_reducible refine (foldl_frame_fst (fun u : State => u.get j) _ ?_ _ _).trans ?_)
    | (with_reducible refine (foldl_frame_snd (fun u : State => u.get j) _ ?_ _ _).trans ?_)
    | (with_reducible refine (foldl_frame_mid (fun u : State => u.get j) _ ?_ _ _).trans ?_)
    | (with_reducible refine (foldl_frame_last2 (fun u : State => u.get j) _ ?_ _ _).trans ?_)
    | (with_reducible refine (foldl_frame_last3 (fun u : State => u.get j) _ ?_ _ _).trans ?_) | simp [*])

@[simp] theorem State.receive_get (s : State) (src : Source) (port : Option ℕ) (tag : ℕ) (bytes : List Byte) (j : Nat) (hs : sideObject j = false) (e0 : j ≠ 0x510002) (e1 : j ≠ 0x510007) (e2 : j ≠ 0x510008) (e3 : j ≠ 0x719008) (e4 : j ≠ 0x7F0003) (e5 : j ≠ 0x7F0004) :
    (State.receive s src port tag bytes).get j = s.get j := by
  unfold State.receive; split <;> simp [*]

@[simp] theorem State.showSessions_get (s : State) (j : Nat) (e0 : j ≠ 0x101006) :
    (State.showSessions s).get j = s.get j := by
  simp [State.showSessions, *]

@[simp] theorem State.closeSession_get (s : State) (sid : ℕ) (j : Nat) (e0 : j ≠ 0x101006) :
    (State.closeSession s sid).get j = s.get j := by
  simp [State.closeSession, *]

@[simp] theorem State.pathOf_get (s : State) (r : Request) (j : Nat) (e0 : j ≠ 0x7F0005) :
    (State.pathOf s r).2.get j = s.get j := by
  unfold State.pathOf; (repeat' split) <;> simp [*]

@[simp] theorem State.reply_get (s : State) (r : Request) (a : Answer) (j : Nat) (hs : sideObject j = false) (e0 : j ≠ 0x719008) :
    (State.reply s r a).get j = s.get j := by
  simp [State.reply, *]

@[simp] theorem State.readEntry_get (s : State) (p : Path) (n : ℕ) (j : Nat) (e0 : j ≠ 0x717005) (e1 : j ≠ 0x7F0001) :
    (State.readEntry s p n).2.get j = s.get j := by
  unfold State.readEntry; (repeat' split) <;> simp [*]

@[simp] theorem State.readEntries_get (x0 : ℕ) (x1 : State) (x2 : Path) (x3 : List Byte) (x4 : ℕ) (x5 : ℕ) (x6 : List Byte) (j : Nat) (e0 : j ≠ 0x717005) (e1 : j ≠ 0x7F0001) :
    (State.readEntries x0 x1 x2 x3 x4 x5 x6).2.get j = x1.get j := by
  induction x0 generalizing x1 x4 x6 with
  | zero => simp [State.readEntries]
  | succ k ih =>
    unfold State.readEntries
    repeat' (first | with_reducible rfl | (simp [*]; done) | split | simp [*])

@[simp] theorem State.serveFmpRead_get (r : Request) (p : Path) (s : State) (j : Nat) (e0 : j ≠ 0x717005) (e1 : j ≠ 0x7F0001) :
    (State.serveFmpRead r p s).2.get j = s.get j := by
  simp [State.serveFmpRead, *]

@[simp] theorem State.serveReadSeg_get (r : Request) (p : Path) (s : State) (j : Nat) (e0 : j ≠ 0x717005) (e1 : j ≠ 0x7F0001) :
    (State.serveReadSeg r p s).2.get j = s.get j := by
  unfold State.serveReadSeg; (repeat' split) <;> simp [*]

@[simp] theorem State.putTransfer_get (s : State) (src : Source) (n : ℕ) (t : Option Transfer) (j : Nat) :
    (State.putTransfer s src n t).get j = s.get j := State.get_of_obj _ _ (by simp) j

@[simp] theorem State.servePoll_get (r : Request) (x1 : Path) (s : State) (j : Nat) :
    (State.servePoll r x1 s).2.get j = s.get j := State.get_of_obj _ _ (by simp) j

@[simp] theorem State.serveOpen_get (r : Request) (x1 : Path) (s : State) (j : Nat) (e0 : j ≠ 0x717005) :
    (State.serveOpen r x1 s).2.get j = s.get j := by
  unfold State.serveOpen; (repeat' split) <;> simp [*]

@[simp] theorem State.putSession_get (s : State) (x : Session) (j : Nat) :
    (State.putSession s x).get j = s.get j := State.get_of_obj _ _ (by simp) j

@[simp] theorem State.serveClose_get (r : Request) (p : Path) (s : State) (j : Nat) (e0 : j ≠ 0x101006) :
    (State.serveClose r p s).2.get j = s.get j := by
  unfold State.serveClose; split <;> simp [*]

@[simp] theorem State.takePort_get (s : State) (die : ℕ) (port : ℕ) (j : Nat) :
    (State.takePort s die port).get j = s.get j := State.get_of_obj _ _ (by simp) j

@[simp] theorem State.dropXfer_get (s : State) (die : ℕ) (port : ℕ) (x : Xfer) (j : Nat) :
    (State.dropXfer s die port x).get j = s.get j := State.get_of_obj _ _ (by simp) j

@[simp] theorem State.badBeats_get (s : State) (die : ℕ) (n : ℕ) (j : Nat) (hs : sideObject j = false) (e0 : j ≠ 0x718008) (e1 : j ≠ 0x71B001) :
    (State.badBeats s die n).get j = s.get j := by
  obtain ⟨⟨h1, h2, h3, h4, h5, h6, h7, h8, h9, h10, h11, h12, h13, h14, h15, h16, h17, h18, h19, h20, h21, h22⟩, hr⟩ := sideObject_false j hs
  unfold State.badBeats
  repeat' (first
    | with_reducible rfl | (simp [*]; done) | split | (intro _)
    | (with_reducible refine (foldl_frame (fun u : State => u.get j) _ ?_ _ _).trans ?_))

@[simp] theorem State.receiveFrame_get (s : State) (f : LinkFrame) (bad : List ℕ) (headerBad : Bool) (j : Nat) (hs : sideObject j = false) (e0 : j ≠ 0x717001) (e1 : j ≠ 0x718008) (e2 : j ≠ 0x71B001) :
    (State.receiveFrame s f bad headerBad).get j = s.get j := by
  unfold State.receiveFrame; split <;> simp [*]

@[simp] theorem State.accRound_get (s : State) (die : ℕ) (bank : ℕ) (j : Nat) (hs : sideObject j = false) (e0 : j ≠ 0x713001) (e1 : j ≠ 0x713002) (e2 : j ≠ 0x713003) (e3 : j ≠ 0x713009) (e4 : j ≠ 0x716009) (e5 : j ≠ 0x71600A) (e6 : j ≠ 0x718002) (e7 : j ≠ 0x718004) (e8 : j ≠ 0x718005) (e9 : j ≠ 0x718008) (e10 : j ≠ 0x71B001) :
    (State.accRound s die bank).get j = s.get j := by
  obtain ⟨⟨h1, h2, h3, h4, h5, h6, h7, h8, h9, h10, h11, h12, h13, h14, h15, h16, h17, h18, h19, h20, h21, h22⟩, hr⟩ := sideObject_false j hs
  unfold State.accRound
  repeat' (first
    | with_reducible rfl | (simp [*]; done) | split | (intro _)
    | (with_reducible refine (foldl_frame (fun u : State => u.get j) _ ?_ _ _).trans ?_))

@[simp] theorem State.mergeTo_get (s : State) (k : ℕ) (adds : List (ℕ × U64)) (j : Nat) (e0 : j ≠ 0x718007) :
    (State.mergeTo s k adds).get j = s.get j := by
  unfold State.mergeTo
  repeat' (first
    | with_reducible rfl | (simp [*]; done) | split | (intro _)
    | (with_reducible refine (foldl_frame (fun u : State => u.get j) _ ?_ _ _).trans ?_)
    | (with_reducible refine (foldl_frame_fst (fun u : State => u.get j) _ ?_ _ _).trans ?_)
    | (with_reducible refine (foldl_frame_snd (fun u : State => u.get j) _ ?_ _ _).trans ?_)
    | (with_reducible refine (foldl_frame_mid (fun u : State => u.get j) _ ?_ _ _).trans ?_)
    | (with_reducible refine (foldl_frame_last2 (fun u : State => u.get j) _ ?_ _ _).trans ?_)
    | (with_reducible refine (foldl_frame_last3 (fun u : State => u.get j) _ ?_ _ _).trans ?_) | simp [*])

@[simp] theorem State.mergeAdds_get (s : State) (die : ℕ) (port : ℕ) (j : Nat) (e0 : j ≠ 0x718007) :
    (State.mergeAdds s die port).get j = s.get j := by
  unfold State.mergeAdds
  repeat' (first
    | with_reducible rfl | (simp [*]; done) | split | (intro _)
    | (with_reducible refine (foldl_frame (fun u : State => u.get j) _ ?_ _ _).trans ?_))

@[simp] theorem State.sendFrame_get (s : State) (die : ℕ) (port : ℕ) (k : ℕ) (x : Xfer) (j : Nat) (e0 : j ≠ 0x718001) :
    (State.sendFrame s die port k x).1.get j = s.get j := by
  unfold State.sendFrame
  repeat' (first
    | with_reducible rfl | (simp [*]; done) | split | (intro _)
    | (with_reducible refine (foldl_frame (fun u : State => u.get j) _ ?_ _ _).trans ?_)
    | (with_reducible refine (foldl_frame_fst (fun u : State => u.get j) _ ?_ _ _).trans ?_)
    | (with_reducible refine (foldl_frame_snd (fun u : State => u.get j) _ ?_ _ _).trans ?_)
    | (with_reducible refine (foldl_frame_mid (fun u : State => u.get j) _ ?_ _ _).trans ?_)
    | (with_reducible refine (foldl_frame_last2 (fun u : State => u.get j) _ ?_ _ _).trans ?_)
    | (with_reducible refine (foldl_frame_last3 (fun u : State => u.get j) _ ?_ _ _).trans ?_) | simp [*])

@[simp] theorem State.sendOwner_get (s : State) (id : ArbId) (w : Waiter) (j : Nat) (e0 : j ≠ 0x718001) (e1 : j ≠ 0x719001) :
    (State.sendOwner s id w).1.get j = s.get j := by
  unfold State.sendOwner; (repeat' split) <;> simp [*]

@[simp] theorem State.linkRound_get (s : State) (id : ArbId) (l : List Waiter) (j : Nat) (e0 : j ≠ 0x718002) (e1 : j ≠ 0x718004) (e2 : j ≠ 0x718005) :
    (State.linkRound s id l).get j = s.get j := by
  unfold State.linkRound; split <;> simp [*]

@[simp] theorem State.linkCycle_get (s : State) (id : ArbId) (j : Nat) (e0 : j ≠ 0x718001) (e1 : j ≠ 0x718002) (e2 : j ≠ 0x718003) (e3 : j ≠ 0x718004) (e4 : j ≠ 0x718005) (e5 : j ≠ 0x719001) :
    (State.linkCycle s id).get j = s.get j := by
  unfold State.linkCycle
  repeat' (first
    | with_reducible rfl | (simp [*]; done) | split | (intro _)
    | (with_reducible refine (foldl_frame (fun u : State => u.get j) _ ?_ _ _).trans ?_)
    | (with_reducible refine (foldl_frame_fst (fun u : State => u.get j) _ ?_ _ _).trans ?_)
    | (with_reducible refine (foldl_frame_snd (fun u : State => u.get j) _ ?_ _ _).trans ?_)
    | (with_reducible refine (foldl_frame_mid (fun u : State => u.get j) _ ?_ _ _).trans ?_)
    | (with_reducible refine (foldl_frame_last2 (fun u : State => u.get j) _ ?_ _ _).trans ?_)
    | (with_reducible refine (foldl_frame_last3 (fun u : State => u.get j) _ ?_ _ _).trans ?_) | simp [*])

@[simp] theorem State.linkTurn_get (s : State) (id : ArbId) (j : Nat) (e0 : j ≠ 0x718001) (e1 : j ≠ 0x718002) (e2 : j ≠ 0x718003) (e3 : j ≠ 0x718004) (e4 : j ≠ 0x718005) (e5 : j ≠ 0x718007) (e6 : j ≠ 0x719001) :
    (State.linkTurn s id).get j = s.get j := by
  unfold State.linkTurn; (repeat' split) <;> simp [*]

@[simp] theorem State.putPower_get (s : State) (p : PowerState) (j : Nat) :
    (State.putPower s p).get j = s.get j := State.get_of_obj _ _ (by simp) j

@[simp] theorem State.descend_get (s : State) (k : ℕ) (dwell : ℕ) (j : Nat) :
    (State.descend s k dwell).get j = s.get j := State.get_of_obj _ _ (by simp) j

@[simp] theorem State.loseHbm_get (s : State) (j : Nat) :
    (State.loseHbm s).get j = s.get j := State.get_of_obj _ _ (by simp) j

@[simp] theorem State.perform_get (s : State) (acc : Access) (j : Nat) (hs : sideObject j = false) (e0 : j ≠ 0x510007) (e1 : j ≠ 0x717001) (e2 : j ≠ 0x717007) (e3 : j ≠ 0x719009) (e4 : j ≠ 0x71900A) (e5 : j ≠ 0x71A001) (e6 : j ≠ 0x71A002) (e7 : j ≠ 0x71A003) (e8 : j ≠ 0x71A004) (e9 : j ≠ 0x71A00A) :
    (State.perform s acc).get j = s.get j := by
  unfold State.perform; split <;> simp [*]

@[simp] theorem State.assertHolds_get (s : State) (j : Nat) :
    (State.assertHolds s).get j = s.get j := State.get_of_obj _ _ (by simp) j

@[simp] theorem State.thermalEvent_get (s : State) (code : ℕ) (j : Nat) (hs : sideObject j = false) :
    (State.thermalEvent s code).get j = s.get j := by
  unfold State.thermalEvent; split <;> simp [*]

@[simp] theorem State.followCycle_get (s : State) (v : ℤ) (j : Nat) (e0 : j ≠ 0x2F2001) :
    (State.followCycle s v).get j = s.get j := by
  unfold State.followCycle
  repeat' (first
    | with_reducible rfl | (simp [*]; done) | split | (intro _)
    | (with_reducible refine (foldl_frame (fun u : State => u.get j) _ ?_ _ _).trans ?_)
    | (with_reducible refine (foldl_frame_fst (fun u : State => u.get j) _ ?_ _ _).trans ?_)
    | (with_reducible refine (foldl_frame_snd (fun u : State => u.get j) _ ?_ _ _).trans ?_)
    | (with_reducible refine (foldl_frame_mid (fun u : State => u.get j) _ ?_ _ _).trans ?_)
    | (with_reducible refine (foldl_frame_last2 (fun u : State => u.get j) _ ?_ _ _).trans ?_)
    | (with_reducible refine (foldl_frame_last3 (fun u : State => u.get j) _ ?_ _ _).trans ?_) | simp [*])

@[simp] theorem State.tripNow_get (s : State) (j : Nat) (hs : sideObject j = false) (e0 : j ≠ 0x201001) (e1 : j ≠ 0x2F2002) (e2 : j ≠ 0x71100C) :
    (State.tripNow s).get j = s.get j := by
  simp [State.tripNow, *]

@[simp] theorem State.enterThrottle_get (s : State) (j : Nat) (hs : sideObject j = false) (e0 : j ≠ 0x200009) (e1 : j ≠ 0x20000A) (e2 : j ≠ 0x711007) :
    (State.enterThrottle s).get j = s.get j := by
  simp [State.enterThrottle, *]

@[simp] theorem State.storeVin_get (s : State) (mv : ℕ) (j : Nat) (e0 : j ≠ 0x202001) (e1 : j ≠ 0x202002) :
    (State.storeVin s mv).get j = s.get j := by
  simp [State.storeVin, *]

@[simp] theorem State.loseHub_get (s : State) (l : List (ℕ × ℕ)) (j : Nat) (hs : sideObject j = false) (e0 : j ≠ 0x71B006) :
    (State.loseHub s l).get j = s.get j := by
  simp [State.loseHub, *]

@[simp] theorem State.sendOwed_get (s : State) (p : ℕ) (j : Nat) :
    (State.sendOwed s p).get j = s.get j := State.get_of_obj _ _ (by simp) j

@[simp] theorem State.watchStalls_get (s : State) (p : ℕ) (j : Nat) :
    (State.watchStalls s p).get j = s.get j := State.get_of_obj _ _ (by simp) j

@[simp] theorem State.landTransit_get (s : State) (all : Bool) (j : Nat) (hs : sideObject j = false) :
    (State.landTransit s all).get j = s.get j := by
  obtain ⟨⟨h1, h2, h3, h4, h5, h6, h7, h8, h9, h10, h11, h12, h13, h14, h15, h16, h17, h18, h19, h20, h21, h22⟩, hr⟩ := sideObject_false j hs
  unfold State.landTransit
  repeat' (first
    | with_reducible rfl | (simp [*]; done) | split | (intro _)
    | (with_reducible refine (foldl_frame (fun u : State => u.get j) _ ?_ _ _).trans ?_)
    | (with_reducible refine (foldl_frame_fst (fun u : State => u.get j) _ ?_ _ _).trans ?_)
    | (with_reducible refine (foldl_frame_snd (fun u : State => u.get j) _ ?_ _ _).trans ?_)
    | (with_reducible refine (foldl_frame_mid (fun u : State => u.get j) _ ?_ _ _).trans ?_)
    | (with_reducible refine (foldl_frame_last2 (fun u : State => u.get j) _ ?_ _ _).trans ?_)
    | (with_reducible refine (foldl_frame_last3 (fun u : State => u.get j) _ ?_ _ _).trans ?_) | simp [*])

@[simp] theorem State.issueAdvance_get (s : State) (j : Nat) :
    (State.issueAdvance s).get j = s.get j := State.get_of_obj _ _ (by simp) j

@[simp] theorem State.countTick_get (s : State) (j : Nat) (e0 : j ≠ 0x203001) :
    (State.countTick s).get j = s.get j := by
  simp [State.countTick, *]

@[simp] theorem State.passDie_get (s : State) (d : ℕ) (j : Nat) (e0 : j ≠ 0x711006) (e1 : j ≠ 0x715005) (e2 : j ≠ 0x715007) :
    (State.passDie s d).get j = s.get j := by
  unfold State.passDie; split <;> simp [*]

@[simp] theorem State.countWaits_get (s : State) (j : Nat) (e0 : j ≠ 0x71700D) (e1 : j ≠ 0x71700E) :
    (State.countWaits s).get j = s.get j := by
  simp [State.countWaits, *]

@[simp] theorem State.watchIdle_get (s : State) (j : Nat) :
    (State.watchIdle s).get j = s.get j := State.get_of_obj _ _ (by simp) j

@[simp] theorem State.coreStore_get (s : State) (off : ℕ) (data : List Byte) (j : Nat) :
    (State.coreStore s off data).get j = s.get j := State.get_of_obj _ _ (by simp) j

@[simp] theorem State.keepBytes_get (s : State) (base : ℕ) (o : ℕ) (data : List Byte) (ok : ℕ → Bool) (j : Nat) :
    (State.keepBytes s base o data ok).get j = s.get j := State.get_of_obj _ _ (by simp) j

@[simp] theorem State.putSide_get (s : State) (x : Sideband) (j : Nat) :
    (State.putSide s x).get j = s.get j := State.get_of_obj _ _ (by simp) j

@[simp] theorem State.takeAddress_get (s : State) (addr : ℕ) (j : Nat) :
    (State.takeAddress s addr).get j = s.get j := State.get_of_obj _ _ (by simp) j

@[simp] theorem State.putWear_get (s : State) (w : Wear) (j : Nat) :
    (State.putWear s w).get j = s.get j := State.get_of_obj _ _ (by simp) j

end Sys2Proof.Machine
end

