-- ==== Sys2Proof/WellFormed.lean ====
section
/-! DEFINITION. Which command operands name something the module has: die, engine, port, ring and object numbers in
range, and byte sequences of the length their rule gives. Every meaning is total; outside these ranges a command
finds nothing to act on. -/

namespace Sys2Proof

/-- A compute die (R16). -/
def okDie (die : Nat) : Bool := die < 20

/-- An Eik-3 engine of a compute die, or its collector, as a requester of an accumulator bank (R107). -/
def okRequester (r : Nat) : Bool := r < 41

/-- A stream engine and thread (R219). -/
def okThread (eng thr : Nat) : Bool := eng < 22 && thr < 64

/-- A lace of a stream engine (R229). -/
def okLace (eng lace : Nat) : Bool := eng < 22 && lace < 16

/-- A Sundu port (R275). -/
def okPort (port : Nat) : Bool := port < 8

/-- A line of 64 bytes. -/
def okLine (data : List Byte) : Bool := data.length == 64

/-- A 52-bit physical address at a line boundary (R8). -/
def okLineAddr (addr : Nat) : Bool := addr < 2 ^ 52 && addr % 64 == 0

/-- Symbol errors of a stored word: the 72 symbols of the code and the 8 bytes of TAG and reserved bytes behind them, no two
alike, none an error of value 0 (R203, R204). -/
def okErrors (err : List (Nat × Byte)) : Bool :=
  err.all (fun e => e.1 < 80 && e.2 != 0) && (err.map Prod.fst).Nodup

/-- Errors in words of a line or row of `n` words of 64 bits (R192, R195). -/
def okWordErrs (n : Nat) (errs : List WordErr) : Bool :=
  errs.all (fun e => e.word < n) && (errs.map WordErr.word).Nodup

/-- A requester that exists (R199). -/
def Requester.wf : Requester → Bool
  | .engine die eng => okDie die && eng < 40
  | .stream eng thr => okThread eng thr
  | .hub => true
  | .remote die => die < 25

/-- A writer of the PUSH windows (R312). -/
def RingWriter.wf : RingWriter → Bool
  | .core n => n < 16
  | .endpoint => true
  | .fabric fd => fd < 2

/-- A source of a priority that exists (R265). -/
def PrioSource.wf : PrioSource → Bool
  | .thread eng thr => okThread eng thr
  | .carried prio => prio < 16
  | .lane vl => vl < 4
  | .engine => true
  | .collector => true
  | .hub => true
  | .fabric => true

/-- What a transfer can ask of its destination (R255, R262, R268, R276). -/
def Load.wf : Load → Bool
  | .read addr lines => okLineAddr addr && lines ≤ 64
  | .write addr => okLineAddr addr
  | .add obj _ => obj < 16384
  | .fabric port vl => okPort port && vl < 4
  | .data addr => okLineAddr addr
  | .command => true
  | .lap => true
  | .done => true

/-- A frame of the welt network: at most 7 beats of 64 bytes, of a transfer of at most 64, to a die of the module (R251, R252, R268). -/
def Frame.wf (f : Frame) : Bool :=
  f.dst < 25 && f.source.wf && f.load.wf && f.beats.length ≤ 7 && f.beats.length + f.more ≤ 64 && f.beats.all fun b => okLine b.data

/-- A request that a bank or channel port can grant (R191, R198, R202). -/
def Job.wf : Job → Bool
  | .none => true
  | .spAccess off wr errs _ => off < 2 ^ 25 && off % 64 == 0 && okWordErrs 8 errs && (wr.all fun w => okLine w.data)
  | .hbmRead addr rq => okLineAddr addr && rq.wf
  | .hbmWrite addr data _ => okLineAddr addr && okLine data
  | .hbmMerge addr _ data _ rq err => okLineAddr addr && okLine data && rq.wf && okErrors err

/-- An arbiter of the module (R263). -/
def ArbId.wf : ArbId → Bool
  | .spBank die bank => okDie die && bank < 64
  | .accBank die bank => okDie die && bank < 64
  | .hbmPort die ch => okDie die && ch < 16
  | .weltLink die dir => okDie die && dir != .localPort
  | .egress port => okPort port

/-- A message whose header fields fit their widths and whose data has the length it states (R291). -/
def Msg.wf (m : Msg) : Bool :=
  m.mtype < 64 && m.dst < 4096 && m.src < 4096 && m.addr < 2 ^ 52 && m.txtag < 65536 && m.hops < 16 &&
    m.data.length ≤ 4096

/-- An access that could wake the module (R379). -/
def Access.wf : Access → Bool
  | .ringPush w ring entry => w.wf && ring < 8192 && entry.length ≤ 128
  | .ringIndex ring _ _ => ring < 8192
  | .syncSet obj _ => obj < 16384
  | .syncAdd obj _ => obj < 16384
  | .vector v => v < 4096
  | .bar0 off len _ => off + len ≤ 2 ^ 24
  | .bar2 _ len _ => len ≤ 4096
  | .rootPort q _ len _ msi => q < 2 && len ≤ 4096 && msi.all fun x => x.1 < 16 && x.2 < 2048
  | .fabRead m => m.wf
  | .fabWrite m => m.wf
  | .fabSignal m => m.wf
  | .fabRingPush m => m.wf
  | .fabMulticast m => m.wf
  | .mirror _ addr data _ => okLineAddr addr && okLine data
  | .window core off len _ => core < 16 && off < 2 ^ 24 && len ≤ 8

/-- The operands of a command are in range. -/
def Instr.wf : Instr → Bool
  | .spmm => true
  | .spgemm => true
  | .sddmm => true
  | .conv => true
  | .gather => true
  | .scatter => true
  | .eltwise => true
  | .reduce => true
  | .softmax => true
  | .formatConvertToBlocked => true
  | .formatConvertToPlain => true
  | .blockTranspose => true
  | .predict => true
  | .transposeCopy => true
  | .unknownOperation => true
  | .issueWait => true
  | .issueSignal => true
  | .issueSkipped => true
  | .descriptorArrival die => okDie die
  | .lastHeaderCheck => true
  | .metadataDue die _ _ => okDie die
  | .lastingStart die => okDie die
  | .phaseCountersStart die => okDie die
  | .phaseCounterExpire die => okDie die
  | .barrierArrivalReceive die => okDie die
  | .barrierReleaseArrival die => okDie die
  | .nominalRelease die => okDie die
  | .completionRecordWrite => true
  | .lapStep die => okDie die
  | .lapComplete die => okDie die
  | .collectorSlot die _ => okDie die
  | .accRowUpdate die requester errs _ => okDie die && okRequester requester && okWordErrs 8 errs
  | .conflictQueueServe die q => okDie die && q.bank < 64 && okWordErrs 8 q.errs
  | .hbmReadAccept addr rq _ => okLineAddr addr && rq.wf
  | .hbmReadDecode _ err => okErrors err
  | .holdEnd die => okDie die
  | .hbmReadDeliver _ => true
  | .supplyHoldStart h => okDie h.die
  | .supplyHoldEnd die => okDie die
  | .hbmWriteAccept addr data _ => okLineAddr addr && okLine data
  | .readModifyWrite addr _ data _ r => okLineAddr addr && okLine data && r.rq.wf && okErrors r.err
  | .poisonWriteback addr => okLineAddr addr
  | .hbmRefresh die channel bank _ => okDie die && channel < 16 && bank < 64
  | .patrolScrubRead addr err => okLineAddr addr && okErrors err
  | .scrubWriteback addr => okLineAddr addr
  | .tierRead addr rq err => okLineAddr addr && rq.wf && okErrors err
  | .tierWrite addr data _ => okLineAddr addr && okLine data
  | .scratchpadAccess die off wr errs _ =>
    okDie die && off < 2 ^ 25 && off % 64 == 0 && okWordErrs 8 errs && (match wr with | some w => okLine w.data | none => true)
  | .spEnableWrite die _ => okDie die
  | .spBankFillDone die bank => okDie die && bank < 64
  | .hbmEccModeWrite _ => true
  | .ddrEccModeWrite _ => true
  | .hbmFillDone die => okDie die
  | .ddrFillDone channel => channel < 8
  | .taskWindowWrite task fld _ => task < 256 && 1 ≤ fld && fld ≤ 6
  | .start => true
  | .rearm => true
  | .stop => true
  | .stopComplete eng thr => okThread eng thr
  | .query => true
  | .invalidCommand => true
  | .streamBatchFetch eng thr => okThread eng thr
  | .streamBatchLanded eng thr => okThread eng thr
  | .streamEntryIssue eng thr _ => okThread eng thr
  | .streamEntryComplete eng thr => okThread eng thr
  | .streamPassComplete eng thr => okThread eng thr
  | .laceWindowPush eng lace _ => okLace eng lace
  | .laceWindowPop eng lace _ => okLace eng lace
  | .laceStatusWrite eng lace _ => okLace eng lace
  | .ringPushWindow w ring entry _ => w.wf && ring < 8192 && entry.length ≤ 128
  | .ringPopWindow ring _ => ring < 8192
  | .ringIndexWrite ring _ _ => ring < 8192
  | .ringStatusWrite ring _ _ => ring < 8192
  | .syncWindowSet obj _ => obj < 16384
  | .syncWindowAdd obj _ _ => obj < 16384
  | .syncAddArrival adds _ => adds.all fun a => a.1 < 16384
  | .weltFrameReceive die _ f => die < 25 && (match f.own with | some x => x.wf | none => true) && f.bad.all (fun i => i < 7)
  | .arbiterGrant arb arrivals => arb.wf && arrivals.all fun r => r.port < 42 && r.src.wf && r.job.wf
  | .phyTrainingComplete port => okPort port
  | .helloSend port => okPort port
  | .helloReceive port record _ => okPort port && record.length == 64
  | .flitReceive port flit _ _ => okPort port && flit.length == 256
  | .replayTimeout port => okPort port
  | .retrainDone port => okPort port
  | .retrainTimeout port => okPort port
  | .pluggableInsert port _ => okPort port
  | .pluggableRemove port => okPort port
  | .portEnableWrite _ => true
  | .messageForward ingress m => (match ingress with | some p => okPort p | none => true) && m.wf
  | .fabricRead m => m.wf
  | .fabricWrite m => m.wf
  | .fabricSignal m => m.wf
  | .fabricRingPush m => m.wf
  | .fabricFmp m => m.wf
  | .readData m => m.wf
  | .fabricAck m => m.wf
  | .probe m => m.wf
  | .probeReply m info => m.wf && info.portStates.length == 8
  | .setId id => id < 4096
  | .setRoute _ _ _ _ => true
  | .sweepEnd => true
  | .linkEvent _ port _ => okPort port
  | .mcData m => m.wf && m.mtype == 0x10
  | .mcAck g _ _ _ => g < 1023
  | .mcAckReport g => g < 1023
  | .mcCtlShed g _ => g < 1023
  | .mcCtlRejoin g _ => g < 1023
  | .mcCtlAdmit g _ => g < 1023
  | .mcCtlRemove g => g < 1023
  | .mcRejoinAdmit g _ => g < 1023
  | .mcBehindTimeout g _ => g < 1023
  | .mcModeDisable g => g < 1023
  | .mcModeSet g _ => g < 1023
  | .mcRejoin g => g < 1023
  | .egressStallTimeout port vl => okPort port && vl < 4
  | .heartbeatSend => true
  | .heartbeatReceive port _ => okPort port
  | .twinLost => true
  | .takeoverEnWrite _ => true
  | .mirWrite _ addr data _ => okLineAddr addr && okLine data
  | .mirAck _ => true
  | .mirStateWrite region _ => region < 16
  | .sendSlotDoorbell slot f => slot < 16 && f.data.length ≤ 4096
  | .sendSlotTimeout slot => slot < 16
  | .bar0Access off len _ => off + len ≤ 2 ^ 24
  | .bar2Access _ len _ => len ≤ 4096
  | .outboundAccess x len _ _ => x.core < 16 && x.off < 2 ^ 40 && len ≤ 8
  | .rootPortRequest q _ len r => q < 2 && len ≤ 4096 && r.msi.all fun x => x.1 < 16 && x.2 < 2048
  | .perstNAssert => true
  | .perstNDeassert => true
  | .endpointLinkUp => true
  | .endpointD0Entry => true
  | .rpPerstWrite _ => true
  | .vectorRaise v _ => v < 4096
  | .vectorDeliver v => v < 4096
  | .wdtKick _ => true
  | .wdtHalfPeriod => true
  | .wdtExpire => true
  | .corePoisonLoad core addr => core < 16 && addr < 2 ^ 52
  | .measureLast addr => addr < 2 ^ 52
  | .measureRuntime digest => digest.length == 64
  | .measureDone => true
  | .nonceWrite nonce => nonce.length == 32
  | .quoteSigned => true
  | .fwImageWrite _ => true
  | .fwImageWriteDone => true
  | .restart _ => true
  | .fullRestart => true
  | .config _ => true
  | .configVerifyDone => true
  | .idCertWrite _ => true
  | .islandPowerUp _ => true
  | .auxInputLoss => true
  | .fmpDatagramReceive _ _ _ => true
  | .fmpRead => true
  | .fmpWrite => true
  | .readSeg => true
  | .writeSeg => true
  | .poll => true
  | .sessionOpen => true
  | .sessionAuth => true
  | .sessionAuthDone => true
  | .sessionClose => true
  | .fmpUndefinedOp => true
  | .heartbeat addr _ => addr.length == 16
  | .challengeTimeout _ => true
  | .sessionIdleTimeout _ => true
  | .segTransferTimeout _ _ => true
  | .handleExpire _ => true
  | .mailboxDoorbell core _ _ => core < 16
  | .objectWrite _ obj _ => obj < 2 ^ 24
  | .objectCopyRefresh => true
  | .eventRecordWrite cls code unit sub data => cls < 256 && code < 256 && unit < 256 && sub < 8192 && data.length == 16
  | .eventMergeExpire cls code unit sub => cls < 256 && code < 256 && unit < 256 && sub < 8192
  | .eventSendTimeout => true
  | .enterPoise => true
  | .enterHold => true
  | .enterRest => true
  | .enterDormant => true
  | .wakeEvent acc => acc.wf
  | .exitComplete => true
  | .powerSample _ => true
  | .capStepAdjust => true
  | .powerHoldEscalate => true
  | .tjSample deciC => deciC.length == 25
  | .throttleStep => true
  | .throttleEnd => true
  | .tripEnd => true
  | .vinWarn _ => true
  | .vinWarnEnd _ => true
  | .vinReset _ => true
  | .railWarn die _ => die < 25
  | .railReset die => die < 25
  | .pllLockLoss die => die < 25
  | .healthPoll answered => answered.length == 25
  | .dieLost => true
  | .fenceRequestWrite _ _ => true
  | .moduleReset => true
  | .moduleResetWrite _ => true
  | .moduleResetDelayExpire => true
  | .mrstNAssert => true
  | .mrstNRelease => true
  | .mainRailsRamp slots => slots.length == 8
  | .ageingMeasure shifts => shifts.length == 25
  | .stressTick => true
  | .dayRollover => true
  | .lifeRecompute => true
  | .sidebandRefresh => true
  | .setdasa addr => addr < 128
  | .entdaa addr => addr < 128
  | .enec => true
  | .sidebandRead off _ => off < 256
  | .ibiAck => true
  | .mainRailsUp => true
  | .vinResetRelease => true
  | .mgmtLinkUp => true
  | .mgmtLinkDown => true
  | .rootPortLinkUp q => q < 2
  | .rootPortLinkDown q => q < 2
  | .endpointLinkDown => true
  | .endpointConfigWrite _ => true
  | .hbmChannelLost stack => stack < 10
  | .ddrChannelFailure channel => channel < 8
  | .stateEntryComplete => true

end Sys2Proof
end

