-- ==== Sys2Proof/Tests/Slice0.lean ====
section
/-! SUPPORT. The author's own tests: operands that the well-formedness checks refuse, states and operands that meet the hypotheses
of the statements, clause by clause, and single steps with results taken from the rules. -/

namespace Sys2Proof.Tests

open Sys2Proof.Machine

set_option Elab.async false

/-! ## Ill-formed operands -/

/-- A message of 4 data bytes whose fields fit. -/
def msg : Msg :=
  { mtype := 2, dn := false, poison := [], dst := 1, src := 2, len := 4, addr := 0, txtag := 7, hops := 0, arg := 4, data := [1, 2, 3, 4] }

/-- A line of 64 bytes. -/
def line : List Byte := List.replicate 64 5

/-- A frame that fits: a whole write of one beat to die 6. -/
def frame : Frame :=
  { cls := .request, dst := 6, source := .hub, load := .write 0, first := true, beats := [⟨line, false⟩], more := 0 }

theorem test_wf_refuses_schedule :
    [Instr.descriptorArrival 20, .metadataDue 20 .a true, .lastingStart 20, .phaseCountersStart 20, .phaseCounterExpire 20,
      .barrierArrivalReceive 20, .barrierReleaseArrival 20, .nominalRelease 20, .lapStep 20, .lapComplete 20, .collectorSlot 20 .north,
      .accRowUpdate 20 0 [] false, .accRowUpdate 0 41 [] false, .accRowUpdate 0 0 [⟨8, .single⟩] false,
      .accRowUpdate 0 0 [⟨1, .single⟩, ⟨1, .double⟩] false, .conflictQueueServe 20 ⟨0, []⟩, .conflictQueueServe 0 ⟨64, []⟩,
      .conflictQueueServe 0 ⟨0, [⟨8, .single⟩]⟩].all (fun i => !i.wf) = true := by
  decide +kernel

theorem test_wf_refuses_memory :
    [Instr.hbmReadAccept 1 .hub 0, .hbmReadAccept (2 ^ 52) .hub 0, .hbmReadAccept 0 (.engine 20 0) 0, .hbmReadAccept 0 (.engine 0 40) 0,
      .hbmReadAccept 0 (.stream 22 0) 0, .hbmReadAccept 0 (.stream 0 64) 0, .hbmReadAccept 0 (.remote 25) 0,
      .hbmReadDecode 0 [(80, 1)], .hbmReadDecode 0 [(0, 0)], .hbmReadDecode 0 [(0, 1), (0, 2)], .holdEnd 20, .supplyHoldStart ⟨20, none⟩,
      .supplyHoldEnd 20, .hbmWriteAccept 1 line false, .hbmWriteAccept 0 [] false, .readModifyWrite 32 0 line false ⟨.hub, []⟩,
      .readModifyWrite 0 0 [] false ⟨.hub, []⟩, .readModifyWrite 0 0 line false ⟨.hub, [(80, 1)]⟩, .readModifyWrite 0 0 line false ⟨(.engine 20 0), []⟩, .poisonWriteback 1, .hbmRefresh 20 0 0 0,
      .hbmRefresh 0 16 0 0, .hbmRefresh 0 0 64 0, .patrolScrubRead 1 [], .patrolScrubRead 0 [(80, 1)], .scrubWriteback 1,
      .tierRead 1 .hub [], .tierRead 0 (.remote 25) [], .tierRead 0 .hub [(80, 1)], .tierWrite 1 line false, .tierWrite 0 [] false,
      .scratchpadAccess 20 0 none [] false, .scratchpadAccess 0 (2 ^ 25) none [] false, .scratchpadAccess 0 1 none [] false,
      .scratchpadAccess 0 0 none [⟨8, .single⟩] false, .scratchpadAccess 0 0 (some ⟨0, [], false⟩) [] false, .spEnableWrite 20 0,
      .spBankFillDone 20 0, .spBankFillDone 0 64, .hbmFillDone 20, .ddrFillDone 8, .taskWindowWrite 256 1 0, .taskWindowWrite 0 0 0,
      .taskWindowWrite 0 7 0].all (fun i => !i.wf) = true := by
  decide +kernel

theorem test_wf_refuses_streams :
    [Instr.stopComplete 22 0, .stopComplete 0 64, .streamBatchFetch 22 0, .streamBatchLanded 0 64, .streamEntryIssue 22 0 false,
      .streamEntryComplete 0 64, .streamPassComplete 22 0, .laceWindowPush 22 0 0, .laceWindowPush 0 16 0, .laceWindowPop 22 0 false,
      .laceStatusWrite 0 16 0, .ringPushWindow (.core 16) 0 [] false, .ringPushWindow (.fabric 2) 0 [] false,
      .ringPushWindow .endpoint 8192 [] false, .ringPushWindow .endpoint 0 (List.replicate 129 0) false, .ringPopWindow 8192 false,
      .ringIndexWrite 8192 .pi 0, .ringStatusWrite 8192 .base 0, .syncWindowSet 16384 0, .syncWindowAdd 16384 0 false,
      .syncAddArrival [(16384, 0)] 0].all (fun i => !i.wf) = true := by
  decide +kernel

theorem test_wf_refuses_network :
    [Instr.weltFrameReceive 25 .north ⟨none, [], false⟩, .weltFrameReceive 0 .north ⟨none, [7], false⟩,
      .weltFrameReceive 0 .localPort ⟨(some { frame with dst := 25 }), [], false⟩,
      .weltFrameReceive 0 .localPort ⟨(some { frame with source := .carried 16 }), [], false⟩,
      .weltFrameReceive 0 .localPort ⟨(some { frame with source := .thread 22 0 }), [], false⟩,
      .weltFrameReceive 0 .localPort ⟨(some { frame with source := .lane 4 }), [], false⟩,
      .weltFrameReceive 0 .localPort ⟨(some { frame with load := .read 1 1 }), [], false⟩,
      .weltFrameReceive 0 .localPort ⟨(some { frame with load := .read 0 65 }), [], false⟩,
      .weltFrameReceive 0 .localPort ⟨(some { frame with load := .write 1 }), [], false⟩,
      .weltFrameReceive 0 .localPort ⟨(some { frame with load := .data 1 }), [], false⟩,
      .weltFrameReceive 0 .localPort ⟨(some { frame with load := .add 16384 0 }), [], false⟩,
      .weltFrameReceive 0 .localPort ⟨(some { frame with load := .fabric 8 0 }), [], false⟩,
      .weltFrameReceive 0 .localPort ⟨(some { frame with beats := List.replicate 8 ⟨line, false⟩ }), [], false⟩,
      .weltFrameReceive 0 .localPort ⟨(some { frame with beats := [⟨[], false⟩] }), [], false⟩,
      .weltFrameReceive 0 .localPort ⟨(some { frame with more := 64 }), [], false⟩,
      .arbiterGrant (.spBank 20 0) [], .arbiterGrant (.spBank 0 64) [], .arbiterGrant (.accBank 0 64) [], .arbiterGrant (.hbmPort 0 16) [],
      .arbiterGrant (.weltLink 0 .localPort) [], .arbiterGrant (.egress 8) [], .arbiterGrant (.hbmPort 0 0) [⟨42, .hub, .none⟩],
      .arbiterGrant (.hbmPort 0 0) [⟨0, .carried 16, .none⟩], .arbiterGrant (.hbmPort 0 0) [⟨0, .hub, .hbmRead 1 .hub⟩],
      .arbiterGrant (.hbmPort 0 0) [⟨0, .hub, .hbmWrite 0 [] false⟩], .arbiterGrant (.hbmPort 0 0) [⟨0, .hub, .hbmMerge 0 0 line false .hub [(80, 1)]⟩],
      .arbiterGrant (.spBank 0 0) [⟨0, .hub, .spAccess 1 none [] false⟩], .arbiterGrant (.spBank 0 0) [⟨0, .hub, .spAccess 0 none [⟨8, .single⟩] false⟩],
      .phyTrainingComplete 8, .helloSend 8,
      .helloReceive 8 line true, .helloReceive 0 [] true, .flitReceive 8 (List.replicate 256 0) 0 0, .flitReceive 0 [] 0 0,
      .replayTimeout 8, .retrainDone 8, .retrainTimeout 8, .pluggableInsert 8 0, .pluggableRemove 8].all (fun i => !i.wf) = true := by
  decide +kernel

theorem test_wf_refuses_messages :
    [Instr.messageForward (some 8) msg, .messageForward none { msg with mtype := 64 }, .fabricRead { msg with dst := 4096 },
      .fabricWrite { msg with src := 4096 }, .fabricSignal { msg with addr := 2 ^ 52 }, .fabricRingPush { msg with txtag := 65536 },
      .fabricFmp { msg with hops := 16 }, .readData { msg with data := List.replicate 4097 0 }, .fabricAck { msg with mtype := 64 },
      .probe { msg with hops := 16 }, .probeReply { msg with dst := 4096 } ⟨0, List.replicate 8 0, 0, 0, [], []⟩,
      .probeReply msg ⟨0, [], 0, 0, [], []⟩, .setId 4096, .linkEvent 0 8 0,
      .mcData { msg with mtype := 0x10, dst := 4096 }, .mcData msg, .mcAck 1023 0 0 0, .mcAckReport 1023, .mcCtlShed 1023 0, .mcCtlRejoin 1023 0, .mcCtlAdmit 1023 0,
      .mcCtlRemove 1023, .mcRejoinAdmit 1023 0, .mcBehindTimeout 1023 0, .mcModeDisable 1023, .mcModeSet 1023 1, .mcRejoin 1023,
      .egressStallTimeout 8 0, .egressStallTimeout 0 4, .heartbeatReceive 8 ⟨0, 0, 0, 0⟩, .mirWrite 0 1 line false, .mirWrite 0 0 [] false,
      .mirStateWrite 16 0].all (fun i => !i.wf) = true := by
  decide +kernel

theorem test_wf_refuses_hub :
    [Instr.sendSlotDoorbell 16 ⟨3, 0, 0, 0, 0, []⟩, .sendSlotDoorbell 0 ⟨3, 0, 0, 0, 0, List.replicate 4097 0⟩, .sendSlotTimeout 16,
      .bar0Access (2 ^ 24) 1 none, .bar2Access 0 4097 none, .outboundAccess ⟨0, 0⟩ 9 none [], .outboundAccess ⟨16, 0⟩ 8 none [],
      .outboundAccess ⟨0, (2 ^ 40)⟩ 8 none [], .rootPortRequest 2 0 4 ⟨none, none⟩, .rootPortRequest 0 0 4097 ⟨none, none⟩,
      .rootPortRequest 0 0 4 ⟨none, (some (16, 0))⟩, .vectorRaise 4096 false, .vectorDeliver 4096, .corePoisonLoad 16 0, .corePoisonLoad 0 (2 ^ 52),
      .rootPortLinkUp 2, .rootPortLinkDown 2, .wakeEvent (.ringPush (.core 16) 0 []), .wakeEvent (.ringPush .endpoint 8192 []),
      .wakeEvent (.ringPush .endpoint 0 (List.replicate 129 0)), .wakeEvent (.ringIndex 8192 .pi 0), .wakeEvent (.syncSet 16384 0),
      .wakeEvent (.syncAdd 16384 0), .wakeEvent (.vector 4096), .wakeEvent (.bar0 (2 ^ 24) 1 none), .wakeEvent (.bar2 0 4097 none),
      .wakeEvent (.rootPort 2 0 0 none none), .wakeEvent (.rootPort 0 0 4097 none none), .wakeEvent (.window 16 0 8 none),
      .wakeEvent (.window 0 (2 ^ 24) 8 none), .wakeEvent (.window 0 0 9 none), .wakeEvent (.fabRead { msg with dst := 4096 }),
      .wakeEvent (.fabWrite { msg with dst := 4096 }), .wakeEvent (.fabSignal { msg with dst := 4096 }),
      .wakeEvent (.fabRingPush { msg with dst := 4096 }), .wakeEvent (.fabMulticast { msg with dst := 4096 }),
      .wakeEvent (.mirror 0 1 line false), .wakeEvent (.mirror 0 0 [] false)].all (fun i => !i.wf) = true := by
  decide +kernel

theorem test_wf_refuses_island :
    [Instr.measureLast (2 ^ 52), .measureRuntime [], .nonceWrite [], .heartbeat [] ⟨0, 0, 0, 0⟩, .mailboxDoorbell 16 0 [],
      .objectWrite .window (2 ^ 24) [], .eventRecordWrite 256 0 0 0 (List.replicate 16 0), .eventRecordWrite 0 256 0 0 (List.replicate 16 0),
      .eventRecordWrite 0 0 256 0 (List.replicate 16 0), .eventRecordWrite 0 0 0 8192 (List.replicate 16 0), .eventRecordWrite 0 0 0 0 [],
      .eventMergeExpire 256 0 0 0, .eventMergeExpire 0 256 0 0, .eventMergeExpire 0 0 256 0, .eventMergeExpire 0 0 0 8192, .tjSample [],
      .railWarn 25 0, .railReset 25, .pllLockLoss 25, .healthPoll [], .mainRailsRamp [], .ageingMeasure [], .setdasa 128, .entdaa 128,
      .sidebandRead 256 0, .hbmChannelLost 10, .ddrChannelFailure 8].all (fun i => !i.wf) = true := by
  decide +kernel

theorem test_wf_accepts_limits :
    [Instr.descriptorArrival 19, .accRowUpdate 19 40 [⟨7, .single⟩] false, .conflictQueueServe 19 ⟨63, []⟩,
      .hbmReadAccept (2 ^ 52 - 64) (.engine 19 39) 0, .hbmReadDecode 0 [(79, 1)], .scratchpadAccess 19 (2 ^ 25 - 64) none [] false,
      .taskWindowWrite 255 6 0, .streamEntryIssue 21 63 false, .laceWindowPush 21 15 0, .ringPushWindow .endpoint 8191 [] false,
      .syncWindowSet 16383 0, .weltFrameReceive 24 .localPort ⟨(some frame), [6], true⟩,
      .arbiterGrant (.egress 7) [⟨41, .thread 21 63, .hbmRead (2 ^ 52 - 64) (.remote 24)⟩], .outboundAccess ⟨15, (2 ^ 40 - 1)⟩ 8 none [], .messageForward (some 7) msg, .mcModeSet 1022 1,
      .mirWrite 0 (2 ^ 52 - 64) line false, .sendSlotTimeout 15, .vectorRaise 4095 false, .corePoisonLoad 15 (2 ^ 52 - 1),
      .eventRecordWrite 255 255 255 8191 (List.replicate 16 0), .setdasa 127, .ddrChannelFailure 7].all Instr.wf = true := by
  decide +kernel

/-! ## States to act on -/

/-- The next state has the property. -/
def gives (c : Instr) (s : State) (f : State → Bool) : Bool :=
  match exec c s with
  | .next t => f t
  | _ => false

/-- Objects written one by one. -/
def putAll (s : State) (l : List (Nat × Nat)) : State := l.foldl (fun s x => s.put x.1 x.2) s

/-- Memory bytes from an address on. -/
def bytesFrom (a : Nat) (l : List Byte) : List Host.Cell := (l.zipIdx.map fun x => (a + x.2, x.1)).filter fun c => c.2 ≠ 0

/-- The island is up, the main rails are off. -/
def islandUp : State := { State.reset with isl := { Island.reset with trust := { Trust.reset with up := true } } }

/-- The module runs: rails up, compute dies 0 to 3 active, HBM and DDR5 ready, every scratchpad bank of dies 0 to 3 awake. -/
def on : State :=
  putAll { State.reset with cycle := 1000, isl := { Island.reset with trust := { Trust.reset with up := true }, rails := { Rails.reset with up := true } } }
    [(0x203001, 50000000), (0x330003, 15), (0x201001, 0xFFFFFFFFFFFFF), (0x402201, 2 ^ 64 - 1), (0x402202, 2 ^ 64 - 1), (0x402203, 0), (0x404001, 3 * 2 ^ 24),
      (0x510006, 0)]

theorem test_reset_is_idle : step State.reset = .next State.reset := rfl

theorem witness_emptyQueueLetsTimePass :
    (State.reset.pending = [] ∧ State.reset.isl.trust.up = false) ∧
    (on.pending = [] ∧ on.isl.trust.up = true ∧ on.railsUp = true ∧ on.get 0x200006 ≤ 2 ∧ on.subTick + 1 < tickCycles (on.get 0x200009)) ∧
    (tickCycles (on.get 0x200009) ≤ ({ on with subTick := 167 } : State).subTick + 1) ∧
    (islandUp.pending = [] ∧ islandUp.isl.trust.up = true ∧ ¬(islandUp.railsUp = true ∧ islandUp.get 0x200006 ≤ 2)) := by
  decide +kernel

theorem test_tick_every_168_cycles :
    (match step { on with subTick := 167 } with | .next t => decide (t.get 0x203001 = 50000001 ∧ t.subTick = 0) | _ => false) = true := by
  decide +kernel

theorem witness_everyStepKeepsTheMemoryForm : Memory.wf on.mem.bytes = true ∧ (∃ t, step on = .next t) :=
  ⟨by decide +kernel, _, rfl⟩

/-! ## The issue ring -/

/-- Ring 0 of two slots at 0x1000 in HBM of die 0, with one entry at its head. -/
def issueState (entry : List Byte) (tag : U16 := 0) : State :=
  { on with mem := { on.mem with bytes := bytesFrom 0x1000 entry, tag := if tag = 0 then [] else [(0x1000 / 64, tag)] }
            hub := { on.hub with rings := [(0, { Ring.zero with base := 0x1000, order := 1, pi := 1, piDup := 1 })] } }

/-- Bytes of an issue entry (R242). -/
def issueEntry (arg kind obj : Nat) : List Byte := leBytes 8 arg ++ leBytes 2 kind ++ leBytes 2 obj ++ leBytes 4 0

/-- The hypotheses about the head of the issue ring. -/
def headIs (s : State) (kind obj arg : Nat) (poison : Bool) : Bool :=
  s.mayIssue && !ringBroken (s.ring 0) && (match s.issueHead with
    | some (x, _) => decide (x.kind = kind ∧ x.obj = obj ∧ x.arg = arg ∧ x.poison = poison)
    | none => false)

/-- An SPMM descriptor at 0x2000. -/
def spmmState : State :=
  let s := issueState (issueEntry 0x2000 1 0)
  { s with mem := { s.mem with bytes := s.mem.bytes ++ bytesFrom 0x2000 [1, 1, 5] } }

theorem witness_operationIsTaken :
    headIs spmmState 1 0 0x2000 false = true ∧
      (match spmmState.issueHead with | some (_, u) => u.issueAdvance.finalBegun | none => false) = true := by
  decide +kernel

theorem test_spmm_is_taken :
    gives .spmm spmmState (fun t => decide ((t.ring 0).ci = 1 ∧ t.arr.ops.length = 1 ∧ (t.op 0).addr = 0x2000 ∧ (t.op 0).tTaken = 50000000 ∧
      (t.op 0).active = [0, 1, 2, 3])) = true ∧ gives .spgemm spmmState (fun t => decide (t = spmmState)) = true := by
  decide +kernel

theorem witness_waitSignalAndSkipped :
    headIs (issueState (issueEntry 0 3 16)) 3 16 0 false = true ∧ 0 ≤ (issueState (issueEntry 0 3 16)).count 16 ∧
    headIs (issueState (issueEntry 1 3 16)) 3 16 1 false = true ∧ (issueState (issueEntry 1 3 16)).count 16 < 1 ∧
    headIs (issueState (issueEntry 1 3 15)) 3 15 1 false = true ∧ headIs (issueState (issueEntry 7 4 16)) 4 16 7 false = true ∧
    headIs (issueState (issueEntry 7 4 15)) 4 15 7 false = true ∧ headIs (issueState (issueEntry 7 0 16)) 0 16 7 false = true ∧
    headIs (issueState (issueEntry 7 5 16)) 5 16 7 false = true ∧ headIs (issueState (issueEntry 7 4 16) 0xFFFF) 4 16 7 true = true := by
  decide +kernel

theorem test_issue_signal_adds : gives .issueSignal (issueState (issueEntry 7 4 16)) (fun t => decide (t.count 16 = 7 ∧ (t.ring 0).ci = 1)) = true := by
  decide +kernel

theorem test_issue_wait_waits :
    gives .issueWait (issueState (issueEntry 1 3 16)) (fun t => decide ((t.ring 0).ci = 0)) = true ∧
    gives .issueWait (issueState (issueEntry 1 3 15)) (fun t => decide ((t.ring 0).ci = 1 ∧ t.get 0x71700F = 1)) = true := by
  decide +kernel

theorem test_issue_skipped_counts :
    gives .issueSkipped (issueState (issueEntry 7 5 16)) (fun t => decide ((t.ring 0).ci = 1 ∧ t.get 0x71700B = 1)) = true ∧
    gives .issueSkipped (issueState (issueEntry 7 4 16) 0xFFFF) (fun t => decide ((t.ring 0).ci = 1 ∧ t.get 0x71B005 = 1)) = true := by
  decide +kernel

/-! ## Operations in the array -/

/-- A plan for dies 0 and 1: two phases of 5 and 7 cycles after a lasting of 3, throughput mode, one collected block. -/
def plan : Plan :=
  { dies := [⟨0, 3, 0, [5, 7], 0, 1, 4, false⟩, ⟨1, 3, 0, [5, 7], 0, 1, 4, false⟩], segments := [], segments2 := [], slots := []
    contribs := [], merges := [], collLinks := [(1, 0, 0)], resole := [], unfilled := [], missMain := 0, root := 0, depth := 1
    laps := [⟨0xF0000000000, 0xF0000001000, 256⟩], awlMode := 0, theta := 0 }

/-- An SPMM on dies 0 and 1 with the progress of the two dies and a plan. -/
def opAs (x y : DieOp) (p : Option Plan) : OpCtx :=
  { OpCtx.blank with desc := [1, 1], active := [0, 1], dies := (if x = DieOp.waiting then [] else [(0, x)]) ++ (if y = DieOp.waiting then [] else [(1, y)])
                     plan := p }

/-- One operation in the array. -/
def withOp (op : OpCtx) : State := { on with arr := { on.arr with ops := [op] } }

/-- A die in a stage and phase. -/
def dieAt (st : Stage) (phase : Nat) : DieOp := { DieOp.waiting with stage := st, phase := phase, startAt := 900, lastAt := 890, ran := 3 }

/-- Die 0 waits for its descriptor. -/
def arriving (desc : List Byte) (poison : Bool) : State := withOp { opAs .waiting .waiting none with desc := desc, descPoison := poison }

theorem witness_descriptorArrival :
    ([arriving [1, 1] false, arriving [1, 1] true, arriving [1, 13] false].all fun s =>
      decide (s.opAt 0 .idle = some 0 ∧ (s.op 0).noPhase = none ∧ (s.op 0).issuedAt + 12 * descriptorHops (s.op 0).active 0 + 1 ≤ s.cycle ∧
        0 = (s.op 0).die0)) = true ∧
    ((arriving [1, 1] false).op 0).descPoison = false ∧ ((arriving [1, 1] false).op 0).od.kind ≠ .unknown ∧
    ((arriving [1, 1] true).op 0).descPoison = true ∧ ((arriving [1, 13] false).op 0).od.kind = .unknown ∧
    (arriving [1, 1] false).opAt 1 .idle = some 0 ∧ 1 ≠ ((arriving [1, 1] false).op 0).die0 := by
  decide +kernel

theorem test_descriptor_reaches_die_0_by_its_hops :
    gives (.descriptorArrival 0) (arriving [1, 1] false) (fun t => decide (((t.op 0).die 0).stage = .fetching ∧ ((t.op 0).die 0).fetchAt = 1001)) = true ∧
    gives (.descriptorArrival 0) (arriving [1, 13] false) (fun t => decide ((t.op 0).noPhase = some (0x10, 0))) = true ∧
    gives (.descriptorArrival 0) (arriving [1, 1] true) (fun t => decide ((t.op 0).noPhase = some (1, 0) ∧ t.get 0x71B005 = 1)) = true := by
  decide +kernel

/-- Both dies fetch; the last is empty memory, whose MAGIC is wrong, or a base last with its MAGIC. -/
def fetching (desc : List Byte) (p : Option Plan) (due : List (Opd × Nat)) : State :=
  withOp { opAs { dieAt .fetching 0 with due := due, fetchAt := 500 } (dieAt .fetching 0) p with desc := desc }

/-- A descriptor whose LAST names an address in HBM that reads zero, and one of SPMM whose LAST is 0x4000. -/
def badLast : List Byte := fit 128 [1, 1]
def goodDesc : List Byte := fit 128 ([1, 1] ++ List.replicate 6 0 ++ leBytes 8 0x4000)

/-- Task 0's windows open on HBM, scratchpads and accumulators, and a base last for SPMM at 0x4000. -/
def withLast (s : State) : State :=
  let t := putAll s [(0x410002, 2 ^ 40), (0x410004, 2 ^ 25), (0x410006, 4096)]
  { t with mem := { t.mem with bytes := t.mem.bytes ++ bytesFrom 0x4000 [0x4C, 0x41, 0x53, 0x54, 1, 1] } }

/-- The fetch began long enough ago for the header of the last to have been read. -/
def checkable (s : State) : Bool :=
  decide (s.findOp (fun op => op.noPhase.isNone && !op.headerChecked && decide ((op.die op.die0).stage ≠ .idle)) = some 0 ∧
    ((s.op 0).die (s.op 0).die0).fetchAt + s.headerLatency (s.op 0) ≤ s.cycle)

/-- The header of the last lies in a poisoned line. -/
def poisonedLast : State :=
  let s := withLast (fetching goodDesc none [])
  { s with mem := { s.mem with tag := [(0x4000 / 64, 0xFFFF)] } }

theorem witness_lastHeaderCheck :
    (checkable (fetching badLast none []) && checkable (fetching badLast (some plan) []) && checkable poisonedLast &&
      checkable (withLast (fetching goodDesc none []))) = true ∧
    ((fetching badLast none []).op 0).plan = none ∧ ((fetching badLast (some plan) []).op 0).plan = some plan ∧
    (poisonedLast.op 0).plan = none ∧
    (match (fetching badLast none []).controlCheck ((fetching badLast none []).op 0) with | .fault _ _ => true | _ => false) = true ∧
    (match poisonedLast.controlCheck (poisonedLast.op 0) with | .poison _ _ => true | _ => false) = true ∧
    (withLast (fetching goodDesc none [])).controlCheck ((withLast (fetching goodDesc none [])).op 0) = .sound ∧
    (withLast (fetching goodDesc none [])).runsPhases ((withLast (fetching goodDesc none [])).op 0) = true := by
  decide +kernel

theorem test_last_is_checked :
    gives .lastHeaderCheck (fetching badLast none []) (fun t => decide ((t.op 0).noPhase.isSome ∧ t.get 0x715003 = 1)) = true ∧
    gives .lastHeaderCheck poisonedLast (fun t => decide ((t.op 0).noPhase = some (1, 0) ∧ t.get 0x71B005 = 1)) = true ∧
    gives .lastHeaderCheck (withLast (fetching goodDesc none [])) (fun t => decide ((t.op 0).headerChecked = true ∧ (t.op 0).noPhase = none)) = true := by
  decide +kernel

/-- A state with die 0 under a supply hold. -/
def supplyHeld (s : State) : State := s.putHold 0 { DieHold.none with supply := true }

theorem witness_metadataDue :
    ([fetching [1, 1] none [(.a, 1000)], fetching [1, 1] none [(.a, 1000), (.b, 1000)], supplyHeld (fetching [1, 1] none [(.a, 1000)])].all fun s =>
      decide (s.opAt 0 .fetching = some 0 ∧ ((s.op 0).die 0).due.find? (fun y => y.1 = .a) = some (.a, 1000) ∧ 1000 ≤ s.cycle ∧
        s.opBusy 0 = none)) = true ∧
    ((fetching [1, 1] none [(.a, 1000)]).hold 0).supply = false ∧ ((supplyHeld (fetching [1, 1] none [(.a, 1000)])).hold 0).supply = true := by
  decide +kernel

theorem test_late_metadata_holds_the_die :
    gives (.metadataDue 0 .a false) (fetching [1, 1] none [(.a, 1000)]) (fun t => decide ((t.hold 0).supply = true ∧ t.get 0x715006 = 1)) = true ∧
    gives (.metadataDue 0 .a true) (supplyHeld (fetching [1, 1] none [(.a, 1000)])) (fun t => decide (((t.op 0).die 0).due = [] ∧
      (t.hold 0).supply = false)) = true ∧
    gives (.metadataDue 0 .a true) (supplyHeld (fetching [1, 1] none [(.a, 1000), (.b, 1000)])) (fun t => decide ((t.hold 0).supply = true ∧
      ((t.op 0).die 0).lateMeta t.cycle = true)) = true := by
  decide +kernel

theorem witness_lastingStart :
    ([withLast (fetching goodDesc none []), withLast (fetching goodDesc (some plan) [])].all fun s =>
      decide (s.opAt 0 .fetching = some 0 ∧ (s.op 0).noPhase = none ∧ ((s.op 0).die 0).due = [] ∧ ((s.op 0).die 0).fetchAt ≤ s.cycle ∧
        s.prevClosed 0 0 = true ∧ s.fencePending = (0, 0))) = true ∧
    ((withLast (fetching goodDesc (some plan) [])).op 0).plan = some plan ∧ ((withLast (fetching goodDesc none [])).op 0).plan = none ∧
    (withLast (fetching goodDesc none [])).runsPhases ((withLast (fetching goodDesc none [])).op 0) = true := by
  decide +kernel

theorem test_lasting_starts :
    gives (.lastingStart 0) (withLast (fetching goodDesc none [])) (fun t => decide (((t.op 0).die 0).stage = .lasting ∧ ((t.op 0).die 0).lastAt = 1000 ∧
      (t.op 0).plan.isSome ∧ t.get 0x715001 = 1)) = true ∧
    gives (.lastingStart 0) (withLast (fetching goodDesc (some plan) [])) (fun t => decide (((t.op 0).die 0).stage = .lasting ∧ t.get 0x715001 = 0)) = true := by
  decide +kernel

/-- Die 0 lasts, with its lasting time over. -/
def lasting : State := withOp (opAs (dieAt .lasting 0) (dieAt .lasting 0) (some plan))

theorem witness_phaseCountersStart :
    lasting.opAt 0 .lasting = some 0 ∧ (lasting.op 0).plan = some plan ∧ (plan.die 0).tLast ≤ ((lasting.op 0).die 0).ran ∧ lasting.held 0 = false := by
  decide +kernel

theorem test_first_phase_counts_its_length :
    gives (.phaseCountersStart 0) lasting (fun t => decide (((t.op 0).die 0).stage = .running ∧ ((t.op 0).die 0).counter = 5)) = true := by
  decide +kernel

/-- Die 0 runs a phase whose counter is spent; its laps may be open. -/
def expiring (phase : Nat) (lapDone : Bool) : State :=
  withOp (opAs { dieAt .running phase with lapDone := lapDone } (dieAt .running phase) (some plan))

theorem witness_phaseCounterExpire :
    ([expiring 1 true, expiring 2 true, expiring 2 false].all fun s =>
      decide (s.opAt 0 .running = some 0 ∧ ((s.op 0).die 0).counter = 0 ∧ ((s.op 0).die 0).expiredAt = none ∧ s.accSettled 0 = true)) = true ∧
    ((expiring 2 false).op 0).phases = 2 := by
  decide +kernel

theorem test_expiry_raises_the_arrival :
    gives (.phaseCounterExpire 0) (expiring 1 true) (fun t => decide (((t.op 0).die 0).stage = .arrived)) = true ∧
    gives (.phaseCounterExpire 0) (expiring 2 false) (fun t => decide (((t.op 0).die 0).stage = .running ∧ ((t.op 0).die 0).expiredAt = some 1000)) = true := by
  decide +kernel

/-- Die 0 has arrived at the barrier of a phase whose release the root has sent; its own release has come or not. -/
def arrived (phase : Nat) (got : Bool) (held : Bool := false) : State :=
  let op := opAs { dieAt .arrived phase with releaseAt := if got then some 999 else none } (dieAt .arrived phase) (some plan)
  let s := withOp { op with barrier := { Barrier.empty with releases := [950, 990].take phase, flights := [⟨0, 1000, 1, [5]⟩] } }
  if held then s.putHold 0 { DieHold.none with supply := true } else s

theorem witness_barriers :
    (arrived 1 false).findOp (fun op => op.barrier.flights.any fun f => decide (f.dst = 0) && decide (f.due ≤ (arrived 1 false).cycle)) = some 0 ∧
    ([(1, false, false), (2, false, false), (1, false, true)].all fun x =>
      let s := arrived x.1 x.2.1 x.2.2
      decide (s.opAt 0 .arrived = some 0 ∧ ((s.op 0).die 0).releaseAt = none) &&
        (match (s.op 0).releaseDue 0 ((s.op 0).die 0).phase with | some due => decide (due ≤ s.cycle) | none => false)) = true ∧
    (arrived 1 false true).held 0 = true ∧ (arrived 1 false).held 0 = false ∧ (arrived 2 false).held 0 = false ∧
    ((arrived 1 false).op 0).driven 0 = true ∧ ((arrived 2 false).op 0).driven 0 = true ∧ (arrived 2 false).fencePending = (0, 0) ∧
    (arrived 1 true).opAt 0 .arrived = some 0 ∧ (((arrived 1 true).op 0).die 0).releaseAt ≠ none ∧ (arrived 1 true).held 0 = false ∧
    ((arrived 1 true).op 0).driven 0 = true ∧ (((arrived 1 true).op 0).die 0).phase < ((arrived 1 true).op 0).phases := by
  decide +kernel

theorem test_release_begins_the_next_phase :
    gives (.barrierReleaseArrival 0) (arrived 1 false) (fun t => decide (((t.op 0).die 0).phase = 2 ∧ ((t.op 0).die 0).counter = 7)) = true ∧
    gives (.barrierReleaseArrival 0) (arrived 2 false) (fun t => decide (((t.op 0).die 0).stage = .closed)) = true ∧
    gives (.barrierReleaseArrival 0) (arrived 1 false true) (fun t => decide (((t.op 0).die 0).stage = .arrived)) = true := by
  decide +kernel

theorem test_nominal_release :
    gives (.nominalRelease 0) (arrived 1 true) (fun t => decide (((t.op 0).die 0).phase = 2)) = true := by
  decide +kernel

/-- Die 0 has arrived at the barrier of its last phase in interactive mode, before its nominal release at 1,029. -/
def paced (got : Bool) : State :=
  let pl := { plan with dies := [⟨0, 3, 0, [5, 7], 0, 1, 4, true⟩, ⟨1, 3, 0, [5, 7], 0, 1, 4, true⟩] }
  let d := { dieAt .arrived 2 with startAt := 999, releaseAt := if got then some 999 else none }
  withOp { opAs d d (some pl) with barrier := { Barrier.empty with releases := [950, 980] } }

/-- Dies 0 and 1 have arrived; an arrival of a count is due at a die. -/
def gathering (die count : Nat) : State :=
  withOp { opAs (dieAt .arrived 1) (dieAt .arrived 1) (some plan) with barrier := { Barrier.empty with flights := [⟨die, 1000, count, [5, 7]⟩] } }

theorem witness_switches :
    ([(0, 1), (0, 2), (1, 1)].all fun x =>
      let s := gathering x.1 x.2
      decide (s.findOp (fun op => op.barrier.flights.any fun f => decide (f.dst = x.1) && decide (f.due ≤ s.cycle)) = some 0 ∧
        (s.op 0).barrier.flights.filter (fun g => g.dst = x.1 ∧ g.due ≤ s.cycle) = [⟨x.1, 1000, x.2, [5, 7]⟩] ∧
        SMap.get (s.op 0).barrier.sent x.1 false = false)) = true ∧
    subtreeSize ((gathering 0 1).op 0).active ((gathering 0 1).op 0).tree 20 0 = 2 ∧
    subtreeSize ((gathering 1 1).op 0).active ((gathering 1 1).op 0).tree 20 1 = 1 ∧
    parentIn ((gathering 1 1).op 0).active ((gathering 1 1).op 0).tree 1 = some 0 ∧
    parentIn ((gathering 0 2).op 0).active ((gathering 0 2).op 0).tree 0 = none := by
  decide +kernel

theorem test_arrivals_combine_up_the_tree :
    gives (.barrierArrivalReceive 0) (gathering 0 1) (fun t => decide ((t.op 0).barrier.flights = [] ∧ (t.op 0).barrier.releases = [] ∧
      (t.op 0).barrier.sums = [(0, 1, [5, 7])])) = true ∧
    gives (.barrierArrivalReceive 1) (gathering 1 1) (fun t => decide ((t.op 0).barrier.flights = [⟨0, 1013, 1, [5, 7]⟩])) = true ∧
    gives (.barrierArrivalReceive 0) (gathering 0 2) (fun t => decide ((t.op 0).barrier.releases = [1000] ∧ (t.op 0).gmax = [5, 7])) = true := by
  decide +kernel

theorem witness_pacedRelease :
    (paced false).opAt 0 .arrived = some 0 ∧ ((paced false).op 0).releaseDue 0 (((paced false).op 0).die 0).phase = some 980 ∧
    (((paced false).op 0).die 0).releaseAt = none ∧ ((paced false).op 0).driven 0 = false ∧ ((paced false).op 0).nominal 0 = 1029 ∧
    (paced false).held 0 = false ∧ ({ paced true with cycle := 1029 } : State).fencePending = (0, 0) ∧
    (((paced true).op 0).die 0).releaseAt ≠ none ∧ ((paced true).op 0).phases ≤ (((paced true).op 0).die 0).phase := by
  decide +kernel

theorem test_interactive_release_waits_for_its_nominal_cycle :
    gives (.barrierReleaseArrival 0) (paced false) (fun t => decide (((t.op 0).die 0).stage = .arrived ∧ ((t.op 0).die 0).releaseAt = some 1000)) = true ∧
    gives (.nominalRelease 0) { paced true with cycle := 1029 } (fun t => decide (((t.op 0).die 0).stage = .closed)) = true := by
  decide +kernel

/-- The operation has closed on both dies; its record goes to ring 5 at 0x8000. -/
def closedOp : State :=
  let s := withOp { opAs (dieAt .closed 2) (dieAt .closed 2) (some plan) with desc := fit 128 ([1, 1] ++ List.replicate 0x42 0 ++ leBytes 2 5) }
  { s with hub := { s.hub with rings := [(5, { Ring.zero with base := 0x8000, type := 3, order := 1, esize := 3 })] } }

theorem witness_completionRecord :
    (closedOp.op 0).noPhase = none ∧ (closedOp.op 0).closed = true ∧ (closedOp.op 0).poisoned = false ∧
    closedOp.mirrorWait (closedOp.op 0).mirSeq = false ∧ closedOp.fencePending = (0, 0) ∧ (closedOp.op 0).od.cring % 2 ^ 13 = 5 ∧
    ringBroken (closedOp.ring 5) = false ∧ ringType 5 (closedOp.ring 5) = 3 ∧ ringFull (closedOp.ring 5) = false ∧
    ringSlotSize 5 (closedOp.ring 5) = 128 ∧ ringSlotAddr 5 (closedOp.ring 5) (closedOp.ring 5).pi = 0x8000 ∧
    closedOp.place 0x8000 = .hbm 0 0x8000 ∧ closedOp.place 0x8040 = .hbm 0 0x8040 ∧ closedOp.hub.held = [] := by
  decide +kernel

theorem test_completion_record_is_written :
    gives .completionRecordWrite closedOp (fun t => decide (t.arr.ops = [] ∧ (t.ring 5).pi = 1 ∧ byteAt t 0x8000 ≠ 0)) = true := by
  decide +kernel

/-! ## Laps, collector slots and accumulators -/

/-- Dies 0 and 1 run phase 1 with a lap of two shards of 128 bytes, of which the first step may be sent. -/
def lapping (sent : Nat) (expired : Option Nat) : State :=
  let d := { dieAt .running 1 with lapDone := false, lapStep := sent, lapDue := List.replicate sent 1000, expiredAt := expired }
  withLast (withOp (opAs d d (some plan)))

theorem witness_laps :
    (lapping 0 none).findOp (fun op => op.active.contains 0 && !(op.die 0).lapDone && 1 ≤ (op.die 0).phase && (op.lapNow 0).isSome) = some 0 ∧
    ((lapping 0 none).op 0).lapNow 0 = some (⟨0xF0000000000, 0xF0000001000, 256⟩, 0, 128) ∧ (((lapping 0 none).op 0).die 0).lapStep = 0 ∧
    ([lapping 1 none, lapping 1 (some 990)].all fun s =>
      decide (s.findOp (fun op => op.active.contains 0 && !(op.die 0).lapDone && 1 ≤ (op.die 0).phase) = some 0 ∧
        ((s.op 0).die 0).sentBy 1 s.cycle = true ∧ ((s.op 0).die (ringPrev (s.op 0).active 0)).sentBy 1 s.cycle = true)) = true ∧
    (((lapping 1 (some 990)).op 0).die 0).expiredAt = some 990 ∧ (((lapping 1 (some 990)).op 0).die 0).stage = .running := by
  decide +kernel

/-- A lap on one active die, not begun. -/
def lapping1 : State :=
  let d := { dieAt .running 1 with lapDone := false }
  withLast (withOp { opAs d .waiting (some plan) with active := [0] })

/-- Two laps on dies 0 and 1, with the step of the first made. -/
def lapping2 : State :=
  let d := { dieAt .running 1 with lapDone := false, lapStep := 1, lapDue := [1000] }
  withLast (withOp (opAs d d (some { plan with laps := List.replicate 2 ⟨0xF0000000000, 0xF0000001000, 256⟩ })))

theorem witness_lapsOfOneDieAndLaterLaps :
    (lapping1.op 0).lapNow 0 = some (⟨0xF0000000000, 0xF0000001000, 256⟩, 0, 256) ∧ ((lapping1.op 0).die 0).lapStep / lapSteps 1 = 0 ∧
    (lapping2.op 0).lapNow 0 = some (⟨0xF0000000000, 0xF0000001000, 256⟩, 0, 128) ∧ ((lapping2.op 0).die 0).lapStep / lapSteps 2 = 1 ∧
    ((lapping2.op 0).die 1).sentBy 1 1000 = true ∧ ((lapping2.op 0).die 0).sentBy 1 1000 = true := by
  decide +kernel

theorem witness_nothingMirrored (a : Nat) : (lapping 0 none).mirrors a = [] ∧ (lapping 0 none).fab.mirEvents = [] :=
  ⟨if_pos (by decide +kernel), by decide +kernel⟩

/-- A lap of two shards on three dies, with one step made. -/
def lapping3 : State :=
  let d := { dieAt .running 1 with lapDone := false, lapStep := 1, lapDue := [1000] }
  withLast (withOp { opAs d d (some plan) with active := [0, 1, 2], dies := [(0, d), (1, d), (2, d)] })

theorem witness_laterLapStep :
    (match (lapping3.op 0).lapNow 0 with | some (_, k, _) => decide (k ≠ 0) | none => false) = true ∧
      ((lapping3.op 0).die (ringPrev (lapping3.op 0).active 0)).sentBy ((lapping3.op 0).die 0).lapStep lapping3.cycle = true := by
  decide +kernel

theorem test_laps_complete :
    gives (.lapComplete 0) (lapping 1 (some 990)) (fun t => decide (((t.op 0).die 0).lapDone = true ∧ t.get 0x71500B = 10)) = true ∧
    gives (.lapStep 0) (lapping 0 none) (fun t => decide (((t.op 0).die 0).lapStep = 1 ∧ t.get 0x71500A = 128 ∧ t.get 0x718001 = 2 ∧
      ((t.op 0).die 0).lapDue = [1000 + 1 + 12])) = true ∧
    gives (.lapStep 0) lapping1 (fun t => decide (((t.op 0).die 0).lapDue = [1001] ∧ t.get 0x71500A = 0)) = true ∧
    gives (.lapStep 0) lapping3 (fun t => decide (((t.op 0).die 0).lapStep = 2)) = true := by
  decide +kernel

/-- Die 1 collects over its west link; the link is reserved already or not. -/
def collecting : State := withOp (opAs (dieAt .running 2) (dieAt .running 2) (some plan))

theorem witness_collectorSlot :
    collecting.findOp (fun op => (op.slotNow 1 (dirPort .west)).isSome) = some 0 ∧ (collecting.op 0).slotNow 1 (dirPort .west) = some 0 ∧
      collecting.held 1 = false ∧ collecting.railsUp = true ∧ collecting.fenced 1 = false ∧
      ({ collecting with net := { collecting.net with reserved := [(7, 1001)] } } : State).slotNow (.weltLink 1 .west) = true ∧
      (collecting.arbiter (.weltLink 1 .west)).round ≠ collecting.cycle + 1 := by
  decide +kernel

theorem test_collector_slot_takes_four_cycles :
    gives (.collectorSlot 1 .west) collecting (fun t => decide (t.net.reserved = [(7, 1004)] ∧ t.get 0x713004 = 1 ∧
      t.get 0x718001 = 16 ∧ (t.op 0).slotsUsed = [0])) = true := by
  decide +kernel

/-- A row update of ones that waits at die 0: presented, or in the conflict queue of its bank. -/
def req (row : Option Nat) : AccReq :=
  { requester := 3, row := row, vals := List.replicate 16 (some 1), mode := .addI32, poison := false, pos := [], bound := none }

/-- Die 0 runs, with a flush, a conflict queue of bank 2 (row 2), whether the bank is taken, and whether the slot is valid. -/
def updating (row : Option Nat) (queued : Nat) (taken valid : Bool) : State :=
  let s := expiring 1 true
  { s with arr := { s.arr with
      flush := [(3, { Flush.empty with full := [req row] })]
      confQ := if queued = 0 then [] else [(accBank 2, List.replicate queued (req (some 2)))]
      accBusy := if taken then [(accBank 2, 1001)] else [], valid := if valid then [(0, true)] else []
      acc := if valid then [(2, { AccRow.zero with vals := List.replicate 16 (some 41) })] else [] } }

theorem witness_rowUpdates :
    ([updating none 0 false false, updating (some 2) 16 false false, updating (some 2) 15 false false, updating (some 2) 0 true false,
        updating (some 2) 0 false false, updating (some 2) 0 false true].all fun s =>
      let f := (s.flushOf 0 3).at ((s.op 0).die 0).ran
      decide (s.opAt 0 .running = some 0 ∧ f.full.length = 1 ∧ f.sentAt ≠ s.cycle + 1 ∧ s.held 0 = false)) = true ∧
    ((updating (some 2) 16 false false).confOf 0 (accBank 2)).length = 16 ∧ ((updating (some 2) 15 false false).confOf 0 (accBank 2)).length = 15 ∧
    (updating (some 2) 0 true false).accTaken 0 (accBank 2) = true ∧ (updating (some 2) 0 false false).accTaken 0 (accBank 2) = false ∧
    (updating (some 2) 0 false false).arr.valid.get (2 / 64) false = false ∧ (updating (some 2) 0 false true).arr.valid.get (2 / 64) false = true ∧
    ((updating none 1 false false).confOf 0 (accBank 2)).head? = some (req (some 2)) := by
  decide +kernel

theorem test_row_update_adds :
    gives (.accRowUpdate 0 3 [] false) (updating (some 2) 0 false true) (fun t => decide ((t.arr.acc.get 2 AccRow.zero).vals = List.replicate 16 (some 42))) = true ∧
    gives (.accRowUpdate 0 3 [] true) (updating (some 2) 15 false true) (fun t => decide ((t.confOf 0 (accBank 2)).length = 16 ∧
      t.get 0x713002 = 1 ∧ t.get 0x71B001 = 1 ∧ (t.flushOf 0 3).full = [])) = true ∧
    gives (.accRowUpdate 0 3 [] false) (updating (some 2) 16 false true) (fun t => decide (t.get 0x713003 = 1 ∧ (t.flushOf 0 3).full ≠ [])) = true := by
  decide +kernel

theorem test_conflict_queue_is_served :
    gives (.conflictQueueServe 0 ⟨(accBank 2), []⟩) (updating none 1 false true) (fun t => decide ((t.arr.acc.get 2 AccRow.zero).vals = List.replicate 16 (some 42) ∧
      t.confOf 0 (accBank 2) = [])) = true := by
  decide +kernel

/-! ## Memory -/

/-- A DDR5 channel of 16 GiB in TD0's aperture. -/
def tiered : State :=
  let s := on.put 0x404001 (3 * 2 ^ 24 + 16 * 16)
  { s with mem := { s.mem with tier := [(0, ⟨false, [0]⟩)] } }

/-- Channel 0 of die 0, in which line 0x100 lies, has taken its request of this cycle, or holds requests. -/
def takenState : State := { on with mem := { on.mem with accepted := [(hbmChannel 0x100, 1001)] } }
def queuedState (n : Nat) : State := { on with mem := { on.mem with queued := [(hbmChannel 0x100, List.replicate n 1010)] } }

/-- A read of line 0x100 under way since a cycle, decoded or not, for a compute die over the network or not. -/
def reading (result : Option (List Byte × Bool × Nat)) (since : Nat) (stale : Bool := false) (reply : Option (Nat × Nat) := none) : State :=
  { on with mem := { on.mem with
      reads := [{ id := 4, addr := 0x100, rq := .engine 0 3, acceptedAt := since, waited := 0, delay := 0, data := List.replicate 64 9
                  diff := List.replicate 8 0, tag := 0, stale := stale, reply := reply, result := result }]
      nextRead := 5 } }

theorem witness_hbmReads :
    on.railsUp = true ∧ on.place 0x100 = .hbm 0 0x100 ∧ on.channelFree (0 * 16 + hbmChannel 0x100) = true ∧
    on.place 0xFF000000000 = .unmapped ∧ (queuedState 32).channelFree (hbmChannel 0x100) = false ∧
    ([reading none 928, reading none 928 true].all fun s =>
      decide ((s.mem.reads.find? (fun r => r.id = 4)).map HbmRead.result = some none)) = true ∧
    ((reading none 928).mem.reads.head?.map fun r => decide (r.acceptedAt + 72 + r.delay ≤ 1000)) = some true ∧
    ((reading (some (line, false, 0)) 916).mem.reads.head?.map fun r => decide (r.acceptedAt + 84 + r.delay ≤ 1000)) = some true ∧
    ((reading (some (line, false, 3)) 908).mem.reads.head?.map fun r => decide (r.acceptedAt + 92 + r.delay ≤ 1000)) = some true := by
  decide +kernel

theorem test_hbm_queue_has_32_entries :
    gives (.hbmReadAccept 0x100 .hub 0) (queuedState 32) (fun t => decide (t.mem.reads = [])) = true ∧
    gives (.hbmReadAccept 0x100 .hub 0) (queuedState 31) (fun t => decide (t.mem.reads.length = 1)) = true ∧
    gives (.hbmReadAccept 0x100 .hub 0) takenState (fun t => decide (t.mem.reads = [])) = true := by
  decide +kernel

theorem test_stale_read_owes_no_writeback :
    gives (.hbmReadDecode 4 ((List.range 30).map fun k => (k, 7))) (reading none 928 true) (fun t => decide (t.get 0x716003 = 1 ∧
      t.mem.writeback = [])) = true ∧
    gives (.hbmReadDecode 4 ((List.range 30).map fun k => (k, 7))) (reading none 928) (fun t => decide (t.get 0x716003 = 1 ∧
      t.mem.writeback.length = 1)) = true := by
  decide +kernel

theorem test_remote_read_is_answered :
    gives (.hbmReadDeliver 4) (reading (some (line, false, 0)) 916 false (some (3, 7))) (fun t => decide (t.net.answers =
      [{ die := 0, due := 1000, dst := 3, prio := 7, addr := 0x100, beat := ⟨line, false⟩ }])) = true := by
  decide +kernel

theorem test_hbm_read_waits_72_cycles :
    gives (.hbmReadDecode 4 []) (reading none 928) (fun t => decide (t.mem.reads.head?.map HbmRead.result = some (some (List.replicate 64 9, false, 0)))) = true ∧
    gives (.hbmReadDecode 4 []) (reading none 929) (fun t => decide (t.mem.reads.head?.map HbmRead.result = some none)) = true := by
  decide +kernel

theorem test_three_symbols_hold_the_die :
    gives (.hbmReadDecode 4 [(0, 1), (1, 1), (9, 7)]) (reading none 928) (fun t => decide (t.get 0x715004 = 1 ∧ (t.hold 0).eccUntil = 1009 ∧
      t.mem.reads.head?.map HbmRead.result = some (some (List.replicate 64 9, false, 3)))) = true := by
  decide +kernel

theorem test_hbm_read_is_accepted_and_delivered :
    gives (.hbmReadAccept 0x100 .hub 0) on (fun t => decide (t.mem.reads.length = 1 ∧ t.channelTaken (hbmChannel 0x100) = true)) = true ∧
    gives (.hbmReadDeliver 4) (reading (some (line, false, 3)) 908) (fun t => decide (t.mem.reads = [] ∧ t.get 0x716002 = 1 ∧
      t.mem.delivered.map Delivery.data = [line])) = true := by
  decide +kernel

/-- Write-backs that wait: of an uncorrectable line and of a scrubbed one. -/
def writebacks (bad : Bool) : State :=
  { on with mem := { on.mem with writeback := [(4, List.replicate 72 3)], scrub := [(4, List.replicate 72 4, bad)] } }

theorem witness_hbmWrites :
    on.place 0x140 = .hbm 0 0x140 ∧ on.place (0x140 / 64 * 64) = .hbm 0 (0x140 / 64 * 64) ∧ on.channelFree (0 * 16 + hbmChannel 0x140) = true ∧
    on.mirrors 0x140 = [] ∧ on.fab.mirEvents = [] ∧ (writebacks true).mem.writeback.get (0x100 / 64) [] ≠ [] ∧
    (writebacks true).mem.scrub.get (0x100 / 64) ([], false) = (List.replicate 72 4, true) ∧
    (writebacks false).mem.scrub.get (0x100 / 64) ([], false) = (List.replicate 72 4, false) ∧ on.gone 0 = false ∧
    (on.put 0x400003 24).get 0x400003 ≠ 0 ∧
    (on.put 0x400003 24).channelTaken (hbmChannel 0x140) = false ∧ (on.put 0x400003 24).queueLength (hbmChannel 0x140) = 0 ∧
    tiered.place 0x10000000040 = .tier 0 0x40 ∧ tiered.channelTaken (Place.channel (.tier 0 0x40)) = false ∧
    (tiered.put 0x400004 24).get 0x400004 ≠ 0 := by
  decide +kernel

theorem test_hbm_write_and_merge :
    gives (.hbmWriteAccept 0x140 line true) on (fun t => decide (t.bytesAt 0x140 64 = line ∧ t.mem.tag.get 5 0 = 0xFFFF)) = true ∧
    gives (.readModifyWrite 0x140 1 line false ⟨.hub, []⟩) on (fun t => decide (t.mem.bytes = [⟨0x140, 5⟩] ∧ t.get 0x716007 = 1)) = true ∧
    gives (.readModifyWrite 0x10000000040 1 line false ⟨.hub, []⟩) tiered (fun t => decide (t.mem.bytes = [⟨0x10000000040, 5⟩] ∧ t.get 0x716007 = 1)) = true ∧
    gives (.readModifyWrite 0xFF000000000 1 line false ⟨.hub, []⟩) on (fun t => decide (t.get 0x71600E = 1 ∧ t.get 0x717002 = 1)) = true := by
  decide +kernel

theorem test_writebacks :
    gives (.poisonWriteback 0x100) (writebacks true) (fun t => decide (t.bytesAt 0x100 64 = List.replicate 64 3 ∧ t.mem.tag.get 4 0 = 0xFFFF)) = true ∧
    gives (.scrubWriteback 0x100) (writebacks false) (fun t => decide (t.bytesAt 0x100 64 = List.replicate 64 4 ∧ t.mem.tag.get 4 0 = 0)) = true := by
  decide +kernel

theorem test_refresh_and_scrub :
    gives (.hbmRefresh 0 1 2 300) on (fun t => decide (t.mem.refresh = [(66, 1280)])) = true ∧
    gives (.patrolScrubRead 0x140 [(3, 1)]) (on.put 0x400003 24) (fun t => decide (t.get 0x716010 = 1 ∧
      (t.mem.scrub.get 5 ([], false)).2 = false ∧ (t.mem.scrub.get 5 ([], false)).1.length = 72)) = true := by
  decide +kernel

/-- Die 0 waits at a barrier with its release, held by a supply hold or an ECC hold that is over. -/
def heldAt (h : DieHold) : State := (arrived 1 true).putHold 0 h

/-- Line 5 of die 0's scratchpad is marked pending. -/
def marked (s : State) : State := { s with streams := { s.streams with board := [⟨5, 0, 0⟩] } }

theorem witness_holds :
    (marked lasting).linePending 0 5 = true ∧ lasting.linePending 0 5 = false ∧
    ((marked (lasting.putHold 0 { DieHold.none with supply := true, awaits := [5] })).hold 0).awaits = [5] ∧
    ((heldAt { DieHold.none with supply := true }).hold 0).awaits = [] ∧ (lasting.hold 0).awaits = [] ∧
    (lasting.opBusy 0).isSome = true ∧ (lasting.hold 0).supply = false ∧ ((lasting.putHold 0 { DieHold.none with supply := true }).hold 0).supply = true ∧
    lasting.opAt 0 .arrived = none ∧ (lasting.hold 0).eccUntil ≤ lasting.cycle ∧
    ([heldAt { DieHold.none with supply := true }, heldAt { DieHold.none with eccFrom := 990, eccUntil := 1000 }].all fun s =>
      decide (s.opAt 0 .arrived = some 0 ∧ ((s.op 0).die 0).releaseAt ≠ none ∧ (s.op 0).driven 0 = true ∧
        ((s.op 0).die 0).phase < (s.op 0).phases ∧ (s.hold 0).ecc s.cycle = false ∧ (s.hold 0).powered s.cycle = false ∧
        (s.hold 0).eccUntil ≤ s.cycle)) = true ∧ ((heldAt { DieHold.none with eccFrom := 990, eccUntil := 1000 }).hold 0).supply = false := by
  decide +kernel

theorem test_hold_end_lets_the_die_go_on :
    gives (.supplyHoldEnd 0) (heldAt { DieHold.none with supply := true }) (fun t => decide (((t.op 0).die 0).phase = 2 ∧ (t.hold 0).supply = false)) = true ∧
    gives (.holdEnd 0) (heldAt { DieHold.none with eccFrom := 990, eccUntil := 1000 }) (fun t => decide (((t.op 0).die 0).phase = 2)) = true ∧
    gives (.supplyHoldStart ⟨0, none⟩) lasting (fun t => decide ((t.hold 0).supply = true ∧ t.get 0x715006 = 1)) = true ∧
    gives (.supplyHoldStart ⟨0, (some 5)⟩) lasting (fun t => decide ((t.hold 0).supply = false)) = true ∧
    gives (.supplyHoldStart ⟨0, (some 5)⟩) (marked lasting) (fun t => decide ((t.hold 0).awaits = [5])) = true ∧
    gives (.supplyHoldEnd 0) (marked (lasting.putHold 0 { DieHold.none with supply := true, awaits := [5] })) (fun t => decide ((t.hold 0).supply = true)) = true := by
  decide +kernel

theorem witness_tierAndScratchpad :
    tiered.place 0x10000000040 = .tier 0 0x40 ∧ tiered.channelTaken (320 + 0) = false ∧ tiered.mirrors 0x10000000040 = [] ∧
    on.bankTaken 0 (spBank 0) = false ∧ on.fenced 0 = false ∧
    on.bankAwake 0 (spBank 0) = true ∧ on.bankAwake 2 (spBank 0) = false ∧ on.fenced 2 = false ∧ (on.put 0x330008 1).fenced 0 = true := by
  decide +kernel

theorem test_tier_lines :
    gives (.tierWrite 0x10000000040 line false) tiered (fun t => decide (t.bytesAt 0x10000000040 64 = line)) = true ∧
    gives (.tierRead 0x10000000040 .hub []) tiered (fun t => decide (t.mem.delivered.map Delivery.data = [List.replicate 64 0])) = true := by
  decide +kernel

theorem test_scratchpad_lines :
    gives (.scratchpadAccess 0 0x40 (some ⟨3, line, false⟩) [] false) on (fun t => decide (t.mem.bytes = [⟨0xF0000000040, 5⟩, ⟨0xF0000000041, 5⟩])) = true ∧
    gives (.scratchpadAccess 2 0x40 (some ⟨3, line, false⟩) [] false) on (fun t => decide (t.mem.bytes = [] ∧ t.get 0x716008 = 1)) = true := by
  decide +kernel

theorem witness_modesAndFills :
    on.arr.ops.any OpCtx.inProgress = false ∧ lasting.arr.ops.any OpCtx.inProgress = true ∧ islandUp.railsUp = false ∧
    lasting.taskBusy 0 = true ∧ on.taskBusy 0 = false ∧
    ({ on with cycle := 8393, mem := { on.mem with spFill := [(130, 1)] } } : State).mem.spFill.get (2 * 64 + 2) 0 = 0 + 1 ∧
    on.gone 3 = false ∧ bit on.mem.filled.toNat 3 = false ∧ (on.put 0x404001 (2 * 2 ^ 24)).ddrState 0 = 2 ∧
    (on.put 0x404001 (2 * 2 ^ 24)).fenced 22 = false := by
  decide +kernel

theorem test_bank_mask_waits_for_the_close :
    gives (.spEnableWrite 0 1) on (fun t => decide (t.bankAwake 0 0 = true ∧ t.bankAwake 0 1 = false)) = true ∧
    gives (.spEnableWrite 0 1) lasting (fun t => decide (t.bankAwake 0 1 = true ∧ t.mem.spPending = [(0, 1)])) = true := by
  decide +kernel

theorem test_modes_and_windows :
    gives (.hbmEccModeWrite 1) on (fun t => decide (t.mem.eccMode.get 19 0 = 1)) = true ∧
    gives (.ddrEccModeWrite 1) on (fun t => decide (t.get 0x400002 = 1)) = true ∧
    gives (.taskWindowWrite 0 5 0x12345) on (fun t => decide (t.get 0x410005 = 0x2345)) = true ∧
    gives (.taskWindowWrite 0 5 1) lasting (fun t => decide (t.get 0x410005 = 0 ∧ t.get 0x717005 = 1)) = true := by
  decide +kernel

theorem test_fills :
    gives (.spBankFillDone 2 2) ({ on with cycle := 8393, mem := { on.mem with spFill := [(130, 1)] } }) (fun t => decide (t.bankAwake 2 2 = true)) = true ∧
    gives (.hbmFillDone 3) on (fun t => decide (bit t.mem.filled.toNat 3 = true)) = true ∧
    gives (.ddrFillDone 0) (on.put 0x404001 (2 * 2 ^ 24)) (fun t => decide (t.ddrState 0 = 3)) = true := by
  decide +kernel

/-! ## Streams -/

/-- Bytes of a stream command (R221) and of a stream entry (R224). -/
def commandBytes (cmd thr eng tag count : Nat) : List Byte :=
  leBytes 1 1 ++ leBytes 1 cmd ++ leBytes 2 (eng * 64 + thr) ++ leBytes 4 tag ++ leBytes 8 0x5000 ++ leBytes 4 count ++ leBytes 4 0 ++ leBytes 2 6 ++ List.replicate 38 0

/-- Bytes of an entry that moves `len` bytes from one task address to another. -/
def entryBytes (src dst len rows flags : Nat) : List Byte :=
  leBytes 8 src ++ leBytes 8 dst ++ leBytes 4 len ++ leBytes 2 rows ++ leBytes 4 0 ++ leBytes 1 0x21 ++ leBytes 1 flags ++ leBytes 4 0

/-- A thread of a given mode. -/
def threadIn (m : ThreadMode) : Thread := { Thread.reset with mode := m, list := 0x5000, count := 2, cring := 6, startedAt := 900 }

/-- The issue ring's head names the command at 0x3000, for thread 1 of engine 0. -/
def commandState (cmd : Nat) (th : Thread) (eng : Nat := 0) : State :=
  let s := issueState (issueEntry 0x3000 2 0)
  { s with mem := { s.mem with bytes := s.mem.bytes ++ bytesFrom 0x3000 (commandBytes cmd 1 eng 77 2) }
           streams := { s.streams with threads := if th = Thread.reset then [] else [(1, th)] } }

/-- The hypotheses of a command at the head. -/
def commandIs (s : State) (cmd eng thr refusal : Nat) (valid : Bool) : Bool :=
  headIs s 2 0 0x3000 false && (match s.issueHead with
    | some (_, u) => (fun c => decide (c.valid = valid ∧ c.cmd = cmd ∧ c.eng = eng ∧ c.thr = thr) && (!valid || decide (s.refusal c = refusal)))
        (Command.decode (u.issueAdvance.readPhys 0x3000 64).1)
    | none => false)

theorem witness_streamCommands :
    commandIs (commandState 1 Thread.reset) 1 0 1 0 true = true ∧ commandIs (commandState 2 (threadIn .parked)) 2 0 1 0 true = true ∧
    commandIs (commandState 3 (threadIn .running)) 3 0 1 0 true = true ∧ commandIs (commandState 3 (threadIn .parked)) 3 0 1 0 true = true ∧ commandIs (commandState 1 (threadIn .running)) 1 0 1 1 true = true ∧
    commandIs (commandState 2 Thread.reset) 2 0 1 3 true = true ∧ commandIs (commandState 3 Thread.reset) 3 0 1 3 true = true ∧
    commandIs (commandState 4 (threadIn .parked)) 4 0 1 0 true = true ∧ commandIs (commandState 5 Thread.reset) 5 0 1 0 false = true ∧
    commandIs (commandState 1 Thread.reset 22) 1 22 1 0 false = true := by
  decide +kernel

theorem test_start_runs_the_thread :
    gives .start (commandState 1 Thread.reset) (fun t => decide ((t.thread 0 1).mode = .running ∧ (t.thread 0 1).count = 2 ∧ (t.thread 0 1).tag = 77 ∧
      (t.thread 0 1).list = 0x5000 ∧ (t.thread 0 1).cring = 6)) = true ∧
    gives .start (commandState 1 (threadIn .running)) (fun t => decide (t.streams = (commandState 1 (threadIn .running)).streams ∧ t.get 0x717005 = 1)) = true := by
  decide +kernel

/-- A QUERY of thread 62 of die 0 while it fetches metadata, and with nothing under way. -/
def ownQuery (busy : Bool) : State :=
  let s := issueState (issueEntry 0x3000 2 0)
  { s with mem := { s.mem with bytes := s.mem.bytes ++ bytesFrom 0x3000 (commandBytes 4 62 0 77 2) }
           arr := if busy then (fetching badLast none []).arr else s.arr }

theorem witness_queryOfOwnThreads :
    commandIs (ownQuery true) 4 0 62 4 true = true ∧ commandIs (ownQuery false) 4 0 62 4 true = true ∧
    (ownQuery true).ownThread 0 62 = true ∧ (ownQuery true).fenced 0 = false ∧ (ownQuery false).ownThread 0 62 = false := by
  decide +kernel

theorem test_rearm_stop_and_query :
    gives .rearm (commandState 2 (threadIn .parked)) (fun t => decide ((t.thread 0 1).mode = .running)) = true ∧
    gives .stop (commandState 3 (threadIn .running)) (fun t => decide ((t.thread 0 1).stopping.length = 1)) = true ∧
    gives .stop (commandState 3 (threadIn .parked)) (fun t => decide (t.thread 0 1 = Thread.reset ∧ (t.ring 0).ci = 1)) = true ∧
    gives .query (commandState 4 (threadIn .parked)) (fun t => decide ((t.ring 0).ci = 1)) = true ∧
    gives .invalidCommand (commandState 5 Thread.reset) (fun t => decide ((t.ring 0).ci = 1)) = true := by
  decide +kernel

/-- Thread 1 of engine 0. -/
def withThread (th : Thread) : State := withLast { on with streams := { on.streams with threads := [(1, th)] } }

/-- A thread with both entries landed: a copy of 64 bytes from HBM 0x6000 to 0x7000, with flags, and a second one. -/
def fetched (flags : Nat) : Thread :=
  { threadIn .running with entries := [(0, entryBytes 0x6000 0x7000 64 1 flags), (1, entryBytes 0x6000 0x7000 64 1 0)], fetched := 2 }

/-- The first entry, issued, with every line landed in cycle 995. -/
def oldest (flags : Nat) : IssuedEntry :=
  { index := 0, entry := entryBytes 0x6000 0x7000 64 1 flags, handle := 0, issuedAt := 990, remote := 0, mcEnd := none, parity := false
    row := 1, off := 0, carry := [], flying := [], landedAt := 995, marked := 0 }

/-- Its first entry has issued. -/
def issued (flags : Nat) : Thread :=
  { fetched flags with next := 1, issued := [oldest flags] }

theorem witness_stopComplete :
    (withThread { threadIn .running with stopping := [⟨5, 6, 49999000, 0⟩] }).mirrorWait 0 = false ∧
    ((withThread { threadIn .running with stopping := [⟨5, 6, 49999000, 0⟩] }).thread 0 1).stopping ≠ [] ∧
    ((withThread { threadIn .running with stopping := [⟨5, 6, 49999000, 0⟩] }).thread 0 1).issued = [] ∧ (threadIn .running).mode ≠ .idle := by
  decide +kernel

theorem test_stop_completes :
    gives (.stopComplete 0 1) (withThread { threadIn .running with stopping := [⟨5, 6, 49999000, 0⟩] }) (fun t => decide (t.thread 0 1 = Thread.reset)) = true := by
  decide +kernel

theorem witness_batches :
    (threadIn .running).stopping = [] ∧ (threadIn .running).retained = false ∧ (threadIn .running).fetching = none ∧
    (threadIn .running).fetched < (threadIn .running).ending ∧ (threadIn .running).fetched = 0 ∧
    (let s := withThread { threadIn .running with fetching := some 904 }
     904 + s.batchTime 0 { threadIn .running with fetching := some 904 } 0x5000 32 ≤ s.cycle ∧
     (List.range 32).all (fun i => s.xlate (s.window 0) (engDie 0) (0x5000 + i) = .clip) = false) ∧
    (let s := { on with streams := { on.streams with threads := [(1, { threadIn .running with fetching := some 904 })] } }
     904 + s.batchTime 0 { threadIn .running with fetching := some 904 } 0x5000 32 ≤ s.cycle ∧
     (List.range 32).all (fun i => s.xlate (s.window 0) (engDie 0) (0x5000 + i) = .clip) = true) := by
  decide +kernel

theorem test_batches :
    gives (.streamBatchFetch 0 1) (withThread (threadIn .running)) (fun t => decide ((t.thread 0 1).fetching = some 1000)) = true ∧
    gives (.streamBatchLanded 0 1) (withThread { threadIn .running with fetching := some 904 }) (fun t => decide ((t.thread 0 1).fetched = 1 ∧
      (t.thread 0 1).entries.length = 1)) = true ∧
    gives (.streamBatchLanded 0 1) (withThread { threadIn .running with fetching := some 905 }) (fun t => decide ((t.thread 0 1).fetched = 0)) = true := by
  decide +kernel

/-- A lace with a handle. -/
def withLace (s : State) (n : Nat) (l : List U32) : State := { s with streams := { s.streams with laces := [(n, { Lace.empty with handles := l })] } }

/-- The entry's conditions to issue. -/
def mayIssue (s : State) (flags : Nat) : Bool := s.mayIssueEntry 0 (fetched flags) (Entry.decode (entryBytes 0x6000 0x7000 64 1 flags))

theorem witness_entries :
    mayIssue (withThread (fetched 0)) 0 = true ∧ mayIssue (withLace (withThread (fetched 0x40)) 2 [9]) 0x40 = true ∧
    mayIssue (withThread (fetched 8)) 8 = true ∧ (fetched 0).turn = some (entryBytes 0x6000 0x7000 64 1 0) ∧
    (Entry.decode (entryBytes 0x6000 0x7000 64 1 0x40)).pop = true ∧ (Entry.decode (entryBytes 0x6000 0x7000 64 1 8)).stage = true ∧
    (Entry.decode (entryBytes 0x6000 0x7000 64 1 0x80)).push = true ∧ (Entry.decode (entryBytes 0x6000 0x7000 64 1 0)).rsrc = false ∧
    (Entry.decode (entryBytes 0x6000 0x7000 64 1 0)).rdst = false ∧ (issued 0x80).mode = .running ∧
    ((issued 0x80).issued.all fun x => x.landed 1000 && decide (x.mcEnd = none)) = true ∧
    ((withThread (issued 0x80)).lace 0 1).handles.length < 64 ∧ (issued 0x80).stopping = [] ∧
    64 ≤ ((withLace (withThread { issued 0x80 with stopping := [⟨5, 6, 49999000, 0⟩] }) 1 (List.replicate 64 9)).lace 0 1).handles.length := by
  decide +kernel

theorem test_entry_issues :
    gives (.streamEntryIssue 0 1 false) (withLace (withThread (fetched 0x40)) 2 [9]) (fun t => decide ((t.thread 0 1).next = 1 ∧ (t.lace 0 2).handles = [] ∧
      (t.thread 0 1).issued.map IssuedEntry.handle = [9])) = true := by
  decide +kernel

theorem test_entry_completes :
    gives (.streamEntryComplete 0 1) (withThread (issued 0x80)) (fun t => decide ((t.lace 0 1).handles = [0x7000] ∧ (t.thread 0 1).issued = [])) = true ∧
    gives (.streamEntryComplete 0 1) (withLace (withThread (issued 0x80)) 1 (List.replicate 64 9)) (fun t => decide ((t.thread 0 1).issued.length = 1)) = true ∧
    gives (.streamEntryComplete 0 1) (withLace (withThread { issued 0x80 with stopping := [⟨5, 6, 49999000, 0⟩] }) 1 (List.replicate 64 9))
      (fun t => decide ((t.thread 0 1).issued = [] ∧ t.get 0x717008 = 1)) = true := by
  decide +kernel

/-- The first line of the entry lands in this cycle. -/
def landing : State :=
  withThread { issued 0 with issued := [{ oldest 0 with flying := [⟨1000, 0x7000, List.replicate 64 (8, false)⟩] }] }

theorem test_line_lands_in_its_cycle :
    (match step landing with | .next t => decide (byteAt t 0x7001 = 8 ∧ ((t.thread 0 1).issued.map IssuedEntry.flying) = [[]]) | _ => false) = true := by
  decide +kernel

/-- A thread at the end of its pass. -/
def passed (persist : Bool) : Thread := { fetched 0 with next := 2, persist := persist }

theorem witness_passComplete :
    ([true, false].all fun b => decide ((passed b).stopping = [] ∧ (passed b).issued = [] ∧ (passed b).ending ≤ (passed b).next ∧ (passed b).fetching = none ∧
      (withThread (passed b)).mirrorWait (passed b).mirSeq = false)) = true := by
  decide +kernel

theorem test_pass_completes :
    gives (.streamPassComplete 0 1) (withThread (passed true)) (fun t => decide ((t.thread 0 1).mode = .parked ∧ t.get 0x717004 = 1)) = true ∧
    gives (.streamPassComplete 0 1) (withThread (passed false)) (fun t => decide (t.thread 0 1 = Thread.reset)) = true := by
  decide +kernel

/-! ## Laces, rings and objects -/

theorem witness_laces :
    ((withLace on 2 (List.replicate 63 1)).lace 0 2).handles.length < 64 ∧ 64 ≤ ((withLace on 2 (List.replicate 64 1)).lace 0 2).handles.length ∧
    ((withLace on 2 [1]).lace 0 2).handles = 1 :: [] ∧ (on.lace 0 2).handles = [] := by
  decide +kernel

theorem test_lace_windows :
    gives (.laceWindowPush 0 2 7) (withLace on 2 [1]) (fun t => decide ((t.lace 0 2).handles = [1, 7])) = true ∧
    gives (.laceWindowPush 0 2 7) (withLace on 2 (List.replicate 64 1)) (fun t => decide ((t.lace 0 2).handles.length = 64 ∧ t.get 0x717008 = 1)) = true := by
  decide +kernel

theorem test_lace_pop_and_clear :
    gives (.laceWindowPop 0 2 false) (withLace on 2 [1, 7]) (fun t => decide (t.hub.readValue = [1, 0, 0, 0] ∧ (t.lace 0 2).handles = [7])) = true ∧
    gives (.laceWindowPop 0 2 false) on (fun t => decide ((t.lace 0 2).underrun = true ∧ t.get 0x717007 = 1)) = true ∧
    gives (.laceStatusWrite 0 2 1) ({ on with streams := { on.streams with laces := [(2, { Lace.empty with underrun := true })] } })
      (fun t => decide (t.lace 0 2 = Lace.empty)) = true := by
  decide +kernel

/-- Ring 7 of a type with two slots of 16 bytes at 0x9000, its indices, and a ring 7 whose slots take two lines. -/
def ringState (type : Byte) (pi ci : U32) (esize : Byte := 0) : State :=
  { on with hub := { on.hub with rings := [(7, { Ring.zero with base := 0x9000, type := type, order := 1, esize := esize, pi := pi, piDup := pi, ci := ci, ciDup := ci })] } }

theorem witness_rings :
    on.railsUp = true ∧ on.asleep = false ∧
    ([ringState 2 0 0, ringState 5 1 0, ringState 2 1 0 3].all fun s => let r := s.ring 7
      decide (ringBroken r = false ∧ (ringType 7 r = 2 ∨ ringType 7 r = 5) ∧ ringFull r = false ∧ s.mirrors (ringSlotAddr 7 r r.pi / 64 * 64) = [])) = true ∧
    (ringState 2 0 0).place 0x9000 = .hbm 0 0x9000 ∧ (ringState 2 1 0 3).place 0x90C0 = .hbm 0 0x90C0 ∧ 64 < ringSlotSize 7 ((ringState 2 1 0 3).ring 7) ∧
    ringFull ((ringState 2 2 0).ring 7) = true ∧ ringType 7 ((ringState 0 0 0).ring 7) = 0 ∧ ringType 0 ((issueState []).ring 0) = 1 ∧
    ringHeld ((ringState 2 1 0).ring 7) ≠ 0 ∧ ringHeld ((ringState 2 1 1).ring 7) = 0 ∧ ((ringState 2 1 0).ring 7).held = false ∧
    (ringState 2 1 0).hub.held = [] ∧ ringSlots ((ringState 2 1 0).ring 7) < ((3 : U32) - ((ringState 2 1 0).ring 7).ci).toNat ∧
    ¬(ringSlots ((ringState 2 1 0).ring 7) < ((2 : U32) - ((ringState 2 1 0).ring 7).ci).toNat) := by
  decide +kernel

theorem test_push_stores_the_entry :
    gives (.ringPushWindow .endpoint 7 [1, 2, 3] false) (ringState 2 1 0) (fun t => decide (t.bytesAt 0x9010 4 = [1, 2, 3, 0] ∧ (t.ring 7).pi = 2)) = true ∧
    gives (.ringPushWindow .endpoint 7 [1] false) (ringState 2 2 0) (fun t => decide ((t.ring 7).overflow = true ∧ (t.ring 7).drops = 1 ∧ t.get 0x717008 = 1)) = true := by
  decide +kernel

theorem test_pop_and_index_writes :
    gives (.ringPopWindow 7 false) (ringState 2 1 0) (fun t => decide ((t.ring 7).ci = 1 ∧ t.hub.readValue.length = 128)) = true ∧
    gives (.ringIndexWrite 7 .pi 2) (ringState 2 1 0) (fun t => decide ((t.ring 7).pi = 2 ∧ (t.ring 7).piDup = 2)) = true ∧
    gives (.ringIndexWrite 7 .pi 3) (ringState 2 1 0) (fun t => decide ((t.ring 7).pi = 1 ∧ (t.ring 7).overflow = true)) = true ∧
    gives (.ringIndexWrite 7 .ci 2) (ringState 2 1 0) (fun t => decide ((t.ring 7).ci = 0 ∧ (t.ring 7).underrun = true)) = true := by
  decide +kernel

theorem test_ring_fields :
    gives (.ringStatusWrite 7 .esize 0x103) (ringState 2 1 0) (fun t => decide ((t.ring 7).esize = 3)) = true ∧
    gives (.ringStatusWrite 0 .type 2) on (fun t => decide (t = on)) = true := by
  decide +kernel

theorem test_objects_count :
    gives (.syncWindowSet 16 5) on (fun t => decide (t.count 16 = 5)) = true ∧ gives (.syncWindowSet 15 5) on (fun t => decide (t = on)) = true ∧
    gives (.syncWindowAdd 16 (BitVec.ofNat 64 (2 ^ 64 - 1)) false) ({ on with hub := { on.hub with sync := [(16, 2)] } }) (fun t => decide (t.count 16 = 1)) = true ∧
    gives (.syncAddArrival [(16, 1), (16, 2), (15, 1)] 0) on (fun t => decide (t.count 16 = 3 ∧ t.get 0x71700F = 1)) = true ∧
    gives (.syncAddArrival [] 1) { on with net := { on.net with adds := [(16, 4), (16, 9)] } } (fun t =>
      decide (t.count 16 = 4 ∧ t.net.adds = [(16, 9)])) = true ∧
    gives (.syncAddArrival [(15, 1)] 0) on (fun t => decide (t.get 0x71700F = 1 ∧ t.net = on.net)) = true ∧
    gives (.syncWindowSet 16 5) { on with hub := { on.hub with added := [(16, 1001, 2)] } } (fun t => decide (t.count 16 = 7)) = true := by
  decide +kernel

/-! ## The welt network -/

/-- Beats of sevens. -/
def beatsOf (n : Nat) : List Beat := List.replicate n ⟨List.replicate 64 7, false⟩

/-- A transfer from CD0, numbered, with beats here and beats to come. -/
def xferTo (id dst beats more : Nat) (prio : Nat := 3) : Xfer :=
  { id := id, src := 0, dst := dst, exit := dst, cls := .request, vcB := false, down := false, source := .hub, prio := prio
    load := .write 0x1000000000, beats := beatsOf beats, more := more }

/-- CD1's west port: the frame that has crossed its link, and what its buffer holds. -/
def crossing (fly held : List Xfer) : State :=
  { on with net := { on.net with flying := fly.map fun x => ⟨1, 3, 1000, x⟩, bufs := if held = [] then [] else [(bufKey 1 3 .request false, held)] } }

/-- A request for port 1 that has reached fabric die 0. -/
def atFabric : State :=
  { on with net := { on.net with flying := [⟨20, 0, 1000, { xferTo 9 20 1 0 with exit := 0, load := .fabric 1 0 }⟩] } }

theorem witness_framesThatCross :
    on.railsUp = true ∧ on.fenced 1 = false ∧ on.fenced 2 = false ∧ on.portTaken 1 (dirNumber .west) = false ∧
    (crossing [xferTo 7 2 7 0] [xferTo 7 2 3 7]).frameAt 1 (dirNumber .west) = some ⟨1, 3, 1000, xferTo 7 2 7 0⟩ ∧
    (crossing [xferTo 7 1 7 0] []).frameAt 1 (dirNumber .west) = some ⟨1, 3, 1000, xferTo 7 1 7 0⟩ ∧
    (crossing [xferTo 7 1 7 5] []).frameAt 1 (dirNumber .west) = some ⟨1, 3, 1000, xferTo 7 1 7 5⟩ ∧
    (crossing [xferTo 7 1 7 0] []).net.ending = [] ∧ linkPeer 1 (dirNumber .west) = some 0 ∧ on.fenced 0 = false ∧
    on.isl.rails.lostPending = [] ∧ atFabric.fenced 20 = false ∧ atFabric.portTaken 20 (dirNumber .north) = false ∧
    (atFabric.frameAt 20 (dirNumber .north)).isSome = true := by
  decide +kernel

theorem test_frames_that_cross :
    gives (.weltFrameReceive 1 .west ⟨none, [1, 9], false⟩) (crossing [xferTo 7 2 7 0] [xferTo 7 2 3 7]) (fun t => decide (t.net.flying = [] ∧
      (t.buf (bufKey 1 3 .request false)).map (fun x => (x.beats.map Beat.poison, x.more)) =
        [([false, false, false, false, true, false, false, false, false, false], 0)] ∧ t.get 0x718008 = 1)) = true ∧
    gives (.weltFrameReceive 1 .west ⟨none, [], false⟩) (crossing [xferTo 7 1 7 0] []) (fun t => decide (t.net.bufs = [] ∧
      (1, xferTo 7 1 7 0) ∈ t.net.arrived)) = true ∧
    gives (.weltFrameReceive 1 .west ⟨none, [], false⟩) (crossing [xferTo 7 1 7 5] []) (fun t => decide ((1, xferTo 7 1 7 5) ∈ t.net.ending)) = true ∧
    gives (.weltFrameReceive 1 .west ⟨none, [], true⟩) (crossing [xferTo 7 2 7 0] [xferTo 7 2 3 7]) (fun t => decide (t.net.bufs = [] ∧
      t.isl.rails.lostPending = [(0, 4)])) = true ∧
    gives (.weltFrameReceive 20 .north ⟨none, [], false⟩) atFabric (fun t => decide ((t.buf (bufKey 20 0 .request false)).length = 1)) = true := by
  decide +kernel

/-- A frame that a die's own units send, and the state in which CD0's local buffer holds so many beats. -/
def ownFrame (dst beats more : Nat) : Frame :=
  { cls := .request, dst := dst, source := .hub, load := .write 0x1000000000, first := true, beats := beatsOf beats, more := more }

def localHeld (beats : Nat) : State :=
  { on with net := { on.net with bufs := [(bufKey 0 4 .request false, [xferTo 7 2 beats 0])] } }

theorem witness_framesThatEnter :
    on.frameAt 0 (dirNumber .localPort) = none ∧ (on.openXfer 0 0 (ownFrame 2 7 0)).isSome = true ∧ on.portTaken 0 (dirNumber .localPort) = false ∧
    7 ≤ (localHeld 57).credits (bufKey 0 4 .request false) ∧ (localHeld 58).credits (bufKey 0 4 .request false) < 7 ∧
    on.frameAt 1 (dirNumber .north) = none ∧ linkPeer 1 (dirNumber .north) = some 22 ∧ on.fenced 22 = false ∧
    ((on.openXfer 22 1 (ownFrame 2 7 0)).map fun x => (x.exit, x.vcB)) = some (2, false) ∧
    7 ≤ on.credits (bufKey 1 0 .request false) := by
  decide +kernel

theorem test_frames_that_enter :
    gives (.weltFrameReceive 0 .localPort ⟨(some (ownFrame 2 7 5)), [], false⟩) (localHeld 57) (fun t => decide (bufBeats (t.buf (bufKey 0 4 .request false)) = 64 ∧
      t.net.nextId = 1)) = true ∧
    gives (.weltFrameReceive 0 .localPort ⟨(some (ownFrame 2 7 0)), [], false⟩) (localHeld 58) (fun t => decide (t.net.bufs = (localHeld 58).net.bufs)) = true ∧
    gives (.weltFrameReceive 1 .north ⟨(some (ownFrame 2 7 0)), [], false⟩) on (fun t => decide (bufBeats (t.buf (bufKey 1 0 .request false)) = 7 ∧
      t.get 0x718001 = 7)) = true ∧
    gives (.weltFrameReceive 0 .localPort ⟨(some (ownFrame 2 1 64)), [], false⟩) on (fun t => decide (t.net.bufs = [])) = true := by
  decide +kernel

/-- Two requests for the channel of line 0x100. -/
def requests : List ArbReq := [⟨2, .carried 3, .hbmRead 0x100 .hub⟩, ⟨1, .carried 5, .hbmRead 0x100 .hub⟩]

/-- CD1's west buffer and local buffer hold transfers for CD2, and CD1's east link may be held by the first since a cycle. -/
def linkState (west loc : List Xfer) (since : Option Nat) : State :=
  { on with net := { on.net with
      bufs := (if west = [] then [] else [(bufKey 1 3 .request false, west)]) ++ (if loc = [] then [] else [(bufKey 1 4 .request false, loc)])
      arbiters := match since with
        | none => []
        | some c => [⟨.weltLink 1 .east, [], some ⟨{ on.newWaiter 3 (.carried 3) .none with key := bufKey 1 3 .request false, xfer := 7 }, c⟩, 0⟩] } }

theorem witness_rounds :
    on.resourceBusy (.hbmPort 0 (hbmChannel 0x100)) = false ∧ takenState.resourceBusy (.hbmPort 0 (hbmChannel 0x100)) = true ∧
    (requests.filter fun r => on.jobFits (.hbmPort 0 (hbmChannel 0x100)) r.job) = requests ∧
    (updating (some 2) 0 false false).railsUp = true ∧ ((updating (some 2) 0 false false).rowContenders 0 0 (accBank 2)).length = 1 ∧
    ((updating (some 2) 16 false false).confOf 0 (accBank 2)).length ≤ 16 := by
  decide +kernel

theorem test_higher_priority_wins_the_round :
    gives (.arbiterGrant (.hbmPort 0 (hbmChannel 0x100)) requests) on (fun t =>
      decide ((t.arbiter (.hbmPort 0 (hbmChannel 0x100))).waiters.map Waiter.port = [2] ∧
        (t.arbiter (.hbmPort 0 (hbmChannel 0x100))).waiters.map Waiter.age = [1] ∧ t.get 0x718002 = 1 ∧ t.mem.reads.length = 1)) = true ∧
    gives (.arbiterGrant (.hbmPort 0 (hbmChannel 0x100)) requests) takenState (fun t => decide (t.mem.reads = [] ∧ t.get 0x718002 = 0)) = true ∧
    gives (.arbiterGrant (.accBank 0 (accBank 2)) []) (updating (some 2) 0 false false) (fun t => decide (t.get 0x713001 = 1)) = true ∧
    gives (.arbiterGrant (.accBank 0 (accBank 2)) []) (updating (some 2) 16 false false) (fun t => decide (t.get 0x713003 = 1 ∧ t.get 0x718002 = 1)) = true := by
  decide +kernel

theorem witness_links :
    ([linkState [] [] none, linkState [xferTo 7 2 14 0] [] none, linkState [xferTo 7 2 14 0] [] (some 999),
        linkState [xferTo 7 2 14 0] [xferTo 8 2 7 0 15] (some 999), linkState [xferTo 7 2 7 0] [xferTo 8 2 7 0] (some 999),
        linkState [xferTo 7 2 14 0] [] (some 1000)].all fun s =>
      decide ((s.arbiter (.weltLink 1 .east)).round ≠ s.cycle + 1 ∧ s.slotNow (.weltLink 1 .east) = false ∧ s.fenced 1 = false)) = true ∧
    (linkState [] [] none).linkField (.weltLink 1 .east) = [] ∧ (linkState [xferTo 7 2 14 0] [] none).linkField (.weltLink 1 .east) ≠ [] ∧
    (((linkState [xferTo 7 2 14 0] [xferTo 8 2 7 0] (some 999)).arbiter (.weltLink 1 .east)).holder.map fun h =>
      ((linkState [xferTo 7 2 14 0] [xferTo 8 2 7 0] (some 999)).sendOwner (.weltLink 1 .east) h.w).2) = some false ∧
    (((linkState [xferTo 7 2 7 0] [] (some 999)).arbiter (.weltLink 1 .east)).holder.map fun h =>
      ((linkState [xferTo 7 2 7 0] [] (some 999)).sendOwner (.weltLink 1 .east) h.w).2) = some true := by
  decide +kernel

theorem test_link_is_granted_kept_and_preempted :
    gives (.arbiterGrant (.weltLink 1 .east) []) (linkState [xferTo 7 2 14 0] [xferTo 8 2 7 0 15] none) (fun t => decide (
      (t.arbiter (.weltLink 1 .east)).holder.map (fun h => h.w.port) = some 4 ∧ t.get 0x718002 = 1 ∧ t.net.flying = [])) = true ∧
    gives (.arbiterGrant (.weltLink 1 .east) []) (linkState [xferTo 7 2 14 0] [xferTo 8 2 7 0] (some 999)) (fun t => decide (
      (t.arbiter (.weltLink 1 .east)).holder.map (fun h => h.w.port) = some 3 ∧ t.get 0x718003 = 0 ∧ t.get 0x718001 = 7 ∧
      t.net.flying.map (fun f => (f.die, f.port, f.due, f.xfer.more)) = [(2, 3, 1012, 7)])) = true ∧
    gives (.arbiterGrant (.weltLink 1 .east) []) (linkState [xferTo 7 2 14 0] [xferTo 8 2 7 0 15] (some 999)) (fun t => decide (
      (t.arbiter (.weltLink 1 .east)).holder.map (fun h => h.w.port) = some 4 ∧ t.get 0x718003 = 1)) = true := by
  decide +kernel

theorem test_last_data_cycle_holds_a_round :
    gives (.arbiterGrant (.weltLink 1 .east) []) (linkState [xferTo 7 2 7 0] [xferTo 8 2 7 0] (some 999)) (fun t => decide (
      (t.arbiter (.weltLink 1 .east)).holder.map (fun h => (h.w.port, h.since)) = some (4, 1000))) = true ∧
    gives (.arbiterGrant (.weltLink 1 .east) []) (linkState [xferTo 7 2 14 0] [] (some 1000)) (fun t => decide (t.net.flying = [])) = true := by
  decide +kernel

/-! ## Sundu links -/

/-- The check value that R278 gives. -/
theorem test_crc_check_value : crc64 [0x31, 0x32, 0x33, 0x34, 0x35, 0x36, 0x37, 0x38, 0x39] = 0x995DC9BBDF1939FA := by decide +kernel

/-- Port 2 in a STATE, with a link layer. -/
def portIn (st : Nat) (x : Port) : State :=
  let s := putAll on [(0x501003, st * 2 ^ 24), (0x500301, 0xFF)]
  { s with fab := { s.fab with ports := if x = Port.down then [] else [(2, x)] } }

/-- Hello records: of version range 1 to 1, and 2 to 2, with UID 9. -/
def hello (lo hi : Nat) (manager : Bool) : List Byte :=
  fit 64 (leBytes 1 1 ++ leBytes 1 lo ++ leBytes 1 hi ++ leBytes 1 (if manager then 0x85 else 5) ++ leBytes 2 0x123 ++ leBytes 2 0 ++ leBytes 8 9)

theorem witness_training :
    (portIn 1 .down).portState 2 = 1 ∧ (portIn 3 .down).portState 2 = 3 ∧ (portIn 2 .down).fab.manager = none ∧ (portIn 2 .down).portState 2 = 2 ∧ ((portIn 2 .down).port 2).lastHello = 0 ∧
    (portIn 4 { Port.down with hellosLeft := 1, lastHello := 49999988 }).portLinked 2 = true ∧
    ((portIn 4 { Port.down with hellosLeft := 1, lastHello := 49999988 }).port 2).lastHello + 12 ≤ (portIn 4 .down).tick ∧
    helloAgrees (hello 1 1 false) = true ∧ helloAgrees (hello 2 2 false) = false ∧ bit (field (hello 1 1 true) 3 1) 7 = true ∧
    (putAll (portIn 2 .down) [(0x500003, 1), (0x500004, 10)]).get 0x500003 ≠ 0 ∧
    field (hello 1 1 true) 8 8 < (putAll (portIn 2 .down) [(0x500003, 1), (0x500004, 10)]).get 0x500004 ∧ (portIn 5 .down).portState 2 ≤ 5 := by
  decide +kernel

theorem test_training_and_hellos :
    gives (.phyTrainingComplete 2) (portIn 1 .down) (fun t => decide (t.portState 2 = 2)) = true ∧
    gives (.phyTrainingComplete 2) (portIn 3 .down) (fun t => decide (t.portState 2 = 2)) = true ∧
    gives (.helloReceive 2 (hello 1 1 true) true) (portIn 2 .down) (fun t => decide (t.fab.manager = some (0x123, [2]))) = true ∧
    gives (.helloSend 2) (portIn 2 .down) (fun t => decide ((t.port 2).sent.length = 1 ∧ (t.port 2).lastHello = 50000000)) = true := by
  decide +kernel

theorem test_hello_selects_version_1 :
    gives (.helloReceive 2 (hello 1 1 false) true) (portIn 2 .down) (fun t => decide (t.portState 2 = 4 ∧ t.get 0x501103 = 9 ∧ bits (t.get 0x501003) 11 0 = 0x123)) = true ∧
    gives (.helloReceive 2 (hello 2 2 false) true) (portIn 2 .down) (fun t => decide (t.portState 2 = 3 ∧ t.get 0x719012 = 1)) = true := by
  decide +kernel

/-- A flit: header fields, payload, and its CRC. -/
def flit (kind lane seq ack credit : Nat) (payload : List Byte) : List Byte :=
  let head := fit 248 (leBytes 1 (kind + lane * 4) ++ [0] ++ leBytes 2 seq ++ leBytes 2 ack ++ leBytes 2 credit ++ payload)
  head ++ leBytes 8 (crc64 head).toNat

/-- Port 2 is linked, with flits 4 and 5 unacknowledged. -/
def linked : State :=
  portIn 5 { Port.down with replay := [⟨4, 0, [], 49999975, []⟩, ⟨5, 0, [], 49999975, []⟩], replays := 7, rxNext := 3 }

set_option maxRecDepth 100000 in
theorem witness_flits :
    linked.portLinked 2 = true ∧ field (flit 1 0 3 0 0 []) 248 8 = (crc64 (fit 248 (flit 1 0 3 0 0 []))).toNat ∧
    field (flit 1 0 3 0 0 []) 0 1 % 4 = 1 ∧ field (flit 1 0 3 0 0 []) 2 2 % 4096 = (linked.port 2).rxNext ∧
    field (flit 1 0 4 0 0 []) 2 2 % 4096 ≠ (linked.port 2).rxNext ∧ field (List.replicate 256 7) 248 8 ≠ (crc64 (List.replicate 248 7)).toNat ∧
    field (flit 0 0 0 0 0x9003 []) 0 1 % 4 = 0 ∧ bit (field (flit 0 0 0 0 0x9003 []) 6 2) 15 = true ∧
    bit (field (flit 0 0 0 0x8004 0 []) 4 2) 15 = true ∧ bit (field (flit 0 0 0 0x8004 0 []) 4 2) 14 = false ∧
    ((linked.port 2).replay.map ReplayFlit.seq) = [field (flit 0 0 0 0x8004 0 []) 4 2 % 4096, 5] := by
  decide +kernel

set_option maxRecDepth 100000 in
theorem test_data_flit_is_accepted_in_order :
    gives (.flitReceive 2 (flit 1 0 3 0 0 []) 0 0) linked (fun t => decide ((t.port 2).rxNext = 4 ∧ (t.port 2).ackNext = some 3 ∧ t.get 0x719002 = 1)) = true ∧
    gives (.flitReceive 2 (flit 1 0 4 0 0 []) 0 0) linked (fun t => decide ((t.port 2).rxNext = 3 ∧ (t.port 2).nakPending = true)) = true ∧
    gives (.flitReceive 2 (List.replicate 256 7) 0 0) linked (fun t => decide (t.get 0x719005 = 1)) = true := by
  decide +kernel

set_option maxRecDepth 100000 in
theorem test_credit_and_acknowledgement :
    gives (.flitReceive 2 (flit 0 0 0 0 0x9003 []) 0 0) linked (fun t => decide ((t.port 2).credits = [512, 515, 256, 256])) = true ∧
    gives (.flitReceive 2 (flit 0 0 0 0x8004 0 []) 0 0) linked (fun t => decide ((t.port 2).replay.map ReplayFlit.seq = [5])) = true := by
  decide +kernel

/-- Port 2 retrains since a tick. -/
def retraining (since : Nat) : State := portIn 1 { Port.down with retrainSince := some since }

theorem witness_replays :
    ((linked.port 2).replay.head?.map fun f => decide (f.sentAt + 25 ≤ linked.tick)) = some true ∧ (linked.port 2).retrainSince = none ∧
    (linked.port 2).replays < 8 ∧ 8 ≤ ((linked.putPort 2 { linked.port 2 with replays := 8 }).port 2).replays ∧
    (retraining 48750000).tick ≤ 48750000 + 1250000 ∧ (retraining 48750000).portState 2 ≠ 3 ∧ 48750000 + 1250000 ≤ (retraining 48750000).tick ∧
    (retraining 48750000).portState 2 ≠ 0 ∧ ((portIn 0 .down).port 2).cage = false ∧ (portIn 0 .down).portMayTrain 2 = true ∧
    (portIn 0 .down).portState 2 = 0 := by
  decide +kernel

theorem test_replay_retrain_and_timeout :
    gives (.replayTimeout 2) linked (fun t => decide ((t.port 2).replays = 8 ∧ t.get 0x719006 = 1 ∧
      (t.port 2).sent.length = 2)) = true ∧
    gives (.replayTimeout 2) (linked.putPort 2 { linked.port 2 with replays := 8 }) (fun t => decide (t.portState 2 = 1 ∧
      (t.port 2).retrainSince = some 50000000 ∧ t.get 0x719006 = 0)) = true ∧
    gives (.retrainDone 2) (retraining 48750000) (fun t => decide (t.portState 2 = 4 ∧ t.get 0x719007 = 1)) = true ∧
    gives (.retrainTimeout 2) (retraining 48750000) (fun t => decide (t.portState 2 = 0)) = true := by
  decide +kernel

theorem test_cages_and_enables :
    gives (.pluggableInsert 2 50) (portIn 0 .down) (fun t => decide (t.portState 2 = 1)) = true ∧
    gives (.pluggableInsert 2 51) (portIn 0 .down) (fun t => decide (t.portState 2 = 0 ∧ (t.port 2).lowPower = true ∧ t.get 0x719014 = 1)) = true ∧
    gives (.pluggableRemove 2) (portIn 5 .down) (fun t => decide (t.portState 2 = 0)) = true ∧
    gives (.portEnableWrite 0xFB) (portIn 5 .down) (fun t => decide (t.portState 2 = 6 ∧ t.get 0x500301 = 0xFB)) = true := by
  decide +kernel

/-! ## Fabric messages -/

/-- The module with device ID 5: a route up to module 9 by port 2, and one down to module 8 by port 3, both linked. -/
def routed : State :=
  let s := putAll on [(0x500001, 5), (0x501003, 5 * 2 ^ 24), (0x501004, 5 * 2 ^ 24), (0x500301, 0xFF)]
  { s with fab := { s.fab with tableU := [(8, 3), (9, 2)], tableD := [(8, 3)] } }

/-- A message of a type to a destination. -/
def msgTo (mtype dst len : Nat) (hops : Nat := 0) (dn : Bool := false) : Msg :=
  { mtype := mtype, dn := dn, poison := [], dst := dst, src := 9, len := len, addr := 0x100, txtag := 7, hops := hops, arg := 20, data := List.replicate len 6 }

/-- The next hop of a message. -/
def hop (m : Msg) : Hop := (routed.takeMsg m).2.nextHop m true

theorem witness_forwarding :
    routed.fab.mirEvents = [] ∧ hop (msgTo 2 5 4) = .here ∧ (msgLimit 2).isSome = true ∧ hop (msgTo 2 9 4) = .port 2 ∧ hop (msgTo 2 8 4 14 true) = .port 3 ∧
    routed.isDown 3 = true ∧ routed.isDown 2 = false ∧ routed.portLinked 2 = true ∧ (routed.put 0x501003 0).portLinked 2 = false ∧
    (msgTo 5 9 4).expects = false ∧ hop (msgTo 2 77 4) = .noRoute ∧ (msgLimit 0x3F).isNone = true ∧ (15 ≤ (msgTo 2 9 4 15).hops) ∧
    (msgTo 2 9 4 0 true).dn = true ∧
    (msgTo 5 9 4).mtype ≠ 0x20 ∧ hop { msgTo 2 0xFFF 4 with arg := 2, addr := 0o73 } = .port 7 ∧
    portUnit 5 ≠ portUnit 2 ∧ portUnit 3 = portUnit 2 ∧ routed.portAttach 5 = none ∧
    ((routed.put 0x330003 0xFFFFF).portAttach 5, (routed.put 0x330003 0xFFFFF).portAttach 2) = (some 9, some 10) ∧
    hop (msgTo 0x10 0xC04 4) = .ports [] ∧ (routed.fab.tableU.find? fun e => e.1 = 9) = some (9, 2) ∧ (routed.fab.tableD.find? fun e => e.1 = 8) = some (8, 3) := by
  decide +kernel

theorem test_forwarding :
    gives (.messageForward none (msgTo 2 9 4)) routed (fun t => decide (((t.port 2).txQueue.getD 0 []).map Msg.hops = [1])) = true ∧
    gives (.messageForward none (msgTo 2 8 4)) routed (fun t => decide (((t.port 3).txQueue.getD 0 []).map Msg.dn = [true])) = true ∧
    gives (.messageForward none (msgTo 2 5 4)) routed (fun t => decide (t.fab.inbox.length = 1)) = true ∧
    gives (.messageForward (some 5) (msgTo 2 9 4)) (routed.put 0x330003 0xFFFFF) (fun t => decide (t.fab.transit.map (fun x => (x.due, x.port)) =
      [(1000 + 12 * 7 + 1, 2)] ∧ t.get 0x718001 = 7)) = true ∧
    gives (.messageForward (some 1) (msgTo 0x10 0xC04 4)) (routed.putGroup 4 { McGroup.empty with ports := [2, 3], deliver := true })
      (fun t => decide ((((t.port 2).txQueue.getD 2 []).length, ((t.port 3).txQueue.getD 2 []).length, t.fab.inbox.length) = (1, 1, 1))) = true ∧
    gives (.messageForward (some 1) (msgTo 0x10 0xC04 4 15)) (routed.putGroup 4 { McGroup.empty with ports := [2, 3], deliver := true })
      (fun t => decide (t.fab.inbox = [] ∧ t.get 0x719008 = 1)) = true ∧
    gives (.messageForward none (msgTo 5 9 4 15)) routed (fun t => decide (t.get 0x719008 = 1 ∧ (t.port 2).txQueue = [[], [], [], []])) = true := by
  decide +kernel

/-- An export region from 0 to 0x10000 that module 9 may read and write. -/
def exported : State := putAll routed [(0x502001, 0), (0x502002, 0x10000), (0x502003, 9), (0x502004, 3)]

theorem witness_remoteAccess :
    exported.railsUp = true ∧ exported.asleep = false ∧ (msgTo 1 5 4).length = 4 ∧ (msgTo 1 5 4).addr % 64 + 4 ≤ 64 ∧
    (List.range 4).all (fun i => exported.admits 9 0 (0x100 + i)) = true ∧ (exported.lineAt 0x100).unmapped = false ∧
    (List.range 4).all (fun i => !routed.admits 9 0 (0x100 + i)) = true ∧ (List.range 4).all (fun i => exported.admits 9 1 (0x100 + i)) = true ∧
    exported.place 0x100 = .hbm 0 0x100 ∧ exported.mirrors 0x100 = [] ∧ (List.range 4).all (fun i => !routed.admits 9 1 (0x100 + i)) = true := by
  decide +kernel

theorem test_remote_access :
    gives (.fabricWrite (msgTo 2 5 4)) exported (fun t => decide (t.bytesAt 0xFF 6 = [0, 6, 6, 6, 6, 0])) = true ∧
    gives (.fabricWrite (msgTo 2 5 4)) routed (fun t => decide (t.mem = routed.mem ∧ t.get 0x719009 = 1)) = true ∧
    gives (.fabricRead (msgTo 1 5 4)) exported (fun t => decide (((t.port 2).txQueue.getD 1 []).map Msg.mtype = [0x81])) = true := by
  decide +kernel

/-- Objects 16 to 20 and rings 7 to 7 are open to the fabric. -/
def openTo (s : State) : State := putAll s [(0x500001, 5), (0x504001, 16), (0x504002, 20), (0x504003, 7), (0x504004, 7)]

/-- A signal that adds 3 to object 20, and a push onto ring 7. -/
def signal (k : Nat) : Msg := { msgTo 3 5 8 with arg := BitVec.ofNat 32 k, data := [3, 0, 0, 0, 0, 0, 0, 0] }

theorem witness_remoteSignals :
    (openTo on).get 0x504001 ≤ 16 ∧ 20 ≤ (openTo on).get 0x504002 ∧ (openTo on).get 0x504002 < 21 ∧ (15 : Nat) < 16 ∧
    (let s := openTo (ringState 2 0 0); let r := s.ring 7
     ringType 7 r = 2 ∧ s.get 0x504003 ≤ 7 ∧ 7 ≤ s.get 0x504004 ∧ ringBroken r = false ∧ ringFull r = false ∧ s.fab.mirEvents = [] ∧
       s.place (ringSlotAddr 7 r r.pi / 64 * 64) = .hbm 0 0x9000 ∧ s.mirrors (ringSlotAddr 7 r r.pi / 64 * 64) = []) ∧
    (openTo (ringState 2 0 0)).get 0x504004 < 8 ∧ ringType 7 ((openTo (ringState 3 0 0)).ring 7) = 3 := by
  decide +kernel

theorem test_remote_signals :
    gives (.fabricSignal (signal 20)) (openTo on) (fun t => decide (t.count 20 = 3)) = true ∧
    gives (.fabricSignal (signal 21)) (openTo on) (fun t => decide (t.count 21 = 0 ∧ t.get 0x71900A = 1)) = true ∧
    gives (.fabricRingPush { msgTo 4 5 16 with arg := 7 }) (openTo (ringState 2 0 0)) (fun t => decide ((t.ring 7).pi = 1 ∧ byteAt t 0x9000 = 6)) = true := by
  decide +kernel

/-- A read of 64 bytes and a write by thread 1 of engine 0 are outstanding with tag 7. -/
def remote (len : Nat) (dst : Bool) : State :=
  let s := withLast { on with streams := { on.streams with threads := [(1, issued 4)] } }
  { s with fab := { s.fab with remotes := [⟨7, 0, 1, 0, 0x7000, dst, len⟩] } }

/-- Object `sub` of group 4. -/
def mc (sub : Nat) : Nat := (0x5200 + 4) * 256 + sub

/-- This module sends group 4 in a mode to modules 8 and 9, whose window is 64 bytes; 32 bytes wait. -/
def sending (mode : Nat) (queue : List (List Byte × List Bool)) (shed episode : Bool) (consumed : Nat) : State :=
  let s := putAll routed [(mc 1, mode), (mc 2, 64), (mc 3, 1000)]
  { s with fab := { s.fab with groups := [(4, { McGroup.empty with ports := [3], receivers := [⟨8, 0, 64, false, false, false⟩, ⟨9, 0, consumed, shed, false, episode⟩],
                                                                     queue := queue, sentOff := 64, sentLog := [(0, 49998999)], rejoins := if shed then [9] else [] })] } }

/-- One piece of 32 bytes. -/
def piece : List Byte × List Bool := (List.replicate 32 4, [false])

/-- A slot that waits for an ACK, or for an FMP reply, with tag 7. -/
def waitingSlot (mtype : Nat) : State := { on with hub := { on.hub with slots := [(3, { SendSlot.idle with doorbell := 1, mtype := mtype, txtag := 7, sentAt := 49987500 })] } }

/-- An FMP reply. -/
def fmpReply : Msg := { msgTo 5 5 32 with data := [0x46, 1, 0, 0, 0x20, 1] ++ List.replicate 26 0 }

theorem witness_responses :
    (((remote 64 false).takeMsg { msgTo 0x81 5 64 with arg := 0 }).2.fab.remotes.find? (fun r => r.tag = 7 ∧ r.len ≠ 0)).isSome = true ∧
    (remote 64 false).get 0x510002 ≠ 1 ∧ (remote 64 false).get 0x510002 ≠ 3 ∧ (remote 64 false).fab.mirEvents = [] ∧
    ((remote 64 true).fab.remotes.find? (fun r => r.tag = 7 ∧ r.len ≠ 0)).map RemoteReq.remoteDst = some true ∧ on.fab.remotes = [] ∧
    ((remote 0 false).fab.remotes.find? (fun r => r.tag = 7 ∧ r.len = 0)).isSome = true ∧
    ((List.range 16).find? fun c => ((waitingSlot 3).slot c).doorbell = 1 ∧ ((waitingSlot 3).slot c).txtag = 7) = some 3 ∧
    fmpReply.dst ≠ 0xFFF ∧ bit (field (fit fmpReply.dataLen fmpReply.data) 5 1) 0 = true ∧ field (fit fmpReply.dataLen fmpReply.data) 4 1 ≠ 0x21 ∧
    ((List.range 16).find? fun c => ((waitingSlot 5).slot c).doorbell = 1 ∧ ((waitingSlot 5).slot c).mtype = 5 ∧ ((waitingSlot 5).slot c).txtag = 7) = some 3 := by
  decide +kernel

/-- A read is outstanding whose bytes go to another module, or to the stream of group 4. -/
def relayed (dev : Nat) : State :=
  { sending 1 [] false false 64 with
      streams := { on.streams with threads := [(1, issued 4)] }
      fab := { (sending 1 [] false false 64).fab with remotes := [⟨7, 0, 1, 0, dev * 2 ^ 52 + 0x7000, true, 64⟩] } }

theorem witness_relayedData :
    ([9, 0xC04].all fun dev => ((relayed dev).fab.remotes.find? (fun r => r.tag = 7 ∧ r.len ≠ 0)).any fun r => r.remoteDst && decide (r.addr / 2 ^ 52 = dev)) = true ∧
    (relayed 9).fab.mirEvents = [] ∧ (relayed 0xC04).mcMode 4 = 1 := by
  decide +kernel

theorem test_relayed_data_goes_on :
    gives (.readData { msgTo 0x81 5 32 with arg := 0 }) (relayed 9) (fun t => decide (((t.port 2).txQueue.getD 0 []).map Msg.mtype = [2] ∧
      t.fab.remotes.any (fun r => r.len = 32) = true ∧ t.mem = (relayed 9).mem)) = true ∧
    gives (.readData { msgTo 0x81 5 32 with arg := 0 }) (relayed 0xC04) (fun t => decide ((t.group 4).appended = 32)) = true := by
  decide +kernel

theorem test_responses :
    gives (.readData { msgTo 0x81 5 64 with arg := 0 }) (remote 64 false) (fun t => decide (byteAt t 0x7000 = 6 ∧ t.fab.remotes.all fun r => r.len = 0)) = true ∧
    gives (.fabricAck { msgTo 0x82 5 0 with arg := 65 }) (remote 0 false) (fun t => decide (t.fab.remotes = [] ∧ t.get 0x717002 = 2)) = true ∧
    gives (.fabricAck { msgTo 0x82 5 0 with arg := 0 }) (waitingSlot 3) (fun t => decide ((t.slot 3).doorbell = 2)) = true ∧
    gives (.fabricFmp fmpReply) (waitingSlot 5) (fun t => decide ((t.slot 3).doorbell = 2 ∧ (t.slot 3).rsp.length = 32)) = true := by
  decide +kernel

/-- A module met by a probe, and a sweep by this manager with probes outstanding. -/
def metPeer (links : List (Nat × U64 × Nat)) : PeerInfo := ⟨9, [4, 4, 4, 4, 4, 4, 4, 4], 9, 0, links, []⟩

def probing (l : List (Nat × List Nat)) : State :=
  let s := putAll on [(0x500003, 1), (0x500004, 77)]
  { s with fab := { s.fab with probes := l, sweeping := true } }

theorem witness_sweep :
    (probing [(7, [2])]).get 0x500003 ≠ 0 ∧ (probing [(7, [2])]).fab.probes.find? (fun y => y.1 = (msgTo 0x31 5 0).txtag) = some (7, [2]) ∧
    (probing []).fab.probes.find? (fun y => y.1 = (msgTo 0x31 5 0).txtag) = none := by
  decide +kernel

theorem witness_discovery : (on.put 0x500003 1).get 0x500003 ≠ 0 ∧ on.get 0x500003 = 0 ∧ on.fab.groups = [] ∧
    ([] ++ [(⟨4, [2, 3], true, []⟩ : McTree)]) = [⟨4, [2, 3], true, []⟩] := by
  decide +kernel

theorem test_discovery :
    gives (.setId 0x1005) on (fun t => decide (t.devId = 5)) = true ∧ gives .sweepEnd (portIn 4 .down) (fun t => decide (t.portState 2 = 5 ∧ t.get 0x500201 = 1)) = true ∧
    gives (.probe { msgTo 0x30 0xFFF 0 with addr := 0, arg := 0 }) on (fun t => decide (t.free = 1)) = true ∧
    gives (.probeReply (msgTo 0x31 5 0) (metPeer [])) (on.put 0x500003 1) (fun t => decide (t.fab.found.length = 1)) = true ∧
    gives (.probeReply (msgTo 0x31 5 0) (metPeer [(3, 11, 0)])) (probing [(7, [2])]) (fun t => decide (t.fab.probes.map Prod.snd = [[2, 3]] ∧ t.fab.sweeping = true)) = true ∧
    gives (.probeReply (msgTo 0x31 5 0) (metPeer [])) (probing [(7, [2])]) (fun t => decide (t.fab.probes = [] ∧ t.fab.sweeping = false ∧ t.get 0x500201 = 1)) = true := by
  decide +kernel

theorem test_routes_and_link_events :
    gives (.setRoute [(9, 2)] [] [⟨4, [2, 3], true, []⟩] ⟨[], [(2, 0x123)]⟩) (portIn 5 .down) (fun t => decide (t.fab.tableU = [(9, 2)] ∧ bits (t.get 0x501003) 11 0 = 0x123 ∧ (t.group 4).ports = [2, 3] ∧ (t.group 4).deliver = true)) = true ∧
    gives (.linkEvent 9 2 0) (on.put 0x500003 1) (fun t => decide (t.fab.sweepWanted = true)) = true := by
  decide +kernel

/-! ## Multicast groups -/

/-- This module receives group 4 into 256 bytes at 0xA000, with COUNT 20 for consumption and COUNT 21 for delivery. -/
def receiving (status : Nat) (deliver : Bool) : State :=
  let s := putAll routed [(mc 1, 3), (mc 4, 0xA000), (mc 5, 256), (mc 6, 20), (mc 7, 21), (mc 8, status)]
  { s with fab := { s.fab with groups := [(4, { McGroup.empty with ports := [3], deliver := deliver, sender := 9, shedAt := 64, reportAt := 49999990 })] } }

/-- Group data. -/
def mcMsg (hops : Nat) : Msg := { msgTo 0x10 0xC04 32 hops with addr := 0x120 }

theorem witness_groupData :
    (receiving 0 true).railsUp = true ∧ (receiving 0 true).asleep = false ∧ (mcMsg 0).dst = 0xC00 + 4 ∧ (receiving 0 true).fab.inbox = [] ∧
    ((receiving 0 false).group 4).deliver = false ∧ (receiving 0 true).mcBuffer 4 = (0xA000, 256) ∧ (receiving 0 true).mcObj 4 7 % 2 ^ 14 = 21 ∧
    (mcMsg 0).length = 32 ∧ (mcMsg 0).addr % 256 + 32 ≤ 256 ∧ (0xA000 + 0x120 % 256) % 64 + 32 ≤ 64 ∧ ((receiving 0 true).group 4).deliver = true ∧
    (receiving 0 true).mcMode 4 = 3 ∧ (receiving 0 true).mcObj 4 8 % 4 = 0 ∧ (receiving 0 true).place 0xA000 = .hbm 0 0xA000 ∧
    (receiving 0 true).mirrors 0xA000 = [] ∧ on.mcMode 4 ≠ 3 ∧ (receiving 1 true).mcObj 4 8 % 4 ≠ 0 ∧ 15 ≤ (mcMsg 15).hops := by
  decide +kernel

/-- The copy of the group's data that MESSAGE_FORWARD left for this module waits in the inbox. -/
def replicated : State := { receiving 0 true with fab := { (receiving 0 true).fab with inbox := [(none, mcMsg 15)] } }

theorem witness_forwardedAlready : replicated.fab.inbox.find? (fun x => x.2 = mcMsg 15) = some (none, mcMsg 15) := by decide +kernel

theorem test_group_data_is_placed :
    gives (.mcData (mcMsg 15)) replicated (fun t => decide (byteAt t 0xA020 = 6 ∧ t.fab.inbox = [] ∧ ((t.port 3).txQueue.getD 2 []).length = 0)) = true ∧
    gives (.mcData (mcMsg 0)) (receiving 0 true) (fun t => decide (byteAt t 0xA020 = 6 ∧ byteAt t 0xA01F = 0 ∧ t.count 21 = 32 ∧ ((t.port 3).txQueue.getD 2 []).length = 1)) = true ∧
    gives (.mcData (mcMsg 0)) (receiving 0 false) (fun t => decide (((t.port 3).txQueue.getD 2 []).length = 1 ∧ t.mem = on.mem)) = true ∧
    gives (.mcData (mcMsg 15)) (receiving 0 false) (fun t => decide (t.get 0x719008 = 1)) = true := by
  decide +kernel

theorem witness_groupReceiver :
    bit ((receiving 0 true).mcObj 4 8) 0 = false ∧ ((receiving 0 true).mcDeliveredOff 4, (receiving 0 true).mcConsumed 4) = ((receiving 0 true).group 4).reported ∧
    (receiving 0 true).tick < ((receiving 0 true).group 4).reportAt + 12 ∧ ((receiving 0 true).put 0x203001 50000002).tick ≥ ((receiving 0 true).group 4).reportAt + 12 ∧
    bit ((receiving 1 true).mcObj 4 8) 0 = true ∧ on.mcMode 4 = 0 ∧ 16 ≤ (receiving 0 true).mcObj 4 6 % 2 ^ 14 := by
  decide +kernel

theorem test_group_receiver :
    gives (.mcAckReport 4) ((receiving 0 true).put 0x203001 50000002) (fun t => decide (((t.port 2).txQueue.getD 1 []).map Msg.mtype = [0x11])) = true ∧
    gives (.mcCtlShed 4 64) (receiving 0 true) (fun t => decide (bit (t.mcObj 4 8) 0 = true ∧ (t.group 4).shedAt = 64)) = true ∧
    gives (.mcCtlAdmit 4 128) (receiving 1 true) (fun t => decide (bit (t.mcObj 4 8) 0 = false ∧ t.count 20 = 128 ∧ t.count 21 = 128)) = true ∧
    gives (.mcCtlRemove 4) (receiving 0 true) (fun t => decide (bit (t.mcObj 4 8) 1 = true)) = true := by
  decide +kernel

theorem test_group_modes :
    gives (.mcModeDisable 4) (receiving 0 true) (fun t => decide (t.mcMode 4 = 0)) = true ∧ gives (.mcModeSet 4 3) on (fun t => decide (t.mcMode 4 = 3)) = true ∧
    gives (.mcModeSet 4 1) (receiving 0 true) (fun t => decide (t.mcMode 4 = 3 ∧ t.get 0x717005 = 1)) = true ∧
    gives (.mcRejoin 4) (receiving 1 true) (fun t => decide (((t.port 2).txQueue.getD 0 []).map Msg.mtype = [0x12])) = true := by
  decide +kernel

theorem witness_groupSender :
    (sending 1 [] false false 0).mcSends 4 = true ∧ (sending 2 [piece] false false 64).mcSends 4 = true ∧
    ((sending 2 [piece] false false 64).group 4).receivers.all (fun r => !((sending 2 [piece] false false 64).group 4).full 64 32 r) = true ∧
    ((sending 2 [piece] false false 31).group 4).receivers.any (fun r => ((sending 2 [piece] false false 31).group 4).full 64 32 r) = true ∧
    ((sending 1 [] true false 0).group 4).rejoins = [9] ∧ ((sending 1 [] false false 0).group 4).rejoins = [] ∧
    (((sending 1 [] false false 0).group 4).receivers.find? (fun r => r.id = 9)).map ((sending 1 [] false false 0).mcLate 4) = some true ∧
    (((sending 2 [] false false 0).group 4).receivers.find? (fun r => r.id = 9)).map ((sending 2 [] false false 0).mcLate 4) = some true ∧
    (((sending 2 [] false true 0).group 4).receivers.find? (fun r => r.id = 9)).map McReceiver.episode = some true := by
  decide +kernel

theorem test_group_sender_window :
    gives (.mcAck 4 9 64 64) (sending 2 [piece] false false 31) (fun t => decide ((t.group 4).queue = [] ∧ (t.group 4).sentOff = 96)) = true ∧
    gives (.mcAck 4 9 64 31) (sending 2 [piece] false false 0) (fun t => decide ((t.group 4).queue = [piece] ∧ (t.group 4).sentOff = 64)) = true := by
  decide +kernel

theorem test_group_sender_sheds_and_admits :
    gives (.mcBehindTimeout 4 9) (sending 1 [] false false 0) (fun t => decide ((t.group 4).receivers.map McReceiver.shed = [false, true] ∧ t.get 0x71900B = 1)) = true ∧
    gives (.mcBehindTimeout 4 9) (sending 2 [] false false 0) (fun t => decide ((t.group 4).receivers.map McReceiver.episode = [false, true])) = true ∧
    gives (.mcRejoinAdmit 4 9) (sending 1 [] true false 0) (fun t => decide ((t.group 4).receivers.map McReceiver.consumed = [64, 64] ∧ (t.group 4).rejoins = [])) = true := by
  decide +kernel

theorem witness_rejoinRequest :
    (let x := { (sending 1 [] true false 0).group 4 with rejoins := [] }
     x.receivers.any (fun r => decide (r.id = 9 ∧ r.shed = true)) = true ∧ 9 ∉ x.rejoins) := by
  decide +kernel

theorem test_rejoin_request :
    gives (.mcCtlRejoin 4 9) ((sending 1 [] true false 0).putGroup 4 { (sending 1 [] true false 0).group 4 with rejoins := [] })
      (fun t => decide ((t.group 4).rejoins = [9])) = true := by
  decide +kernel

/-- Lane 0 of port 2 has waited for credit since a tick. -/
def stalled (since : Nat) : State :=
  portIn 5 { Port.down with credits := [0, 512, 256, 256], txQueue := [[msgTo 2 9 4], [], [], []], headSince := [some since, none, none, none] }

theorem witness_stall :
    ((stalled 49987500).port 2).headSince.getD 0 none = some 49987500 ∧ ((stalled 49987500).port 2).credits.getD 0 0 = 0 ∧
    49987500 + 12500 * (((stalled 49987500).port 2).stallMs.getD 0 0 + 1) ≤ (stalled 49987500).tick := by
  decide +kernel

/-- Lane 2 of port 2 waits for a multicast context, all 64 of which are held. -/
def contextless : State :=
  portIn 5 { Port.down with contexts := List.range 64, txQueue := [[], [], [msgTo 0x10 0xC80 4], []], headSince := [none, none, some 49987500, none] }

theorem witness_stallOnContext :
    (contextless.port 2).headSince.getD 2 none = some 49987500 ∧ 0xC80 - 0xC00 ∉ (contextless.port 2).contexts ∧ 64 ≤ (contextless.port 2).contexts.length := by
  decide +kernel

theorem test_stall_is_reported_each_millisecond :
    gives (.egressStallTimeout 2 0) (stalled 49987500) (fun t => decide (t.get 0x719011 = 1 ∧ (t.port 2).stallMs = [1, 0, 0, 0])) = true ∧
    gives (.egressStallTimeout 2 0) (stalled 49987501) (fun t => decide (t.get 0x719011 = 0)) = true := by
  decide +kernel

/-! ## Twins -/

/-- The module with UID 10, paired with UID 9 over port 2, in a role. -/
def twin (role : Nat) (lost : Bool := false) (last : Nat := 49999600) : State :=
  let s := putAll (portIn 5 .down) [(0x500004, 10), (0x510001, 9), (0x510002, role), (0x510003, 4), (0x510008, last), (0x510007, 41)]
  { s with fab := { s.fab with lastBeat := 49999875, twinLost := lost, roleSettled := lost } }

/-- A heartbeat of the twin. -/
def beat (uid role : Nat) : Heartbeat := { uid := BitVec.ofNat 64 uid, role := role, applied := 50, tick := 0 }

theorem witness_heartbeats :
    (twin 1).beats = true ∧ (twin 1).fab.lastBeat + 125 ≤ (twin 1).tick ∧ (twin 1).twinPort 2 = true ∧ (twin 1).portState 2 = 5 ∧ on.beats = false ∧
    ((twin 1).put 0x203001 49999999).tick < (twin 1).fab.lastBeat + 125 ∧ (twin 1).portLinked 2 = true ∧ (twin 1).paired = true ∧
    (beat 9 1).uid.toNat = (twin 1).get 0x510001 ∧ (twin 1).fab.roleSettled = false ∧ (twin 1).get 0x510002 = 1 ∧ (beat 9 1).role = 1 ∧
    (twin 2).get 0x510002 = 2 ∧ (beat 9 2).role = 2 ∧ (beat 9 3).role = 3 ∧ (beat 8 1).uid.toNat ≠ (twin 1).get 0x510001 ∧
    ¬((twin 1).get 0x500004 < (beat 9 1).uid.toNat) := by
  decide +kernel

theorem test_heartbeats :
    gives (.heartbeatReceive 2 (beat 9 1)) (twin 1) (fun t => decide (t.get 0x510002 = 2 ∧ t.get 0x510008 = 50000000)) = true ∧
    gives (.heartbeatReceive 2 (beat 9 3)) (twin 1 true) (fun t => decide (t.get 0x510002 = 4 ∧ t.hub.demoted = true)) = true ∧
    gives (.heartbeatReceive 2 (beat 9 2)) (twin 1 true) (fun t => decide (t.get 0x510002 = 1 ∧ t.get 0x510007 = 50)) = true := by
  decide +kernel

set_option maxRecDepth 100000 in
theorem test_heartbeat_is_sent_every_125_ticks :
    gives .heartbeatSend (twin 1) (fun t => decide (t.fab.lastBeat = 50000000 ∧ (t.port 2).sent.length = 1)) = true := by
  decide +kernel

theorem witness_twinLost :
    (twin 2).railsUp = true ∧ (twin 2).fab.twinLost = false ∧ (twin 2).beatSince + 400 ≤ (twin 2).tick ∧ ((twin 2).put 0x51000A 1).get 0x51000A ≠ 0 ∧
    ((twin 2).put 0x51000A 0).get 0x51000A = 0 ∧ (twin 1).beatSince + 400 ≤ (twin 1).tick ∧ (twin 2 true).fab.twinLost = true ∧
    (twin 2 true).get 0x510002 = 2 ∧ (1 : Byte) ≠ 0 ∧ (twin 1).get 0x510002 ≠ 2 := by
  decide +kernel

/-- The next mirror write in sequence has arrived and waits in the inbox. -/
def mirrorWaits : State :=
  let m : Msg := ⟨0x20, false, [false], 5, 9, 64, 0x140, 0, 1, 42, line⟩
  { (twin 2).put 0x51000A 1 with fab := { (twin 2).fab with inbox := [(some 2, m)] } }

theorem test_takeover_applies_what_has_arrived :
    gives .twinLost mirrorWaits (fun t => decide (t.bytesAt 0x140 64 = line ∧ t.get 0x510007 = 42 ∧ t.get 0x510002 = 3)) = true ∧
    gives (.mirWrite 42 0x140 line false) mirrorWaits (fun t => decide (t.bytesAt 0x140 64 = line ∧ t.fab.inbox = [])) = true := by
  decide +kernel

theorem test_silence_of_400_ticks :
    gives .twinLost ((twin 2).put 0x51000A 1) (fun t => decide (t.get 0x510002 = 3 ∧ t.get 0x719010 = 1 ∧ t.get 0x71900F = 1)) = true ∧
    gives .twinLost (twin 2 false 49999601) (fun t => decide (t.get 0x71900F = 0)) = true ∧
    gives (.takeoverEnWrite 1) (twin 2 true) (fun t => decide (t.get 0x510002 = 3 ∧ t.fab.mirFrozen = true)) = true := by
  decide +kernel

theorem witness_mirror :
    (twin 2).railsUp = true ∧ (twin 2).asleep = false ∧ (twin 2).fab.inbox = [] ∧ (twin 2).fab.mirFrozen = false ∧ (twin 2).fab.mirIn = [] ∧
    (twin 2).get 0x510007 + 2 ^ 32 < 2 ^ 64 ∧ (42 : U32).toNat = ((twin 2).get 0x510007 + 1) % 2 ^ 32 ∧ (43 : U32).toNat ≠ ((twin 2).get 0x510007 + 1) % 2 ^ 32 ∧
    (twin 2).place 0x140 = .hbm 0 0x140 ∧ (twin 1).get 0x510002 ≠ 2 ∧ (twin 2).get 0x510002 ≠ 1 ∧ (twin 2).get 0x510002 ≠ 3 ∧
    (on.put 0x560F04 1).get 0x560F04 = 1 ∧ on.get 0x560F04 ≠ 1 := by
  decide +kernel

theorem test_mirror_writes :
    gives (.mirWrite 42 0x140 line false) (twin 2) (fun t => decide (t.bytesAt 0x140 64 = line ∧ t.get 0x510007 = 42)) = true ∧
    gives (.mirWrite 43 0x140 line false) (twin 2) (fun t => decide (t.mem.bytes = [] ∧ t.fab.mirIn.map MirLine.seq = [43])) = true ∧
    gives (.mirAck 60) (twin 1) (fun t => decide (t.get 0x510007 = 60)) = true ∧
    gives (.mirStateWrite 15 1) (on.put 0x560F04 1) (fun t => decide (t.get 0x717005 = 1)) = true := by
  decide +kernel

/-! ## The hub complex -/

/-- Fields of a send slot. -/
def slotFields (mtype : Nat) : SlotFields := ⟨mtype, 9, 16, 8, 0, [1, 0, 0, 0, 0, 0, 0, 0]⟩

theorem witness_sendSlots :
    (on.slot 3).doorbell ≠ 1 ∧ (slotFields 2).mtype < 3 ∧ 5 < (slotFields 6).mtype ∧ 3 ≤ (slotFields 3).mtype ∧ (slotFields 5).mtype ≤ 5 ∧
    ((waitingSlot 3).slot 3).doorbell = 1 ∧ ((waitingSlot 5).slot 3).mtype = 5 ∧ ((waitingSlot 5).slot 3).sentAt + 12500 ≤ (waitingSlot 5).tick ∧
    ((waitingSlot 5).put 0x203001 49999999).tick < ((waitingSlot 5).slot 3).sentAt + 12500 := by
  decide +kernel

theorem test_send_slots :
    gives (.sendSlotDoorbell 3 (slotFields 3)) routed (fun t => decide ((t.slot 3).doorbell = 1 ∧ ((t.port 2).txQueue.getD 0 []).map Msg.mtype = [3])) = true ∧
    gives (.sendSlotDoorbell 3 (slotFields 6)) routed (fun t => decide ((t.slot 3).doorbell = 3)) = true ∧
    gives (.sendSlotTimeout 3) (waitingSlot 5) (fun t => decide ((t.slot 3).doorbell = 3)) = true := by
  decide +kernel

/-- The endpoint's link is active; rings and objects 16 and up are open; BAR2's window 0 and root port 0's window 0 reach 0x10000 of HBM. -/
def linkedUp : State :=
  let s := putAll on [(0x110101, 7), (0x110102, 7), (0x110103, 16), (0x110104, 20), (0x110002, 0x7000), (0x111001, 0), (0x111002, 0x10000), (0x111003, 0),
    (0x111004, 3), (0x113001, 0), (0x113002, 0x10000), (0x113003, 0), (0x113004, 3)]
  { s with hub := { s.hub with ep := { s.hub.ep with dlActive := true, busMaster := true, perst := false } } }

theorem witness_frontEnd :
    linkedUp.railsUp = true ∧ linkedUp.asleep = false ∧ linkedUp.fab.mirEvents = [] ∧ linkedUp.hub.ep.dlActive = true ∧
    linkedUp.bar0Target 0 = .none ∧ badWindow 0 4 = false ∧ badWindow 2 4 = true ∧ badWindow (7 * 64) 4 = false ∧ badWindow (7 * 64) 2 = true ∧ linkedUp.bar0Target (7 * 64) = .context 7 0 ∧ linkedUp.bar0Target (7 * 64 + 0x20) = .context 7 0x20 ∧
    linkedUp.bar0Target (0x400000 + 16 * 16) = .sync 16 0 ∧ 0x140 + 4 ≤ 2 ^ linkedUp.hub.ep.barLog2 ∧
    (List.range 4).all (fun i => linkedUp.inbound 0x1110 16 0 (0x140 + i) = some (0x140 + i)) = true ∧
    (List.range 4).all (fun i => linkedUp.inbound 0x1110 16 1 (0x140 + i) = some (0x140 + i)) = true ∧
    (List.range 4).all (fun i => linkedUp.inbound 0x1110 16 0 (0x10000 + i) = none) = true ∧ (linkedUp.lineAt 0x140).unmapped = false ∧
    bit (linkedUp.get 0x201001) 4 = true ∧ (List.range 4).all (fun i => linkedUp.inbound 0x1130 8 0 (0x140 + i) = some (0x140 + i)) = true ∧
    (List.range 4).all (fun i => linkedUp.inbound 0x1130 8 1 (0x140 + i) = some (0x140 + i)) = true ∧
    (List.range 4).all (fun i => linkedUp.inbound 0x1138 8 0 (0x140 + i) = none) = true ∧ linkedUp.place 0x140 = .hbm 0 0x140 ∧
    linkedUp.mirrors 0x140 = [] ∧ linkedUp.hub.ep.busMaster = true ∧ on.hub.ep.busMaster = false := by
  decide +kernel

theorem witness_coreAccesses :
    hubPart (0x600000 + 16 * 20) = .vector 20 0 ∧ hubPart 0x500008 = .lace 0 0 8 ∧ hubPart 0xFFFFF8 = .none ∧
    badWindow (0x600000 + 16 * 20) 4 = false ∧ badWindow 0x500008 8 = false ∧ badWindow 0xFFFFF8 8 = false ∧ badWindow 0x500009 8 = true ∧
    bit (on.get 0x201001) 5 = true := by
  decide +kernel

theorem test_core_accesses :
    gives (.outboundAccess ⟨3, (0x600000 + 16 * 20)⟩ 4 (some [3, 2, 5, 0]) []) on (fun t => decide ((t.vector 20).dest = 3 ∧ (t.vector 20).core = 2)) = true ∧
    gives (.outboundAccess ⟨3, 0x500008⟩ 8 none []) (withLace on 0 [9]) (fun t => decide (t.hub.readValue.length = 8 ∧ t.get 0x71600E = 0)) = true ∧
    gives (.outboundAccess ⟨3, 0xFFFFF8⟩ 8 none []) on (fun t => decide (t.hub.readValue = List.replicate 8 0 ∧ t.get 0x71600E = 1)) = true ∧
    gives (.outboundAccess ⟨3, 0x2000000040⟩ 4 (some [1, 2, 3, 4]) []) on (fun t => decide (t.hub.rpTlps =
      [{ port := 1, config := false, addr := 0x40, data := [1, 2, 3, 4], write := true }])) = true := by
  decide +kernel

theorem test_bar0 :
    gives (.bar0Access 0 4 none) linkedUp (fun t => decide (t.hub.completions = [([0, 0, 0, 0], false, false)] ∧ t.get 0x71A00A = 1)) = true ∧
    gives (.bar0Access (0x400000 + 16 * 16) 8 (some 9)) linkedUp (fun t => decide (t.count 16 = 9)) = true := by
  decide +kernel

theorem test_bar2_and_root_port :
    gives (.bar2Access 0x140 2 (some ([7, 8], true))) linkedUp (fun t => decide (t.bytesAt 0x140 2 = [7, 8] ∧ t.get 0x71A004 = 1)) = true ∧
    gives (.bar2Access 0x10000 2 none) linkedUp (fun t => decide (t.hub.completions = [([0, 0], false, false)] ∧ t.get 0x71A001 = 1)) = true ∧
    gives (.rootPortRequest 1 0x140 2 ⟨none, none⟩) linkedUp (fun t => decide (t.hub.completions = [([], false, true)] ∧ t.get 0x71A002 = 1)) = true ∧
    gives (.rootPortRequest 0 0x140 2 ⟨(some [7, 8]), none⟩) linkedUp (fun t => decide (t.bytesAt 0x140 2 = [7, 8])) = true ∧
    gives (.rootPortRequest 0 0x140 4 ⟨(some [7, 0, 0, 0]), (some (3, 7))⟩) linkedUp (fun t => decide (t.hub.signals = [.msi 3 7] ∧ t.mem = linkedUp.mem)) = true := by
  decide +kernel

theorem test_outbound_window :
    gives (.outboundAccess ⟨0, 0x8000000020⟩ 4 (some [1, 2, 3, 4]) []) linkedUp (fun t => decide (t.hub.tlps = [(0x7020, [1, 2, 3, 4], true)])) = true ∧
    gives (.outboundAccess ⟨0, 0x8000000020⟩ 4 none [1, 2, 3, 4]) on (fun t => decide (t.hub.tlps = [] ∧ t.hub.readValue = [0, 0, 0, 0])) = true := by
  decide +kernel

theorem witness_endpoint :
    ({ on.hub.ep with perst := false, training := true } : Endpoint).training = true ∧ on.railsUp = true ∧ linkedUp.hub.ep.dlActive = true ∧
    bit on.hub.rpPerst.toNat 0 = false ∧ ({ on.hub with refSince := some 49998750 } : HubState).refSince = some 49998750 ∧ 49998750 + 1250 ≤ on.tick ∧
    bit ({ on.hub with rpPerst := 1 } : HubState).rpPerst.toNat 0 = true := by
  decide +kernel

theorem test_endpoint_pins :
    gives .perstNAssert linkedUp (fun t => decide (t.hub.ep.dlActive = false ∧ bit (t.get 0x201001) 3 = false)) = true ∧
    gives .perstNDeassert on (fun t => decide (t.hub.ep.perst = false ∧ t.hub.ep.training = true)) = true ∧
    gives .endpointLinkUp ({ on with hub := { on.hub with ep := { on.hub.ep with perst := false, training := true } } }) (fun t => decide (t.hub.ep.dlActive = true)) = true ∧
    gives .endpointLinkDown linkedUp (fun t => decide (t.hub.ep.dlActive = false)) = true := by
  decide +kernel

theorem test_endpoint_function :
    gives (.endpointConfigWrite .d3hot) linkedUp (fun t => decide (t.hub.ep.d3hot = true)) = true ∧
    gives .endpointD0Entry ({ linkedUp with hub := { linkedUp.hub with ep := { linkedUp.hub.ep with d3hot := true } } }) (fun t => decide (t.hub.ep.d3hot = false)) = true ∧
    gives (.endpointConfigWrite (.msixMask 3 true)) linkedUp (fun t => decide (t.hub.ep.masked.get 3 false = true)) = true := by
  decide +kernel

theorem test_root_port_links :
    gives (.rpPerstWrite 1) ({ on with hub := { on.hub with refSince := some 49998750 } }) (fun t => decide (bit t.hub.rpPerst.toNat 0 = true ∧ t.get 0x112001 = 1)) = true ∧
    gives (.rpPerstWrite 1) ({ on with hub := { on.hub with refSince := some 49998751 } }) (fun t => decide (bit t.hub.rpPerst.toNat 0 = false)) = true ∧
    gives (.rootPortLinkUp 0) ({ on.put 0x201001 0 with hub := { on.hub with rpPerst := 1 } }) (fun t => decide (t.get 0x201001 = 16)) = true ∧
    gives (.rootPortLinkDown 0) on (fun t => decide (bit (t.get 0x201001) 4 = false)) = true := by
  decide +kernel

/-- Vector 20 with a destination, and whether it pends. -/
def vec (dest : Byte) (pend : Bool) : State :=
  { linkedUp with hub := { linkedUp.hub with vectors := [(20, { Machine.Vector.zero with dest := dest, core := 2, eiid := 5, msix := 6, pend := pend })] } }

/-- The same with changes to the endpoint. -/
def vecEp (s : State) (f : Endpoint → Endpoint) : State := { s with hub := { s.hub with ep := f s.hub.ep } }

theorem witness_vectors :
    (vec 3 false).hub.ep.d3hot = false ∧ ((vec 3 false).vector 20).pend = false ∧ ((vec 3 true).vector 20).pend = true ∧
    bit ((vec 3 false).vector 20).dest.toNat 1 = true ∧ (vecEp (vec 3 false) fun e => { e with d3hot := true, pme := true }).hub.ep.pme = true ∧
    bit ((vec 3 true).vector 20).dest.toNat 0 = true ∧ ((vec 3 true).vector 20).eiid.toNat % 2048 ≠ 0 ∧
    (vecEp (vec 3 true) fun e => { e with msixEnable := true }).hub.ep.masked.get 6 false = false ∧ (vec 3 true).hub.ep.msixEnable = false ∧
    (vecEp (vec 3 true) fun e => { e with dlActive := false }).hub.ep.dlActive = false ∧ bit ((vec 0 true).vector 20).dest.toNat 0 = false ∧
    bit ((vec 0 true).vector 20).dest.toNat 1 = false := by
  decide +kernel

theorem test_vector_raise :
    gives (.vectorRaise 20 false) (vec 3 false) (fun t => decide ((t.vector 20).pend = true)) = true ∧
    gives (.vectorRaise 20 false) (vec 3 true) (fun t => decide (t.get 0x71A006 = 1)) = true ∧
    gives (.vectorRaise 5 false) on (fun t => decide (t = on)) = true ∧
    gives (.vectorRaise 20 false) (vecEp (vec 3 false) fun e => { e with d3hot := true, pme := true }) (fun t => decide (t.hub.ep.wakeN = true)) = true := by
  decide +kernel

theorem test_vector_deliver :
    gives (.vectorDeliver 20) (vecEp (vec 3 true) fun e => { e with msixEnable := true }) (fun t => decide ((t.vector 20).pend = false ∧ .msi 2 5 ∈ t.hub.signals ∧ .msix 6 ∈ t.hub.signals)) = true ∧
    gives (.vectorDeliver 20) (vec 3 true) (fun t => decide (t.hub.ep.pba.get 6 false = true)) = true ∧
    gives (.vectorDeliver 20) (vecEp (vec 3 true) fun e => { e with dlActive := false }) (fun t => decide (t.get 0x71A00B = 1)) = true := by
  decide +kernel

/-- The watchdog's period is 1,000 ticks, begun at a tick. -/
def watched (start : Nat) : State := { (twin 1).put 0x208001 1000 with hub := { on.hub with wdtStart := start } }

theorem witness_watchdog :
    (watched 49999500).railsUp = true ∧ (watched 49999500).asleep = false ∧ (watched 49999500).get 0x208001 ≠ 0 ∧ (watched 49999500).hub.wdtHalf = false ∧
    1000 ≤ 2 * ((watched 49999500).tick - 49999500) ∧ 2 * ((watched 49999501).tick - 49999501) < 1000 ∧ (watched 49999000).hub.wdtExpired = false ∧
    49999000 + 1000 ≤ (watched 49999000).tick ∧ (watched 49999001).tick < 49999001 + 1000 ∧ (twin 1).paired = true ∧ (twin 1).hub.lost = false ∧
    (twin 1).isl.power.vinWarn = false ∧ (twin 1).isl.rails.trip = none := by
  decide +kernel

theorem test_watchdog :
    gives .wdtHalfPeriod (watched 49999500) (fun t => decide ((t.vector 3).pend = true)) = true ∧
    gives .wdtHalfPeriod (watched 49999501) (fun t => decide ((t.vector 3).pend = false)) = true ∧
    gives .wdtExpire (watched 49999000) (fun t => decide (t.hub.wdtExpired = true ∧ t.beats = false ∧ t.get 0x71A009 = 1 ∧ t.get 0x71B009 = 1)) = true ∧
    gives (.wdtKick 0) ({ watched 49999000 with hub := { on.hub with wdtExpired := true } }) (fun t => decide (t.beats = true ∧ t.hub.wdtStart = 50000000)) = true := by
  decide +kernel

theorem test_poisoned_load_faults_its_core :
    gives (.corePoisonLoad 3 0x140) on (fun t => decide (t.hub.coreFaults = [(3, 0x140)] ∧ t.get 0x71A005 = 1)) = true := by
  decide +kernel

/-! ## The root of trust -/

/-- Measurements that wait. -/
def measuring (l : List Measure) : State := { on with hub := { on.hub with measures := l } }

theorem witness_measurements :
    on.railsUp = true ∧ (measuring [.runtime line]).hub.measures = .runtime line :: [] ∧
    (measuring [.last 0x2000, .runtime line]).hub.measures = .last 0x2000 :: [.runtime line] ∧ islandUp.isl.trust.up = true ∧
    (islandUp.put 0x610008 1).get 0x610008 = 1 ∧ islandUp.get 0x610008 ≠ 1 := by
  decide +kernel

theorem test_measurements :
    gives (.measureLast 0x2000) on (fun t => decide (t.hub.measures = [.last 0x2000])) = true ∧
    gives .measureDone (measuring [.last 0x2000, .runtime line]) (fun t => decide (t.get 0x71A007 = 1 ∧ t.get 0x610005 = 1 ∧ t.hub.measures = [.runtime line])) = true ∧
    gives .measureDone (measuring [.runtime line]) (fun t => decide (t.get 0x71A007 = 0 ∧ t.hub.measures = [])) = true := by
  decide +kernel

theorem test_quotes :
    gives (.nonceWrite (List.replicate 32 7)) islandUp (fun t => decide (t.get 0x610008 = 1 ∧ t.hub.quoteNonce = List.replicate 32 7)) = true ∧
    gives .quoteSigned (islandUp.put 0x610008 1) (fun t => decide (t.get 0x610008 = 2 ∧ t.get 0x71A008 = 1)) = true := by
  decide +kernel

/-- An image of the least length, security version 5, version 0x77. -/
def image : List Byte := leBytes 4 0x4D494655 ++ [1, 0, 0, 0] ++ leBytes 4 5 ++ leBytes 4 0x15AD ++ leBytes 8 0x77 ++ List.replicate (0x15AD - 24) 0

/-- A record of full length for UID 10, SEQ 4. -/
def record : List Byte := leBytes 4 0x52474643 ++ [1, 0, 0, 0] ++ leBytes 4 4 ++ leBytes 4 0 ++ leBytes 8 10 ++ List.replicate (5389 - 24) 0

/-- Images and records that wait, UID 10, with an identity state. -/
def judging (images records : List (List Byte × Nat)) (id : Nat) : State :=
  let s := putAll islandUp [(0x500004, 10), (0x600005, id)]
  { s with isl := { s.isl with trust := { s.isl.trust with images := images, records := records }
                               fmp := { s.isl.fmp with handles := [⟨6, 0, 3, 0, none⟩] } } }

/-- The same with every handle taken. -/
def handlesTaken : State :=
  { islandUp with isl := { islandUp.isl with fmp := { islandUp.isl.fmp with handles := (List.range 4).map fun i => ⟨i + 1, 0, 3, 0, none⟩ } } }

set_option maxRecDepth 100000 in
theorem witness_images :
    islandUp.isl.trust.up = true ∧ HandleFree islandUp ∧ ¬HandleFree handlesTaken ∧ islandUp.get 0x600001 ≠ 2 ∧ islandUp.get 0x600005 ≠ 2 ∧
    (islandUp.put 0x600001 2).get 0x600001 = 2 ∧ (judging [] [] 2).get 0x600005 = 2 ∧ (judging [(image, 6)] [] 1).isl.trust.images = (image, 6) :: [] ∧
    (judging [] [(record, 6)] 1).isl.trust.records = (record, 6) :: [] ∧ imageOk (judging [([], 6)] [] 1).isl.flash.counter0.toNat [] = false ∧
    (judging [] [([], 6)] 1).recordAccepted [] = false ∧ (judging [] [] 3).get 0x600005 = 3 := by
  unfold HandleFree
  decide +kernel

/-- An image passes R329 where its key is the vendor's and its signature verifies. -/
theorem witness_image_passes (key : Config.shake256 (slice image 0x20 1952) 64 = Config.vendorRoot)
    (signed : Config.mldsaVerify (slice image 0x20 1952) (ascii "ULF-IMG") (image.take (0x15AD - 3309)) (slice image (0x15AD - 3309) 3309) = true) :
    imageOk (judging [(image, 6)] [] 1).isl.flash.counter0.toNat image = true := by
  have h1 : field image 0 4 = 0x4D494655 ∧ field image 4 1 = 1 ∧ field image 0x0C 4 = 0x15AD ∧ image.length = 0x15AD ∧
      (judging [(image, 6)] [] 1).isl.flash.counter0.toNat ≤ field image 8 4 := by decide +kernel
  obtain ⟨a, b, c, d, e⟩ := h1
  simp only [imageOk, a, b, c, d, key, signed, e]
  have v : (Config.vendorRoot == Config.vendorRoot) = true := beq_self_eq_true _
  rw [v]
  rfl

/-- A record is accepted where its signature verifies under its own key and the module is unowned. -/
theorem witness_record_accepted (s : State) (raw : List Byte) (unowned : s.installed = none) (sound : recordSound (s.get 0x500004) raw = true)
    (fresh : s.isl.flash.counter1.toNat < field raw 8 4) (signed : recordVerifies (slice raw 0x80 1952) raw = true) : s.recordAccepted raw = true := by
  have zero : keyUnowned (List.replicate 1952 0) = true := by decide +kernel
  unfold State.recordAccepted
  rw [unowned]
  simp only [zero, sound, fresh, signed, if_true, decide_true, Bool.and_self]

set_option maxRecDepth 100000 in
theorem witness_record_is_sound :
    recordSound ((judging [] [(record, 6)] 1).get 0x500004) record = true ∧ (judging [] [(record, 6)] 1).isl.flash.counter1.toNat < field record 8 4 ∧
    (judging [] [(record, 6)] 1).installed = none := by
  decide +kernel

set_option maxRecDepth 100000 in
theorem test_images_and_records :
    gives (.fwImageWrite image) islandUp (fun t => decide (t.isl.trust.images = [(image, 1)] ∧ t.isl.fmp.handles.map Handle.status = [3])) = true ∧
    gives (.fwImageWrite image) handlesTaken (fun t => decide (t.get 0x717005 = 1)) = true ∧
    gives .fwImageWriteDone (judging [([], 6)] [] 1) (fun t => decide (t.isl.fmp.handles = [⟨6, 0, 0x20, 8, some 0⟩] ∧ t.isl.flash.image = [])) = true ∧
    gives (.config record) (islandUp.put 0x600001 2) (fun t => decide (t.get 0x717005 = 1 ∧ t.isl.trust.records = [])) = true ∧
    gives .configVerifyDone (judging [] [([], 6)] 1) (fun t => decide (t.isl.fmp.handles = [⟨6, 0, 0x20, 9, some 0⟩] ∧ t.isl.trust.records = [])) = true ∧
    gives (.idCertWrite [1, 2]) (judging [] [] 3) (fun t => decide (t.isl.flash.cert = [1, 2] ∧ t.get 0x600005 = 1)) = true ∧
    gives (.idCertWrite [1, 2]) (judging [] [] 1) (fun t => decide (t.isl.flash.cert = [] ∧ t.get 0x717005 = 1)) = true := by
  decide +kernel

theorem witness_rows_that_write_an_object :
    [on, lasting, islandUp, portIn 5 .down, receiving 0 true, receiving 1 true, twin 2 true, twin 1, on.put 0x560F04 1, watched 49999000,
      judging [] [] 3, judging [] [] 1].all (fun s => s.isl.trust.up && s.get 0x600001 != 2) = true ∧
    (receiving 1 true).mcMode 4 = 3 ∧ bit ((receiving 1 true).mcObj 4 8) 0 = true ∧ on.mcMode 4 = 0 ∧ (receiving 0 true).mcMode 4 ≠ 0 := by
  decide +kernel

theorem test_recovery_refuses_writes :
    [Instr.portEnableWrite 0, .wdtKick 0, .takeoverEnWrite 1, .spEnableWrite 0 1, .moduleResetWrite 1].all (fun i =>
      gives i (islandUp.put 0x600001 2) (fun t => decide (t = (islandUp.put 0x600001 2).put 0x717005 1))) = true ∧
    gives (.portEnableWrite 0) State.reset (fun t => decide (t = State.reset)) = true := by
  decide +kernel

/-- The island runs and a full restart was asked for at a tick. -/
def restarting (k : Nat) : State := { on with isl := { on.isl with trust := { on.isl.trust with restartAt := some k } } }

theorem witness_island :
    State.reset.isl.trust.up = false ∧ imageOk State.reset.isl.flash.counter0.toNat State.reset.isl.flash.image = false ∧
    on.isl.trust.up = true ∧ (restarting 50000000).isl.trust.restartAt = some 50000000 ∧ 50000000 ≤ (restarting 50000000).tick ∧
    (restarting 50000001).tick < 50000001 ∧ (restarting 50000000).isl.trust.images = [] := by
  decide +kernel

theorem test_restart :
    gives (.restart 1) on (fun t => decide (t.isl.trust.restartAt = some 50012500)) = true ∧
    gives .fullRestart (restarting 50000000) (fun t => decide (t.isl.trust.up = false ∧ t.railsUp = false ∧ t.tick = 0)) = true ∧
    gives .auxInputLoss on (fun t => decide (t.isl.trust.up = false ∧ t.tick = 0)) = true := by
  decide +kernel

/-! ## The management protocol -/

/-- An address on the management port. -/
def peer : Source := .ip (List.replicate 16 1) 4680

/-- A datagram: header of R353 with an OP, a SEQ and a payload, without session. -/
def gram (op seq : Nat) (payload : List Byte) : List Byte :=
  leBytes 2 0x4D46 ++ [1, 0] ++ leBytes 1 op ++ [0, 0, 0] ++ leBytes 4 seq ++ [0, 0] ++ leBytes 2 payload.length ++ List.replicate 16 0 ++ payload

/-- A kept reply. -/
def keptReply : State := { on with isl := { on.isl with fmp := { on.isl.fmp with kept := [{ src := peer, seq := 9, bytes := [4, 4] }] } } }

/-- An FMP message that carries a datagram. -/
def fmpMsg : Msg := { msg with mtype := 5, dst := 0, len := 36, data := gram 5 9 [1, 0, 0, 0] }

/-- `Admissible` as a check. -/
def admits (s : State) (src : Source) (seq : Nat) : Bool :=
  (s.keptOf src).all (fun k => decide (k.seq ≠ seq)) && (s.keptOf src).head?.all (fun k => !seqStale k.seq seq) && decide (s.isl.fmp.queue.length < 16)

theorem head_passes {α : Type} (f : α → Bool) (l : List α) (h : l.head?.all (fun k => !f k) = true) (k : α) (rest : List α) (e : l = k :: rest) : f k = false := by
  subst e
  simpa using h

theorem admissible_of_admits (s : State) (src : Source) (seq : Nat) (h : admits s src seq = true) : Admissible s src seq := by
  unfold admits at h
  simp only [Bool.and_eq_true, List.all_eq_true, decide_eq_true_eq] at h
  exact ⟨h.1.1, fun k rest e => head_passes (fun k => seqStale k.seq seq) _ h.1.2 k rest e, h.2⟩

theorem witness_admissible :
    admits on peer 9 = true ∧ admits keptReply peer 10 = true ∧ admits keptReply peer 8 = false ∧ admits on (.core 3) 9 = true ∧
    admits on (.device fmpMsg.src) 9 = true := by
  decide +kernel

theorem witness_datagrams :
    on.fab.mirEvents = [] ∧ on.hears peer = true ∧ (gram 5 9 [1, 0]).length ≤ 1280 ∧ WholeRequest (gram 5 9 [1, 0]) ∧
    field (gram 5 9 [1, 0]) 8 4 = 9 ∧
    (keptReply.keptOf peer).find? (fun k => k.seq = field (gram 5 9 [1, 0]) 8 4) = some { src := peer, seq := 9, bytes := [4, 4] } ∧
    ([] : List Byte).length < 32 ∧ field (List.replicate 32 0) 0 2 ≠ 0x4D46 ∧ ((gram 5 9 [1, 0]).take 33).length - 32 < field ((gram 5 9 [1, 0]).take 33) 14 2 ∧
    on.hears (.core 3) = true ∧ (on.mailbox 3).1 ≠ 1 ∧ WholeRequest (fit (min 34 1280) (gram 5 9 [1, 0])) ∧
    fmpMsg.dst ≠ 0xFFF ∧ on.hears (.device fmpMsg.src) = true ∧ WholeRequest (fit fmpMsg.dataLen fmpMsg.data) := by
  unfold WholeRequest
  decide +kernel

theorem test_datagrams :
    gives (.fmpDatagramReceive peer (gram 5 9 [1, 0]) false) on (fun t => decide (t.isl.fmp.queue.map Request.payload = [[1, 0]])) = true ∧
    gives (.fmpDatagramReceive peer (gram 5 9 [1, 0]) false) keptReply (fun t => decide (t.isl.fmp.sent = [(peer, [4, 4])] ∧ t.get 0x7F0003 = 1)) = true ∧
    gives (.fmpDatagramReceive peer (gram 5 8 [1, 0]) false) keptReply (fun t => decide (t.isl.fmp.queue = [] ∧ t.get 0x7F0004 = 1)) = true := by
  decide +kernel

theorem test_mailbox_and_message :
    gives (.mailboxDoorbell 3 34 (gram 5 9 [1, 0])) on (fun t => decide (t.isl.fmp.queue.map Request.src = [.core 3] ∧ (t.mailbox 3).1 = 1)) = true ∧
    gives (.fabricFmp fmpMsg) on (fun t => decide (t.isl.fmp.queue.map Request.src = [.device 2])) = true := by
  decide +kernel

/-- Requests that arrived earlier, and in this cycle over the fabric. -/
def queuing : State :=
  let r := fun (src : Source) (c rank : Nat) => (⟨src, 5, 0, 9, false, [], [1, 0], 0, (50000000, c), rank⟩ : Request)
  { on with isl := { on.isl with fmp := { on.isl.fmp with queue := [r (.device 1) 999 18, r (.core 5) 1000 5, r (.device 2) 1000 18] } } }

theorem test_requests_of_one_cycle_are_ranked :
    gives (.fmpDatagramReceive peer (gram 5 9 [1, 0]) false) queuing (fun t => decide (t.isl.fmp.queue.map Request.src =
      [.device 1, .core 5, peer, .device 2])) = true := by
  decide +kernel

/-- A request of an OP with a payload at the front. -/
def asking (op : Nat) (payload : List Byte) (src : Source := peer) (sid : Nat := 0) (session : Bool := false) (token : List Byte := []) : State :=
  { on with isl := { on.isl with fmp := { on.isl.fmp with queue := [⟨src, op, sid, 9, session, token, payload, 0, (0, 0), 0⟩] } } }

/-- The payload of the newest reply kept. -/
def answered (t : State) : List Byte := (t.isl.fmp.kept.map fun k => k.bytes.drop 32).headD []

/-- Its STATUS and STATE (R353). -/
def verdictOf (t : State) : Nat × Nat := (t.isl.fmp.kept.map fun k => (field k.bytes 12 1, field k.bytes 13 1)).headD (0xFF, 0xFF)

/-- The payload of a segment: an object, TOTAL, OFFSET, LEN and data. -/
def segment (n total offset : Nat) (data : List Byte) (len : Nat := data.length) : List Byte :=
  leBytes 2 (n / 256) ++ leBytes 2 (n % 256) ++ leBytes 4 total ++ leBytes 4 offset ++ leBytes 2 len ++ leBytes 2 0 ++ data

theorem witness_requests :
    (asking 1 [1, 0, 0, 0, 0, 0x20, 9, 0]).isl.trust.up = true ∧ (asking 1 []).fab.mirEvents = [] ∧
    (PlainRequest ⟨peer, 1, 0, 9, false, [], [], 0, (0, 0), 0⟩) ∧ 8 ≤ [1, 0, 0, 0, 0, 0x20, 9, (0 : Byte)].length ∧ field [1, 0, 0, 0, 0, 0x20, 9, 0] 0 2 = 1 ∧
    0x200009 = objAt [1, 0, 0, 0, 0, 0x20, 9, 0] 4 ∧ ((readable .fmpPlain 0x200009).any fun r => scalarType r.type) = true ∧
    readable .fmpPlain 0x330003 = none ∧ ((objRow 0x330003).any fun r => scalarType r.type) = true ∧
    12 + (1 + 3) / 4 * 4 ≤ [1, 0, 0, 0, 0, 0x33, 2, 0, 1, 0, 0, 0, 1, 0, 0, (0 : Byte)].length ∧ readSegment (segment 0x610001 64 0 [] 64) false ≠ none ∧
    readable .fmpPlain 0x610001 ≠ none ∧ on.readRefusal 0x610001 = none ∧ readSegment (segment 0x610006 32 0 [1, 2]) true ≠ none ∧
    on.writable .fmpPlain 0x610006 ≠ none ∧ (2 : Nat) < 32 ∧ (asking 5 [6, 0]).isl.fmp.handles = [] ∧ opDefined 6 = false := by
  unfold PlainRequest peer
  repeat' apply And.intro
  all_goals (try decide +kernel)
  intro c h
  cases h

theorem test_read_and_write :
    gives .fmpRead (asking 1 [1, 0, 0, 0, 0, 0x20, 0x0A, 0]) (fun t => decide (answered t = [1, 0, 0, 0, 0, 0x20, 0x0A, 3, 0, 0, 2, 0, 0x34, 8, 0, 0])) = true ∧
    gives .fmpRead (asking 1 [1, 0, 0, 0, 0, 0x33, 3, 0]) (fun t => decide (answered t = [1, 0, 0, 0, 0, 0x33, 3, 4, 0, 0, 4, 0, 0, 0, 0, 0] ∧ t.get 0x7F0001 = 1)) = true ∧
    gives .fmpWrite (asking 2 [1, 0, 0, 0, 2, 0x33, 2, 0, 1, 0, 0, 0, 1, 0, 0, 0] (.core 3)) (fun t => decide (t.get 0x7F0002 = 1 ∧ (t.mailbox 3).1 = 2)) = true := by
  decide +kernel

theorem test_segments_and_handles :
    gives .readSeg (asking 3 (segment 0x610001 64 60 [] 64)) (fun t => decide ((answered t).length = 20 ∧ field (answered t) 8 4 = 64)) = true ∧
    gives .writeSeg (asking 4 (segment 0x610006 32 0 [1, 2])) (fun t => decide (t.isl.fmp.transfers.map Transfer.data = [[1, 2]] ∧ field (answered t) 8 4 = 2)) = true ∧
    gives .poll (asking 5 [6, 0]) (fun t => decide (verdictOf t = (0x21, 0))) = true ∧
    gives .fmpUndefinedOp (asking 6 []) (fun t => decide (verdictOf t = (0x21, 0) ∧ t.get 0x7F0002 = 1)) = true := by
  decide +kernel

/-- An owner key other than zeros is in use, and these are the sessions. -/
def owned (s : State) (l : List Session) : State :=
  { s with isl := { s.isl with fmp := { s.isl.fmp with sessions := l }
                               trust := { s.isl.trust with record := some { parseRecord record with ownerKey := [1] } } } }

/-- A session of SID 7. -/
def sess (opened : Bool) (auth : List Byte) (since : Nat := 50000000) (last : List Byte := []) : Session :=
  { sid := 7, src := peer, challenge := List.replicate 32 3, opened := opened, anchor := [], lastToken := last, tokensLeft := 20, since := since, auth := auth }

/-- The bytes of an authentication. -/
def authBytes : List Byte := List.replicate 16 9 ++ leBytes 2 20 ++ List.replicate 3311 0

/-- An authentication being verified. -/
def verifying : State :=
  let s := owned on [sess false authBytes]
  { s with isl := { s.isl with fmp := { s.isl.fmp with handles := [⟨6, 9, 3, 0, none⟩] } } }

theorem witness_sessions :
    NoneSpent (owned on [sess true []]) ∧ keyUnowned (owned on []).ownerKey = false ∧ (owned on []).isl.fmp.sessions.countP (fun x => x.opened) < 4 ∧
    keyUnowned on.ownerKey = true ∧ (readSegment (segment 0 3329 2464 (List.replicate 865 0)) true).any (fun g => g.total = 3329 ∧ 0 < g.offset ∧ g.offset = 2464 ∧ g.data.length = 865) = true ∧
    (owned on [sess false (List.replicate 2464 0)]).isl.fmp.sessions.find? (fun x => x.sid = 7 ∧ x.src = peer ∧ !x.opened ∧ x.auth.length < 3329) = some (sess false (List.replicate 2464 0)) ∧
    HandleFree (owned on []) ∧ verifying.isl.fmp.handles.find? (fun h => 2 ≤ h.work ∧ h.endedAt.isNone) = some ⟨6, 9, 3, 0, none⟩ ∧
    verifying.isl.fmp.sessions.find? (fun x => x.sid = 7 ∧ !x.opened ∧ x.auth.length = 3329) = some (sess false authBytes) ∧
    verifying.isl.fmp.sessions.countP (fun x => x.opened) < 4 ∧ field authBytes 16 2 ≠ 0 := by
  unfold NoneSpent HandleFree
  decide +kernel

/-- A request recognised by its token, one link from the last. -/
theorem witness_claim (tok : List Byte) (payload : List Byte) :
    ((serving (owned (asking 0x12 payload peer 7 true tok) [sess true [] 0 (Config.shake256 tok 16)]) []).claimed ⟨peer, 0x12, 7, 9, true, tok, payload, 0, (0, 0), 0⟩).map Prod.snd = some 1 := by
  simp [State.claimed, serving, State.bump, State.put, State.putFmp, owned, sess, tokenSteps, hashN, List.range, List.range.loop, peer]

theorem witness_session_time :
    (owned on [sess false [] 37500000]).isl.fmp.sessions.find? (fun x => x.sid = 7 ∧ !x.opened ∧ x.auth.length < 3329) = some (sess false [] 37500000) ∧
    37500000 + 12500000 ≤ on.tick ∧ on.tick < 37500001 + 12500000 ∧
    60 = (if on.get 0x101004 = 0 then 60 else on.get 0x101004) ∧
    (owned (on.put 0x101004 2) [sess true [] 25000000]).isl.fmp.sessions.find? (fun x => x.sid = 7 ∧ x.opened) = some (sess true [] 25000000) ∧
    25000000 + 2 * 12500000 ≤ on.tick ∧ on.tick < 25000001 + 2 * 12500000 := by
  decide +kernel

theorem test_session_steps :
    gives .sessionOpen (owned (asking 0x10 []) []) (fun t => decide (t.isl.fmp.sessions.map Session.sid = [1] ∧ t.isl.fmp.sessions.map Session.opened = [false])) = true ∧
    gives .sessionOpen (asking 0x10 []) (fun t => decide (verdictOf t = (0x20, 18) ∧ t.isl.fmp.sessions = [])) = true ∧
    gives .sessionAuth (owned (asking 0x11 (segment 0 3329 2464 (List.replicate 865 0)) peer 7) [sess false (List.replicate 2464 0)])
      (fun t => decide (t.isl.fmp.handles.map Handle.work = [9] ∧ t.isl.fmp.sessions.map (fun x => x.auth.length) = [3329])) = true := by
  decide +kernel

theorem test_session_time :
    gives (.challengeTimeout 7) (owned on [sess false [] 37500000]) (fun t => decide (t.isl.fmp.sessions = [])) = true ∧
    gives (.challengeTimeout 7) (owned on [sess false [] 37500001]) (fun t => decide (t.isl.fmp.sessions.length = 1)) = true ∧
    gives (.sessionIdleTimeout 7) (owned (on.put 0x101004 2) [sess true [] 25000000]) (fun t => decide (t.isl.fmp.sessions = [])) = true ∧
    gives (.sessionIdleTimeout 7) (owned (on.put 0x101004 2) [sess true [] 25000001]) (fun t => decide (t.isl.fmp.sessions.length = 1)) = true := by
  decide +kernel

/-- A transfer under way since a tick. -/
def moving (k : Nat) : State :=
  { on.put 0x203001 200000000 with isl := { on.isl with fmp := { on.isl.fmp with transfers := [⟨peer, 0x610006, 32, [1, 2], k⟩], handles := [⟨6, 0, 0, 0, some k⟩] } } }

theorem witness_transfer :
    (moving 75000000).transfer peer 0x610006 = some ⟨peer, 0x610006, 32, [1, 2], 75000000⟩ ∧ 75000000 + 125000000 ≤ (moving 75000000).tick ∧
    (moving 75000001).tick < 75000001 + 125000000 := by
  decide +kernel

theorem test_transfer_and_handle_expire :
    gives (.segTransferTimeout peer 0x610006) (moving 75000000) (fun t => decide (t.isl.fmp.transfers = [])) = true ∧
    gives (.segTransferTimeout peer 0x610006) (moving 75000001) (fun t => decide (t.isl.fmp.transfers.length = 1)) = true ∧
    gives (.handleExpire 6) (moving 75000000) (fun t => decide (t.isl.fmp.handles = [])) = true ∧
    gives (.handleExpire 6) (moving 75000001) (fun t => decide (t.isl.fmp.handles.length = 1)) = true := by
  decide +kernel

theorem witness_objects :
    on.isl.trust.up = true ∧ on.writable .fmpPlain 0x330001 = none ∧ (on.writable .window 0x330001).any (fun r => formOk 0x330001 r 2 ∧ !formOk 0x330001 r 3 ∧ scalarType r.type) = true ∧
    on.specialWrite 0x330001 [1, 2] = none ∧ (on.writable .fmpSession 0x102001).any (fun r => formOk 0x102001 r 16 ∧ !scalarType r.type) = true ∧
    on.specialWrite 0x102001 (List.replicate 16 1) = none ∧ on.get 0x600001 ≠ 2 ∧ (on.put 0x600001 2).get 0x600001 = 2 ∧
    ((on.put 0x600001 2).writable .window 0x330001).isSome = true ∧ on.get 0x200006 ≤ 1 ∧ 2 ≤ (on.put 0x200006 2).get 0x200006 ∧ on.hears (.ip [] 0) = true ∧
    List.replicate 16 1 ≠ on.getBlob 0x510004 16 ∧ List.replicate 16 0 = (twin 1).getBlob 0x510004 16 ∧ (beat 9 1).uid.toNat = (twin 1).get 0x510001 ∧
    (twin 1).paired = true ∧ (beat 8 1).uid.toNat ≠ (twin 1).get 0x510001 := by
  decide +kernel

theorem test_object_write :
    gives (.objectWrite .window 0x330001 [1, 2]) on (fun t => decide (t.get 0x330001 = 0x201)) = true ∧
    gives (.objectWrite .fmpPlain 0x330001 [1, 2]) on (fun t => decide (t.get 0x330001 = 0 ∧ t.get 0x7F0001 = 1)) = true ∧
    gives (.objectWrite .window 0x330001 [1, 2]) (on.put 0x600001 2) (fun t => decide (t.get 0x717005 = 1)) = true ∧
    gives .objectCopyRefresh (on.put 0x711001 5) (fun t => decide ((t.copy.get 0x711001 0).toNat = 5)) = true ∧
    gives (.heartbeat (List.replicate 16 0) (beat 8 1)) (twin 1) (fun t => decide (t.get 0x7F0004 = 1)) = true ∧
    gives (.heartbeat (List.replicate 16 0) (beat 9 2)) (twin 1) (fun t => decide (t.get 0x510008 = 50000000)) = true := by
  decide +kernel

/-! ## Event records and the sideband -/

/-- Event ring 1, of type 4 with two 32-byte slots at 0x8000, its record slot empty, and merge records. -/
def eventful (merges : List MergeRec) : State :=
  { on with hub := { on.hub with rings := [(1, { Ring.zero with base := 0x8000, order := 1, type := 4, esize := 1 })] }
            isl := { on.isl with merges := merges } }

/-- A pending record of class 2. -/
def pendingRec (tick : Nat) : MergeRec := { cls := 2, code := 1, unit := 3, sub := 0, tick := tick, merged := 255, data := List.replicate 16 9 }

theorem witness_events :
    (eventful []).railsUp = true ∧ (eventful []).eventRing = 1 ∧ ringSlotAddr 1 ((eventful []).ring 1) ((eventful []).ring 1).pi = 0x8000 ∧
    ringBroken ((eventful []).ring 1) = false ∧ ringType 1 ((eventful []).ring 1) = 4 ∧ ringFull ((eventful []).ring 1) = false ∧
    ringSlotSize 1 ((eventful []).ring 1) = 32 ∧ (eventful []).place 0x8000 = .hbm 0 0x8000 ∧ (eventful []).mirrors 0x8000 = [] ∧
    (eventful []).fab.mirEvents = [] ∧ (eventful [pendingRec 49998751]).tick < 49998751 + 1250 ∧
    (eventful [pendingRec 49998751]).isl.merges = [pendingRec 49998751] ∧ 49998750 + 1250 ≤ (eventful [pendingRec 49998750]).tick ∧
    ¬((eventful [pendingRec 49998750]).tick < 49998750 + 1250) ∧ (11 : Nat) ≠ 0 ∧ 11 ≠ 2 ∧ eventLogged 11 3 = true := by
  decide +kernel

theorem test_events_merge_and_expire :
    gives (.eventRecordWrite 2 1 3 0 []) (eventful [pendingRec 49998751]) (fun t => decide (t.isl.merges = [pendingRec 49998751] ∧ t.get 0x71B008 = 1)) = true ∧
    gives (.eventRecordWrite 2 1 3 0 []) (eventful []) (fun t => decide (t.isl.merges.map MergeRec.merged = [0] ∧ (t.ring 1).pi = 0)) = true ∧
    gives (.eventMergeExpire 2 1 3 0) (eventful [pendingRec 49998750]) (fun t => decide (t.isl.merges = [] ∧ (t.ring 1).pi = 1 ∧ t.bytesAt 0x8010 16 = List.replicate 16 9)) = true ∧
    gives (.eventMergeExpire 2 1 3 0) (eventful [pendingRec 49998751]) (fun t => decide (t.isl.merges.length = 1)) = true := by
  decide +kernel

theorem test_event_is_stored_at_once :
    gives (.eventRecordWrite 11 3 25 0 (List.replicate 16 8)) (eventful [])
      (fun t => decide (t.bytesAt 0x8008 8 = leBytes 8 50000000 ∧ t.get 0x7E0002 = 1 ∧ t.isl.flash.log.get 0 [] = t.bytesAt 0x8000 32)) = true := by
  decide +kernel

/-- An EVENT datagram that waits since a tick. -/
def unsent (k : Nat) : State := { on with isl := { on.isl with fmp := { on.isl.fmp with events := [(k, [1])] } } }

theorem witness_unsent :
    (unsent 49987500).isl.fmp.events = (49987500, [1]) :: [] ∧ 49987500 + 12500 ≤ (unsent 49987500).tick ∧ (unsent 49987501).tick < 49987501 + 12500 := by
  decide +kernel

theorem test_unsent_event_is_dropped :
    gives .eventSendTimeout (unsent 49987500) (fun t => decide (t.isl.fmp.events = [] ∧ t.get 0x7F0008 = 1)) = true ∧
    gives .eventSendTimeout (unsent 49987501) (fun t => decide (t.isl.fmp.events.length = 1)) = true := by
  decide +kernel

/-- A throttled module whose target has an address and enabled interrupts. -/
def sided (pending : Bool) (addr : Option Nat) : State :=
  { on with isl := { on.isl with side := { Sideband.reset with dynAddr := addr, ibiEnabled := true, ibiPending := pending, map := [1, 1, 0, 6] ++ List.replicate 60 7 }
                                 power := { on.isl.power with throttled := true } } }

theorem witness_sideband :
    (sided true none).isl.trust.up = true ∧ (sided true none).isl.side.dynAddr = none ∧ (sided true (some 9)).isl.side.dynAddr ≠ none ∧
    (sided true none).isl.side.ibiPending = true ∧ (sided false none).isl.side.ibiPending = false ∧ (sided true none).sideMap.getD 3 0 = 4 := by
  decide +kernel

theorem test_sideband :
    gives .sidebandRefresh (sided false (some 9)) (fun t => t.isl.side.ibiPending) = true ∧
    gives .sidebandRefresh (sided false none) (fun t => !t.isl.side.ibiPending) = true ∧
    gives (.setdasa 0x20) (sided false none) (fun t => decide (t.isl.side.dynAddr = some 0x20)) = true ∧
    gives (.entdaa 0x20) (sided false (some 9)) (fun t => decide (t.isl.side.dynAddr = some 9)) = true ∧
    gives .enec on (fun t => t.isl.side.ibiEnabled) = true ∧
    gives (.sidebandRead 0x3F 3) (sided false none) (fun t => decide (t.isl.side.readData = [7, 1, 1])) = true ∧
    gives .ibiAck (sided true none) (fun t => decide (t.isl.side.ibiPending = false ∧ t.isl.side.ibiData = some 6)) = true := by
  decide +kernel

/-! ## Power states -/

/-- The module in a power state since tick 0, entering another, allowed down to Dormant. -/
def inState (k : Nat) (entering : Option Nat := none) (exiting : Bool := false) (acc : List Access := []) : State :=
  let s := putAll on [(0x200006, k), (0x200002, 4)]
  { s with isl := { s.isl with power := { s.isl.power with entering := entering, exiting := exiting, heldAcc := acc } }
           mem := { s.mem with bytes := [(0x40, 5), (0xF0000000000, 6), (0xF0000000040, 7)] } }

/-- Bank 0 of die 0 is pinned. -/
def pinned : State := (inState 2 (some 3)).put 0x402101 1

theorem witness_power_states :
    (inState 0).railsUp = true ∧ (inState 0).get 0x200006 = 0 ∧ (inState 0).idle = true ∧
    MayDescend (inState 1) 2 ((inState 1).get 0x200003) ∧ MayDescend (inState 2) 3 ((inState 2).get 0x200004) ∧ MayDescend (inState 3) 4 ((inState 3).get 0x200005) ∧
    (inState 1 (some 2)).isl.power.entering = some 2 ∧ pinned.isl.power.entering = some 3 ∧ (inState 3 (some 4)).isl.power.entering = some 4 ∧
    (inState 2).asleep = true ∧ Awake (inState 1) ∧ (inState 1).fab.mirEvents = [] ∧
    (inState 2 none true).isl.power.exiting = true ∧ (inState 2 none true).isl.power.heldAcc = [] ∧ (inState 2 none true).get 0x200006 = 2 ∧
    (inState 3 none true [.syncAdd 16 5]).isl.power.heldAcc = [.syncAdd 16 5] ∧ (inState 3 none true [.syncAdd 16 5]).get 0x200006 = 3 ∧
    ({ inState 2 with hub := linkedUp.hub } : State).hub.ep.dlActive = true ∧ ({ inState 2 with hub := linkedUp.hub } : State).asleep = true ∧
    windowWakes (0x400000 + 16 * 16) 8 (some 5) = true := by
  simp only [MayDescend, Awake]
  decide +kernel

theorem test_descent :
    gives .enterPoise (inState 0) (fun t => decide (t.get 0x200006 = 1 ∧ t.get 0x711001 = 1)) = true ∧
    gives .enterHold (inState 1) (fun t => decide (t.isl.power.entering = some 2)) = true ∧
    gives .enterRest (inState 2) (fun t => decide (t.isl.power.entering = some 3)) = true ∧
    gives .enterDormant ((inState 3).put 0x200002 3) (fun t => decide (t.isl.power.entering = none)) = true ∧
    gives .stateEntryComplete pinned (fun t => decide (t.get 0x200006 = 3 ∧ t.bankAwake 0 0 = true ∧ t.bankAwake 0 1 = false ∧
      t.mem.bytes = [(0x40, 5), (0xF0000000000, 6)] ∧ t.get 0x711003 = 1)) = true ∧
    gives .stateEntryComplete (inState 3 (some 4)) (fun t => decide (t.mem.bytes = [] ∧ bit (t.get 0x201001) 2 = false)) = true := by
  decide +kernel

theorem test_waking :
    gives (.wakeEvent (.syncSet 16 5)) (inState 2) (fun t => decide (t.count 16 = 0 ∧ t.isl.power.exiting = true ∧ t.isl.power.heldAcc = [.syncSet 16 5])) = true ∧
    gives (.syncWindowAdd 16 5 false) (inState 2) (fun t => decide (t.isl.power.heldAcc = [.syncAdd 16 5])) = true ∧
    gives (.outboundAccess ⟨3, (0x400000 + 16 * 16)⟩ 8 (some [5, 0, 0, 0, 0, 0, 0, 0]) []) (inState 2) (fun t => decide (t.count 16 = 0 ∧
      t.isl.power.exiting = true ∧ t.isl.power.heldAcc = [.window 3 (0x400000 + 16 * 16) 8 (some 5)])) = true ∧
    gives .exitComplete (inState 3 none true [.syncAdd 16 5]) (fun t => decide (t.get 0x200006 = 1 ∧ t.count 16 = 5)) = true := by
  decide +kernel

/-! ## Caps and junctions -/

/-- The average, the cap step, whether throttled, and the tick of the last comparison. -/
def capped (avg step : Nat) (throttled : Bool) (last : Nat := 49875000) : State :=
  let s := on.put 0x200008 avg
  { s with isl := { s.isl with power := { s.isl.power with capStep := step, throttled := throttled, lastCap := last } } }

theorem witness_cap_step :
    (capped 860001 6 false).railsUp = true ∧ 860000 < (capped 860001 6 false).get 0x200008 ∧ (capped 860001 7 false).isl.power.capStep = 7 ∧
    100 * (capped 816999 3 false).get 0x200008 < 95 * 860000 ∧ ¬(100 * (capped 817000 3 false).get 0x200008 < 95 * 860000) ∧
    (capped 816999 3 true).isl.power.throttled = true ∧ 49875000 + 125000 ≤ on.tick ∧ on.tick < 49875001 + 125000 ∧
    (capped 860000 3 false).get 0x200008 ≤ 860000 ∧ (capped 0 3 false).arr.ops = [] := by
  decide +kernel

theorem test_cap_step :
    gives .capStepAdjust (capped 860001 6 false) (fun t => decide (t.isl.power.capStep = 7 ∧ t.get 0x711005 = 1 ∧ t.get 0x200009 = 7)) = true ∧
    gives .capStepAdjust (capped 816999 3 false) (fun t => decide (t.isl.power.capStep = 2 ∧ t.get 0x711005 = 0)) = true ∧
    gives .capStepAdjust (capped 816999 3 true) (fun t => decide (t.isl.power.capStep = 3)) = true ∧
    gives .capStepAdjust (capped 817000 3 false) (fun t => decide (t.isl.power.capStep = 3)) = true := by
  decide +kernel

/-- Ten samples, and the cycles that holds cover since a tick. -/
def held (mw cycles since : Nat) : State :=
  { on with isl := { on.isl with power := { on.isl.power with samples := List.replicate 10 mw, capHold := cycles, holdsSince := since } } }

theorem witness_power_holds :
    on.isl.trust.up = true ∧ (held 946001 0 0).isl.power.capHold = 0 ∧ 11 * (held 946001 0 0).cap < 10 * meanOf 10 ((946001 :: (held 946001 0 0).isl.power.samples).take 100) ∧
    10 * meanOf 10 ((946000 :: (held 946000 0 0).isl.power.samples).take 100) ≤ 11 * (held 946000 0 0).cap ∧
    (held 860000 32 0).isl.power.capHold ≠ 0 ∧ meanOf 10 ((860000 :: (held 860000 32 0).isl.power.samples).take 100) ≤ (held 860000 32 0).cap ∧
    (held 946001 32 49987500).overLimit = true ∧ 49987500 + 12500 ≤ on.tick := by
  decide +kernel

theorem test_power_holds :
    gives (.powerSample 946001) (held 946001 0 0) (fun t => decide (t.isl.power.capHold = 32 ∧ (t.hold 0).power.map Prod.snd = some 32)) = true ∧
    gives (.powerSample 946000) (held 946000 0 0) (fun t => decide (t.isl.power.capHold = 0)) = true ∧
    gives .powerHoldEscalate (held 946001 32 49987500) (fun t => decide (t.isl.power.capHold = 56)) = true ∧
    gives .powerHoldEscalate (held 946001 32 49987501) (fun t => decide (t.isl.power.capHold = 32)) = true := by
  decide +kernel

/-- A throttle in force since a tick, in which 100.0 was read or the dies have been cool since a tick. -/
def hotState (since : Nat) (seen : Bool) (cool : Option Nat) : State :=
  { on with isl := { on.isl with power := { on.isl.power with throttled := true, thermalStep := 6, throttleSince := since, hotSeen := seen, coolSince := cool } } }

/-- Readings: die 3 at a value, the rest at 50.0 C. -/
def readings (v : Int) : List Int := (List.range 25).map fun d => if d = 3 then v else 500

theorem witness_junctions :
    (on.storeTj (readings 1050)).hottest = some (3, 1050) ∧ (on.storeTj (readings 1049)).hottest = some (3, 1049) ∧
    (on.storeTj (readings 1000)).hottest = some (3, 1000) ∧ (on.storeTj (readings 999)).hottest = some (3, 999) ∧ on.isl.power.throttled = false ∧
    (hotState 49987500 true none).isl.power.throttled = true ∧ 49987500 + 12500 ≤ on.tick ∧ (hotState 0 false (some 49875000)).isl.power.coolSince = some 49875000 ∧
    49875000 + 125000 ≤ on.tick := by
  decide +kernel

theorem test_junctions :
    gives (.tjSample (readings 1050)) on (fun t => decide (t.railsUp = false ∧ t.isl.rails.trip = some 50000000 ∧ t.get 0x71100C = 1)) = true ∧
    gives (.tjSample (readings 1000)) on (fun t => decide (t.isl.power.throttled = true ∧ t.get 0x200009 = 1 ∧ t.get 0x711007 = 1 ∧ t.tj 3 = 1000)) = true ∧
    gives (.tjSample (readings 999)) on (fun t => decide (t.isl.power.throttled = false)) = true ∧
    gives .throttleStep (hotState 49987500 true none) (fun t => decide (t.isl.power.thermalStep = 7)) = true ∧
    gives .throttleStep (hotState 49987500 false none) (fun t => decide (t.isl.power.thermalStep = 6)) = true ∧
    gives .throttleEnd (hotState 0 false (some 49875000)) (fun t => decide (t.isl.power.throttled = false ∧ t.isl.power.thermalStep = 0)) = true := by
  decide +kernel

/-- A trip that began at a tick, and the timer. -/
def tripped (k : Nat) : State :=
  let s := on.put 0x203001 200000000
  { s with isl := { s.isl with rails := { s.isl.rails with trip := some k } } }

theorem witness_trip :
    (tripped 75000000).isl.rails.trip = some 75000000 ∧ 75000000 + 125000000 ≤ (tripped 75000000).tick ∧ (tripped 75000001).tick < 75000001 + 125000000 ∧
    (tripped 75000000).isl.trust.up = true := by
  decide +kernel

theorem test_trip_end :
    gives .tripEnd (tripped 75000000) (fun t => decide (t.isl.rails.trip = none ∧ t.railsUp = false ∧ t.tick = 200000000)) = true ∧
    gives .tripEnd (tripped 75000001) (fun t => decide (t.isl.rails.trip = some 75000001)) = true := by
  decide +kernel

/-! ## Supplies -/

/-- An input warning in force, or an input hold. -/
def supplied (warn hold : Bool) : State :=
  { on with isl := { on.isl with power := { on.isl.power with vinWarn := warn }, rails := { on.isl.rails with vinHold := hold } } }

theorem witness_supplies :
    (supplied false false).isl.trust.up = true ∧ (43999 : Nat) < 44000 ∧ (44000 : Nat) < 2 ^ 32 ∧ (supplied true false).isl.power.vinWarn = true ∧
    (supplied false false).isl.power.vinWarn = false ∧ (45000 : Nat) < 45001 ∧ (39999 : Nat) < 40000 ∧ (supplied false true).isl.rails.vinHold = true ∧
    (supplied false false).isl.rails.vinHold = false ∧ on.isl.rails.trip = none ∧ on.railsUp = true ∧ 5 ∉ on.isl.rails.off ∧ 24 ∉ on.isl.rails.off ∧
    on.fenced 5 = false ∧ on.isl.rails.lostPending = [] ∧ on.isl.rails.polls.get 24 0 < 2 := by
  decide +kernel

theorem test_input_supply :
    gives (.vinWarn 43999) on (fun t => decide (t.isl.power.vinWarn = true ∧ t.get 0x711008 = 1 ∧ t.get 0x202002 = 43999)) = true ∧
    gives (.vinWarn 44000) on (fun t => decide (t.isl.power.vinWarn = false ∧ t.get 0x202001 = 44000)) = true ∧
    gives (.vinWarnEnd 45001) (supplied true false) (fun t => decide (t.isl.power.vinWarn = false)) = true ∧
    gives (.vinReset 39999) on (fun t => decide (t.railsUp = false ∧ t.isl.rails.vinHold = true ∧ t.get 0x711009 = 1)) = true ∧
    gives (.vinReset 40000) on (fun t => decide (t.railsUp = true)) = true ∧
    gives .vinResetRelease (supplied false true) (fun t => decide (t.isl.rails.vinHold = false)) = true := by
  decide +kernel

/-- Die 5 has missed some health polls. -/
def missed (k : Nat) : State := { on with isl := { on.isl with rails := { on.isl.rails with polls := [(5, k)] } } }

/-- Answers of every die but die 5. -/
def answers : List Bool := (List.range 25).map fun d => decide (d ≠ 5)

theorem test_rails_and_polls :
    gives (.railWarn 5 800) on (fun t => decide (t.get 0x71100A = 1)) = true ∧
    gives (.railReset 5) on (fun t => decide (t.isl.rails.off = [5] ∧ t.isl.rails.lostPending = [(5, 1)] ∧ t.get 0x71100B = 1)) = true ∧
    gives (.railReset 24) on (fun t => decide (t.railsUp = false)) = true ∧
    gives (.pllLockLoss 5) on (fun t => decide (t.isl.rails.lostPending = [(5, 2)])) = true ∧
    gives (.healthPoll answers) (missed 1) (fun t => decide (t.isl.rails.polls.get 5 0 = 2 ∧ t.isl.rails.lostPending = [])) = true ∧
    gives (.healthPoll answers) (missed 2) (fun t => decide (t.isl.rails.lostPending = [(5, 3)])) = true := by
  decide +kernel

/-! ## Losing units and resets -/

/-- Compute dies 16 to 19 and FD1 are left; dies have been found lost. -/
def losing (l : List (Nat × Nat)) : State :=
  let s := putAll on [(0x330003, 0xF0000), (0x330008, 0xD0FFFF)]
  { s with isl := { s.isl with rails := { s.isl.rails with lostPending := l } } }

theorem witness_losses :
    (losing [(19, 2)]).isl.rails.lostPending = [(19, 2)] ∧ (losing [(19, 2)]).fenced 19 = false ∧ fenceClosure ((losing [(19, 2)]).get 0x330008 ||| 2 ^ 19) 0 = 0xF8FFFF ∧
    (losing [(24, 2)]).isl.rails.lostPending = [(24, 2)] ∧ (losing [(24, 2)]).fab.mirEvents = [] ∧ (losing []).isl.rails.lostPending = [] ∧
    on.isl.trust.up = true ∧ islandUp.railsUp = false ∧ on.arr.ops.any OpCtx.inProgress = false ∧
    bit ((losing []).get 0x330009) 0 = false ∧
    (stackDies 9).all (fun d => !on.fenced d) = true ∧ (losing []).railsUp = true ∧ on.ddrState 0 = 3 := by
  decide +kernel

theorem test_losses :
    gives .dieLost (losing [(19, 2)]) (fun t => decide (t.get 0x330008 = 0xF8FFFF ∧ t.get 0x330003 = 0x70000 ∧ t.get 0x71B006 = 1 ∧ t.get 0x71B007 = 1)) = true ∧
    gives .dieLost (losing [(24, 2)]) (fun t => decide (t.hub.lost = true)) = true ∧
    gives (.fenceRequestWrite false 0x80000) (losing []) (fun t => decide (t.get 0x330006 = 0x80000 ∧ t.fenced 19 = true)) = true ∧
    gives (.fenceRequestWrite true 1) (losing []) (fun t => decide (t.get 0x330007 = 1 ∧ bit (t.get 0x330009) 0 = true)) = true ∧
    gives (.hbmChannelLost 9) on (fun t => decide (t.isl.rails.lostPending = (stackDies 9).map fun d => (d, 6))) = true ∧
    gives (.ddrChannelFailure 0) on (fun t => decide (t.ddrState 0 = 5 ∧ bit (t.get 0x201001) 44 = false)) = true := by
  decide +kernel

theorem witness_fence_waits : lasting.isl.trust.up = true ∧ lasting.arr.ops.any OpCtx.inProgress = true := by
  decide +kernel

theorem test_fence_waits :
    gives (.fenceRequestWrite false 0x80000) lasting (fun t => decide (t.get 0x330006 = 0x80000 ∧ t.fenced 19 = false)) = true := by
  decide +kernel

/-- A reset asked for at a tick, and a held pin. -/
def resetting (k : Option Nat) (pin : Bool) : State :=
  let s := on.put 0x330001 7
  { s with isl := { s.isl with trust := { s.isl.trust with resetAt := k }, rails := { s.isl.rails with mrstHold := pin } } }

/-- The island is up with an accepted image, ready for the rails. -/
def ready : State := { islandUp with isl := { islandUp.isl with trust := { islandUp.isl.trust with running := [1] } } }

/-- Slots with no DIMM. -/
def slots : List (Option Dimm) := List.replicate 8 none

theorem witness_resets :
    (resetting none false).isl.trust.up = true ∧ (resetting none false).isl.rails.trip = none ∧ (resetting (some 50000000) false).isl.trust.resetAt = some 50000000 ∧
    50000000 ≤ (resetting (some 50000000) false).tick ∧ (resetting (some 50000001) false).tick < 50000001 ∧ (resetting none false).isl.rails.mrstHold = false ∧
    (resetting none true).isl.rails.mrstHold = true ∧ ready.booted = true ∧ ready.railsUp = false ∧ ready.isl.rails.ramping = false ∧ ready.resetHeld = false ∧
    ready.isl.power.vinWarn = false ∧ (islandUp.put 0x600001 2).booted = false ∧ (resetting none true).resetHeld = true ∧ (supplied true false).isl.power.vinWarn = true ∧
    ({ ready.isl.rails with ramping := true } : Rails).ramping = true ∧ on.isl.fmp.events = [] := by
  decide +kernel

theorem test_module_reset :
    gives .moduleReset (resetting none false) (fun t => decide (t.railsUp = false ∧ t.get 0x330001 = 0 ∧ t.tick = 50000000 ∧ t.get 0x402201 = 2 ^ 64 - 1)) = true ∧
    gives .moduleReset ((resetting none false).put 0x404101 1) (fun t => decide (t.mem.tierMap = [(0, 1)] ∧ t.get 0x404101 = 0)) = true ∧
    gives .moduleResetDelayExpire (resetting (some 50000000) false) (fun t => decide (t.railsUp = false ∧ t.isl.trust.resetAt = none)) = true ∧
    gives .moduleResetDelayExpire (resetting (some 50000001) false) (fun t => t.railsUp) = true ∧
    gives .mrstNAssert (resetting none false) (fun t => decide (t.railsUp = false ∧ t.isl.rails.mrstHold = true)) = true ∧
    gives .mrstNRelease (resetting none true) (fun t => decide (t.isl.rails.mrstHold = false)) = true ∧
    gives (.moduleResetWrite 1) on (fun t => decide (t.isl.trust.resetAt = some 50012500)) = true := by
  decide +kernel

theorem test_bring_up :
    gives (.mainRailsRamp slots) ready (fun t => t.isl.rails.ramping) = true ∧
    gives (.mainRailsRamp slots) (islandUp.put 0x600001 2) (fun t => !t.isl.rails.ramping) = true ∧
    gives .mainRailsUp ({ ready with isl := { ready.isl with rails := { ready.isl.rails with ramping := true } } })
      (fun t => decide (t.railsUp = true ∧ t.hub.refSince = some 0 ∧ bit (t.get 0x201001) 2 = true)) = true ∧
    gives .mgmtLinkDown on (fun t => decide (bit (t.get 0x201001) 0 = false)) = true ∧
    gives .mgmtLinkUp islandUp (fun t => decide (bit (t.get 0x201001) 0 = true)) = true := by
  decide +kernel

/-! ## Wear -/

/-- Poise, at the end of the second hour. -/
def worn : State :=
  let s := putAll on [(0x200006, 1), (0x203001, 24 * 45000000000)]
  { s with isl := { s.isl with wear := { Wear.zero with lastMeasure := some 23, secMax := [(3, some 850)], today := [(2, 9)], thermalHours := [4], lastLife := 23 * 45000000000 } } }

theorem witness_wear :
    worn.get 0x200006 = 1 ∧ worn.isl.wear.lastMeasure ≠ some (worn.tick / hourTicks) ∧ (on.put 0x200006 1).get 0x200006 = 1 ∧
    ({ Wear.zero with lastMeasure := some 0 } : Wear).lastMeasure = some (on.tick / hourTicks) ∧ worn.isl.wear.lastStress + 12500000 ≤ worn.tick ∧
    (on.put 0x203001 12499999).tick < on.isl.wear.lastStress + 12500000 ∧ worn.isl.wear.lastDay + 24 * hourTicks ≤ worn.tick ∧
    on.tick < on.isl.wear.lastDay + 24 * hourTicks ∧ worn.isl.trust.up = true ∧ worn.isl.wear.lastLife + hourTicks ≤ worn.tick := by
  decide +kernel

theorem test_wear :
    gives (.ageingMeasure (List.replicate 25 6)) worn (fun t => decide (t.get 0x2F1101 = 6 ∧ t.isl.wear.lastMeasure = some 24)) = true ∧
    gives .stressTick worn (fun t => decide (t.isl.wear.stress.get 3 0 = 2 ^ 32 ∧ t.isl.wear.secMax = [])) = true ∧
    gives .dayRollover worn (fun t => decide (t.get 0x2F3003 = 9 ∧ t.isl.wear.days.get 2 [] = [9] ∧ t.isl.wear.today = [])) = true ∧
    gives .lifeRecompute worn (fun t => decide (t.get 0x2F0001 = 20000 * 168 / 4 ∧ t.get 0x2F0002 = 2)) = true := by
  decide +kernel

end Sys2Proof.Tests
end

section
/-!
PROOFS. A collector slot and the arbiter of the link direction it reserves (R119, R131, R270): what the slot writes, what merging the
waiting adds leaves alone (R262), and the turn of a reserved direction, in which nothing is sent, granted or aged.
-/

namespace Sys2Proof.Machine

/-! ## Operations found, beats counted -/

theorem State.findOp_lt (s : State) (p : OpCtx → Bool) (i : Nat) (h : s.findOp p = some i) : i < s.arr.ops.length :=
  List.mem_range.mp (List.mem_of_find?_eq_some h)

/-- Changing one operation leaves their number, and in the array all but the operations. -/
theorem State.onOp_ops_length (s : State) (i : Nat) (f : OpCtx → OpCtx) :
    (s.onOp i f).arr.ops.length = s.arr.ops.length := by
  unfold State.onOp
  split <;> simp [State.putOps]

/-- Beats of channel A alone count at 7180:01 and nowhere else. -/
theorem State.countBeats_vcA (s : State) (beats links transfers : Nat) (h : beats * links ≠ 0) :
    s.countBeats beats links transfers false = s.bump 0x718001 (beats * links) := by
  simp [State.countBeats, h]

/-! ## The slot taken -/

/-- An operation whose slot due at the die's port is taken: the slot is noted and counted. -/
def OpCtx.takeSlot (op : OpCtx) (die port : Nat) : OpCtx :=
  { op with slotsUsed := op.slotsUsed ++ [(op.slotNow die port).getD 0],
            counts := { op.counts with collSlots := op.counts.collSlots + 1 } }

/-- The state with a die's link direction reserved for the four cycles from now. -/
def State.reserve (s : State) (die port : Nat) : State :=
  { s with net := { s.net with reserved := s.net.reserved.set (die * 4 + port) (s.cycle + 4) 0 } }

/-- The state in which operation `i` has taken the slot due at the die's port. -/
def State.takeSlot (s : State) (die port i : Nat) : State :=
  (((s.reserve die port).bump 0x713004 1).countBeats slotBeats 1 0 false).onOp i fun op => op.takeSlot die port

/-- COLLECTOR_SLOT, where a slot is due and the die is not held, takes the slot. -/
theorem execCollectorSlot_of_due (s : State) (die i : Nat) (dir : Dir)
    (hdue : s.findOp (fun op => (op.slotNow die (dirPort dir)).isSome) = some i) (hheld : s.held die = false) :
    execCollectorSlot die dir s = .next (s.takeSlot die (dirPort dir) i) := by
  simp only [execCollectorSlot, hdue, hheld]
  rfl

@[simp] theorem State.reserve_get (s : State) (die port n : Nat) : (s.reserve die port).get n = s.get n := rfl

@[simp] theorem State.takeSlot_net (s : State) (die port i : Nat) : (s.takeSlot die port i).net = (s.reserve die port).net := by
  simp [State.takeSlot]

theorem State.takeSlot_ops_length (s : State) (die port i : Nat) :
    (s.takeSlot die port i).arr.ops.length = s.arr.ops.length := by
  simp [State.takeSlot, State.onOp_ops_length, State.reserve]

theorem State.takeSlot_op_self (s : State) (die port i : Nat) (h : i < s.arr.ops.length) :
    (s.takeSlot die port i).op i = (s.op i).takeSlot die port := by
  rw [State.takeSlot, State.op_onOp_self _ _ _ (by simpa [State.reserve] using h)]
  simp [State.op, State.reserve]

theorem State.takeSlot_op_of_ne (s : State) (die port i j : Nat) (h : j ≠ i) : (s.takeSlot die port i).op j = s.op j := by
  rw [State.takeSlot, State.op_onOp_of_ne _ _ _ _ h]
  simp [State.op, State.reserve]

/-- The objects a slot moves: itself at 7130:04 and its beats at 7180:01. -/
theorem State.takeSlot_get (s : State) (die port i n : Nat) :
    (s.takeSlot die port i).get n =
      if n = 0x718001 then (s.get n + 16) % 2 ^ 64 else if n = 0x713004 then (s.get n + 1) % 2 ^ 64 else s.get n := by
  rw [State.takeSlot, State.countBeats_vcA _ _ _ _ (by decide)]
  by_cases h1 : n = 0x718001
  · simp [h1, slotBeats]
  · by_cases h2 : n = 0x713004 <;> simp [h1, h2]

theorem State.takeSlot_onlyParts (s : State) (die port i : Nat) :
    OnlyParts [.objects, .array, .network] s (s.takeSlot die port i) := by
  intro p hp
  cases p <;> simp_all [Part.Same, State.takeSlot, State.reserve]

/-! ## Arbiters read after a write -/

@[simp] theorem State.arbiter_putArbiter_self (s : State) (a : Arbiter) : (s.putArbiter a).arbiter a.id = a := by
  have hnone : (s.net.arbiters.filter fun x => x.id ≠ a.id).find? (fun x => decide (x.id = a.id)) = none := by
    simp [List.find?_eq_none]
  simp only [State.arbiter, State.putArbiter, List.find?_append, hnone]
  simp

theorem State.arbiter_putArbiter_of_ne (s : State) (a : Arbiter) (j : ArbId) (h : j ≠ a.id) :
    (s.putArbiter a).arbiter j = s.arbiter j := by
  have hskip : ∀ x : Arbiter, (!decide (x.id = a.id) && decide (x.id = j)) = decide (x.id = j) := by
    intro x
    by_cases hx : x.id = j <;> simp [hx, h]
  simp [State.arbiter, State.putArbiter, List.find?_filter, hskip, h.symm]

/-! ## Adds merged at a switch -/

/-- The network but for its input buffers. -/
def NetState.unbuffered (n : NetState) : NetState := { n with bufs := [] }

theorem State.mergeTo_unbuffered (s : State) (k : Nat) (adds : List (Nat × U64)) :
    (s.mergeTo k adds).net.unbuffered = s.net.unbuffered := by
  unfold State.mergeTo
  split
  · next a b rest =>
    exact foldl_frame (fun u : State => u.net.unbuffered)
      (fun u (x : Nat × U64) => u.putBuf x.1 ((u.buf x.1).drop 1)) (fun _ _ => rfl) (b :: rest) s
  · rfl

/-- Merging touches the input buffers and nothing else of the network (R262). -/
theorem State.mergeAdds_unbuffered (s : State) (die port : Nat) : (s.mergeAdds die port).net.unbuffered = s.net.unbuffered :=
  foldl_frame (fun u : State => u.net.unbuffered) _ (fun u _ => u.mergeTo_unbuffered _ _) _ s

@[simp] theorem State.mergeAdds_flying (s : State) (die port : Nat) : (s.mergeAdds die port).net.flying = s.net.flying :=
  (congrArg NetState.flying (s.mergeAdds_unbuffered die port) :)

@[simp] theorem State.mergeAdds_reserved (s : State) (die port : Nat) : (s.mergeAdds die port).net.reserved = s.net.reserved :=
  (congrArg NetState.reserved (s.mergeAdds_unbuffered die port) :)

@[simp] theorem State.mergeAdds_arbiter (s : State) (die port : Nat) (id : ArbId) :
    (s.mergeAdds die port).arbiter id = s.arbiter id := by
  have h : (s.mergeAdds die port).net.arbiters = s.net.arbiters := (congrArg NetState.arbiters (s.mergeAdds_unbuffered die port) :)
  simp [State.arbiter, h]

@[simp] theorem State.mergeAdds_slotNow (s : State) (die port : Nat) (id : ArbId) :
    (s.mergeAdds die port).slotNow id = s.slotNow id := by
  cases id <;> simp [State.slotNow]

/-! ## Requests that do not age -/

/-- A request at an arbiter is as old as before: it is new, or it is one that waited, with its stamp, its age and its rounds. -/
def State.AgeKept (s : State) (id : ArbId) (w : Waiter) : Prop :=
  (w.age = 0 ∧ w.rounds = 0) ∨
    ∃ v ∈ (s.arbiter id).waiters,
      v.port = w.port ∧ v.key = w.key ∧ v.xfer = w.xfer ∧ v.stamp = w.stamp ∧ v.age = w.age ∧ v.rounds = w.rounds

theorem State.asWaiter_ageKept (s : State) (id : ArbId) (port key xfer : Nat) (src : PrioSource) :
    s.AgeKept id (s.asWaiter id port key xfer src) := by
  unfold State.asWaiter
  split
  · next v hv => exact .inr ⟨v, List.mem_of_find?_eq_some hv, rfl, rfl, rfl, rfl, rfl, rfl⟩
  · exact .inl ⟨rfl, rfl⟩

/-- Presenting the contenders of a link direction ages none of them: only a lost round does (R264). -/
theorem State.linkField_ageKept (s : State) (die : Nat) (dir : Dir) (w : Waiter) (h : w ∈ s.linkField (.weltLink die dir)) :
    s.AgeKept (.weltLink die dir) w := by
  simp only [State.linkField] at h
  split at h
  · cases h
  · split at h
    · cases h
    · obtain ⟨x, -, hx⟩ := List.mem_filterMap.mp h
      split at hx
      · cases hx
      · cases hx
        exact s.asWaiter_ageKept _ _ _ _ _

/-! ## The turn of a reserved direction -/

/-- The state in which an arbiter has had its turn of this cycle with its holder as it was and the requests `l` waiting. -/
def State.pauseArbiter (s : State) (id : ArbId) (l : List Waiter) : State :=
  s.putArbiter { id := id, waiters := l, holder := (s.arbiter id).holder, round := s.cycle + 1 }

@[simp] theorem State.arbiter_pauseArbiter_self (s : State) (id : ArbId) (l : List Waiter) :
    (s.pauseArbiter id l).arbiter id = { id := id, waiters := l, holder := (s.arbiter id).holder, round := s.cycle + 1 } :=
  s.arbiter_putArbiter_self { id := id, waiters := l, holder := (s.arbiter id).holder, round := s.cycle + 1 }

theorem State.arbiter_pauseArbiter_of_ne (s : State) (id j : ArbId) (l : List Waiter) (h : j ≠ id) :
    (s.pauseArbiter id l).arbiter j = s.arbiter j := s.arbiter_putArbiter_of_ne _ j h

/-- In a reserved cycle the holder pauses and the other contenders wait (R270). -/
theorem State.linkCycle_of_slotNow (s : State) (id : ArbId) (h : s.slotNow id = true) :
    ∃ l, (∀ w ∈ l, w ∈ s.linkField id) ∧ s.linkCycle id = s.pauseArbiter id l := by
  cases hh : (s.arbiter id).holder with
  | none => exact ⟨s.linkField id, fun _ hw => hw, by simp [State.linkCycle, State.pauseArbiter, hh, h]⟩
  | some x =>
    refine ⟨(s.linkField id).filter fun y => !(y.key = x.w.key && y.xfer = x.w.xfer), fun _ hw => (List.mem_filter.mp hw).1, ?_⟩
    simp [State.linkCycle, State.pauseArbiter, hh, h]

/-- The turn of a reserved welt link direction: adds merge, the holder pauses, and the requests present wait unaged (R262, R270). -/
theorem execArbiterGrant_of_slotNow (s : State) (die : Nat) (dir : Dir) (arrivals : List ArbReq) (hrails : s.railsUp = true)
    (hfence : s.fenced die = false) (hslot : s.slotNow (.weltLink die dir) = true)
    (hturn : (s.arbiter (.weltLink die dir)).round ≠ s.cycle + 1) :
    ∃ l, (∀ w ∈ l, s.AgeKept (.weltLink die dir) w) ∧
      execArbiterGrant (.weltLink die dir) arrivals s =
        .next ((s.mergeAdds die (dirNumber dir)).pauseArbiter (.weltLink die dir) l) := by
  obtain ⟨l, hl, hcycle⟩ := (s.mergeAdds die (dirNumber dir)).linkCycle_of_slotNow (.weltLink die dir) (by simpa using hslot)
  refine ⟨l, fun w hw => ?_, ?_⟩
  · simpa [State.AgeKept] using (s.mergeAdds die (dirNumber dir)).linkField_ageKept die dir w (hl w hw)
  · simp [execArbiterGrant, State.linkTurn, hrails, hfence, hturn, hcycle]

theorem State.pauseArbiter_mergeAdds_onlyParts (s : State) (die port : Nat) (id : ArbId) (l : List Waiter) :
    OnlyParts [.objects, .network] s ((s.mergeAdds die port).pauseArbiter id l) := by
  intro p hp
  cases p <;> simp_all [Part.Same, State.pauseArbiter]

theorem State.pauseArbiter_mergeAdds_onlyObjects (s : State) (die port : Nat) (id : ArbId) (l : List Waiter) :
    OnlyObjects [0x718007] s ((s.mergeAdds die port).pauseArbiter id l) := by
  intro n hn
  simp only [List.mem_singleton] at hn
  simp [State.pauseArbiter, hn]

/-! ## The statement -/

/-- Settles O13: the slot's effect field by field, and the turn of the reserved direction as a pause of its arbiter. -/
theorem collectorSlotTakesItsLink : Obligations.CollectorSlotTakesItsLink := by
  refine ⟨fun s die i k dir hdue hk hheld => ?_, fun s die dir arrivals hrails hfence hslot hturn => ?_⟩
  · have hop := s.takeSlot_op_self die (dirPort dir) i (s.findOp_lt _ i hdue)
    refine ⟨_, execCollectorSlot_of_due s die i dir hdue hheld, ?_, fun j hj => ?reservedElsewhere, ?_, ?_, ?_, ?_, ?_, ?_, ?_, ?_,
      ⟨s.takeSlot_ops_length .., fun j hj => s.takeSlot_op_of_ne _ _ _ _ hj⟩, s.takeSlot_onlyParts _ _ _, fun n hn => ?otherObjects⟩
    case reservedElsewhere => simp [State.reserve, SMap.get_set_of_ne _ _ _ _ _ _ hj]
    case otherObjects =>
      simp only [List.mem_cons, List.not_mem_nil, or_false, not_or] at hn
      simp [State.takeSlot_get, hn]
    all_goals simp [State.reserve, hop, OpCtx.takeSlot, hk, CountedBy, State.takeSlot_get]
  · obtain ⟨l, hl, hexec⟩ := execArbiterGrant_of_slotNow s die dir arrivals hrails hfence hslot hturn
    refine ⟨_, hexec, ?holder, ?waiters, fun j hj => ?otherArbiters, ?_, ?_, ?_, s.pauseArbiter_mergeAdds_onlyParts _ _ _ l,
      s.pauseArbiter_mergeAdds_onlyObjects _ _ _ l⟩
    case holder => simp
    case waiters =>
      rw [State.arbiter_pauseArbiter_self]
      exact hl
    case otherArbiters => simp [State.arbiter_pauseArbiter_of_ne _ _ _ _ hj]
    all_goals simp [State.pauseArbiter, State.putArbiter]

end Sys2Proof.Machine
end

section
/-!
PROOFS. The watchdog (R319). An event record leaves all of the hub but its rings, vectors, synchronization objects and the wake
request untouched, so a watchdog that has expired stays unsatisfied whatever its record does; the warning at half the period is a raise of
vector 3 at a module awake.
-/

namespace Sys2Proof.Machine

/-- Two steps one after the other change no part but those of the second, where these hold those of the first. -/
theorem onlyParts_trans {l m : List Part} {s t u : State} (hst : OnlyParts l s t) (htu : OnlyParts m t u) (hlm : l ⊆ m) :
    OnlyParts m s u := by
  intro p hp
  have h1 := hst p fun h => hp (hlm h)
  have h2 := htu p hp
  cases p <;> exact h2.trans h1

/-! ## What a record leaves of the hub -/

/-- The hub with everything set aside that a record put on the event ring, and the signals that follow it, can move: rings and the
records held for them, synchronization objects, vectors and the endpoint's wake request (R235, R240, R317, R433). -/
def HubState.sansRecords (h : HubState) : HubState :=
  { h with rings := [], sync := [], added := [], vectors := [], held := [], ep := { h.ep with wakeN := false, pmPme := false } }

/-- A change of what records move does not show in the rest. -/
@[simp] theorem HubState.sansRecords_with (h : HubState) (rings : SMap Ring) (sync : SMap U64) (added : SMap (Nat × U64))
    (vectors : SMap Vector) (held : List HeldRecord) :
    { h with rings := rings, sync := sync, added := added, vectors := vectors, held := held }.sansRecords = h.sansRecords := rfl

@[simp] theorem State.wakeHost_sansRecords (s : State) (e : Vector) : (s.wakeHost e).hub.sansRecords = s.hub.sansRecords := by
  unfold State.wakeHost
  split <;> rfl

@[simp] theorem State.raiseVector_sansRecords (s : State) (v : Nat) : (s.raiseVector v).hub.sansRecords = s.hub.sansRecords := by
  unfold State.raiseVector
  split
  · rfl
  · split
    · simp
    · dsimp only
      split <;> simp

@[simp] theorem State.syncSignal_sansRecords (s : State) (fld : Nat) : (s.syncSignal fld).hub.sansRecords = s.hub.sansRecords := by
  unfold State.syncSignal State.syncAdd
  split
  · split
    · simp
    · rfl
  · rfl

@[simp] theorem State.ringAdvance_sansRecords (s : State) (n : Nat) : (s.ringAdvance n).hub.sansRecords = s.hub.sansRecords := by
  unfold State.ringAdvance
  dsimp only
  split <;> simp

@[simp] theorem State.ringStore_sansRecords (s : State) (n : Nat) (entry : List Byte) :
    (s.ringStore n entry).hub.sansRecords = s.hub.sansRecords := by
  simp [State.ringStore]

@[simp] theorem State.ringDrop_sansRecords (s : State) (n : Nat) : (s.ringDrop n).hub.sansRecords = s.hub.sansRecords := by
  simp [State.ringDrop]

@[simp] theorem State.logWrite_hub (s : State) (evt : List Byte) : (s.logWrite evt).hub = s.hub := by
  simp [State.logWrite]

@[simp] theorem State.eventPut_sansRecords (s : State) (evt : List Byte) : (s.eventPut evt).hub.sansRecords = s.hub.sansRecords := by
  simp [State.eventPut, apply_ite HubState.sansRecords]

@[simp] theorem State.eventEmit_sansRecords (s : State) (cls code unit sub merged tick : Nat) (data : List Byte) :
    (s.eventEmit cls code unit sub merged tick data).hub.sansRecords = s.hub.sansRecords := by
  unfold State.eventEmit
  dsimp only
  split <;> simp

@[simp] theorem State.recordWrite_sansRecords (s : State) (n : Nat) (h : RecordHead) (c : Counts) (sync : Nat) :
    (s.recordWrite n h c sync).hub.sansRecords = s.hub.sansRecords := by
  unfold State.recordWrite
  dsimp only
  split <;> simp

@[simp] theorem State.flushHeldFuel_sansRecords (k : Nat) (s : State) (n : Nat) :
    (State.flushHeldFuel k s n).hub.sansRecords = s.hub.sansRecords := by
  induction k generalizing s with
  | zero => rfl
  | succ k ih =>
    unfold State.flushHeldFuel
    split
    case h_1 => split <;> simp
    case h_2 =>
      split
      · rfl
      · dsimp only
        simp [ih]

@[simp] theorem State.ringReset_sansRecords (s : State) (n : Nat) : (s.ringReset n).hub.sansRecords = s.hub.sansRecords := by
  unfold State.ringReset State.flushHeld
  dsimp only
  split <;> simp

/-- An event record, written or merged, leaves the rest of the hub as it was (R414, R415). -/
@[simp] theorem State.event_sansRecords (s : State) (cls code unit sub : Nat) (data : List Byte) :
    (s.event cls code unit sub data).hub.sansRecords = s.hub.sansRecords := by
  unfold State.event
  split
  · dsimp only
    split <;> simp
  · split <;> simp

/-- A record neither satisfies the watchdog nor lets it expire. -/
@[simp] theorem State.event_wdtExpired (s : State) (cls code unit sub : Nat) (data : List Byte) :
    (s.event cls code unit sub data).hub.wdtExpired = s.hub.wdtExpired :=
  (congrArg HubState.wdtExpired (s.event_sansRecords cls code unit sub data) :)

/-- No vector raised takes the notice of half the period back. -/
@[simp] theorem State.raiseVector_wdtHalf (s : State) (v : Nat) : (s.raiseVector v).hub.wdtHalf = s.hub.wdtHalf :=
  (congrArg HubState.wdtHalf (s.raiseVector_sansRecords v) :)

/-! ## A vector raised at a module awake -/

@[simp] theorem State.wakeHost_vector (s : State) (e : Vector) (v : Nat) : (s.wakeHost e).vector v = s.vector v := by
  unfold State.wakeHost
  split <;> rfl

@[simp] theorem State.bump_vector (s : State) (n k v : Nat) : (s.bump n k).vector v = s.vector v := by
  simp [State.vector]

/-- A raise at a module awake: merged and counted where PEND is set, else PEND is set (R317, R318). -/
theorem State.raiseVector_of_awake (s : State) (v : Nat) (hv : v < 5 ∨ 15 < v) (hs : Awake s) :
    s.raiseVector v =
      if (s.vector v).pend then (s.wakeHost (s.vector v)).bump 0x71A006 1
      else (s.wakeHost (s.vector v)).putVector v { s.vector v with pend := true } := by
  obtain ⟨hrails, hawake⟩ := hs
  have hfree : ¬(5 ≤ v ∧ v ≤ 15) := by omega
  simp [State.raiseVector, hrails, hawake, hfree]

theorem State.raiseVector_pend (s : State) (v : Nat) (hv : v < 5 ∨ 15 < v) (hs : Awake s) :
    ((s.raiseVector v).vector v).pend = true := by
  rw [s.raiseVector_of_awake v hv hs]
  split
  · next hpend => simpa using hpend
  · simp

theorem State.raiseVector_onlyParts (s : State) (v : Nat) (hv : v < 5 ∨ 15 < v) (hs : Awake s) :
    OnlyParts [.objects, .hub] s (s.raiseVector v) := by
  rw [s.raiseVector_of_awake v hv hs]
  intro p hp
  cases p <;> simp_all [Part.Same]

theorem State.raiseVector_onlyObjects (s : State) (v : Nat) (hv : v < 5 ∨ 15 < v) (hs : Awake s) :
    OnlyObjects [0x71A006] s (s.raiseVector v) := by
  intro n hn
  simp only [List.mem_singleton] at hn
  rw [s.raiseVector_of_awake v hv hs]
  split <;> simp [hn]

/-! ## The watchdog's commands -/

/-- The state in which half the period is noted. -/
def State.noteHalf (s : State) : State := { s with hub := { s.hub with wdtHalf := true } }

/-- The state in which the watchdog is unsatisfied, before its record is written. -/
def State.unsatisfy (s : State) : State := ({ s with hub := { s.hub with wdtExpired := true } }).bump 0x71A009 1

theorem State.noteHalf_onlyHub (s : State) : OnlyParts [.hub] s s.noteHalf := by
  intro p hp
  cases p <;> simp_all [Part.Same, State.noteHalf]

theorem State.kick_hub (s : State) :
    s.kick.hub = { s.hub with wdtStart := s.tick, wdtHalf := false, wdtExpired := false } := rfl

theorem State.kick_onlyHub (s : State) : OnlyParts [.hub] s s.kick := by
  intro p hp
  cases p <;> simp_all [Part.Same]

theorem State.unsatisfy_event_onlyParts (s : State) (cls code unit sub : Nat) (data : List Byte) :
    OnlyParts [.objects, .memory, .hub, .fabric, .island] s (s.unsatisfy.event cls code unit sub data) := by
  intro p hp
  cases p <;> simp_all [Part.Same, State.unsatisfy]

theorem State.unsatisfy_event_wdtExpired (s : State) (cls code unit sub : Nat) (data : List Byte) :
    (s.unsatisfy.event cls code unit sub data).hub.wdtExpired = true := by
  simp [State.unsatisfy]

/-- The record of the expiry moves what records move, and the expiry its own counter. -/
theorem State.unsatisfy_event_get (s : State) (cls code unit sub : Nat) (data : List Byte) (n : Nat) (hs : sideObject n = false) :
    (s.unsatisfy.event cls code unit sub data).get n = if n = 0x71A009 then (s.get n + 1) % 2 ^ 64 else s.get n := by
  rw [State.event_get _ _ _ _ _ _ _ hs]
  by_cases h : n = 0x71A009 <;> simp [State.unsatisfy, h]

theorem execWdtKick_of_serves (v : U32) (s : State) (hs : Serves s) : execWdtKick v s = .next s.kick := by
  obtain ⟨hup, hserves⟩ := hs
  simp [execWdtKick, State.objectWritten, hup, hserves]

/-- A watchdog kicked does not stop the heartbeats (R302, R319). -/
theorem State.kick_beats (s : State) (hpaired : s.paired = true) (hrails : s.railsUp = true) (hlost : s.hub.lost = false)
    (hvin : s.isl.power.vinWarn = false) (htrip : s.isl.rails.trip = none) : s.kick.beats = true := by
  have hpaired' : s.kick.paired = true := hpaired
  have hrails' : s.kick.railsUp = true := hrails
  simp [State.beats, State.kick_hub, hpaired', hrails', hlost, hvin, htrip]

/-- An unsatisfied watchdog with a period stops the heartbeats (R302, R319). -/
theorem State.beats_of_wdtExpired (s : State) (hexp : s.hub.wdtExpired = true) (hp : s.get 0x208001 ≠ 0) : s.beats = false := by
  simp [State.beats, hexp, hp]

theorem execWdtHalfPeriod_of_due (s : State) (hrails : s.railsUp = true) (hp : s.get 0x208001 ≠ 0) (hhalf : s.hub.wdtHalf = false)
    (hdue : s.get 0x208001 ≤ 2 * (s.tick - s.hub.wdtStart)) : execWdtHalfPeriod s = .next (s.noteHalf.raiseVector 3) := by
  have hnot : ¬2 * (s.tick - s.hub.wdtStart) < s.get 0x208001 := by omega
  simp [execWdtHalfPeriod, hrails, hp, hhalf, hnot, State.noteHalf]

theorem execWdtHalfPeriod_of_not_due (s : State)
    (h : s.get 0x208001 = 0 ∨ s.hub.wdtHalf = true ∨ 2 * (s.tick - s.hub.wdtStart) < s.get 0x208001) :
    execWdtHalfPeriod s = .next s :=
  if_pos (.inr h)

theorem execWdtExpire_of_due (s : State) (hrails : s.railsUp = true) (hp : s.get 0x208001 ≠ 0) (hexp : s.hub.wdtExpired = false)
    (hdue : s.hub.wdtStart + s.get 0x208001 ≤ s.tick) :
    execWdtExpire s = .next (s.unsatisfy.event 12 1 25 0 (leBytes 4 (s.get 0x208001))) := by
  have hnot : ¬s.tick < s.hub.wdtStart + s.get 0x208001 := by omega
  simp [execWdtExpire, hrails, hp, hexp, hnot, State.unsatisfy]

theorem execWdtExpire_of_not_due (s : State)
    (h : s.get 0x208001 = 0 ∨ s.hub.wdtExpired = true ∨ s.tick < s.hub.wdtStart + s.get 0x208001) :
    execWdtExpire s = .next s :=
  if_pos (.inr h)

/-! ## The statement -/

/-- Settles O44: each row by its equation, the raise of vector 3 by `raiseVector_of_awake`, and the record of the expiry by what it
leaves of the hub and of the objects. -/
theorem watchdogWarnsAtHalfAndExpires : Obligations.WatchdogWarnsAtHalfAndExpires := by
  rintro s p rfl
  refine ⟨fun v hs => ?kick, fun hs hp hhalf hdue => ?half, execWdtHalfPeriod_of_not_due s,
    fun hrails hp hexp hdue => ?expire, execWdtExpire_of_not_due s⟩
  case kick => exact ⟨s.kick, execWdtKick_of_serves v s hs, s.kick_hub, s.kick_onlyHub, s.kick_beats⟩
  case half =>
    have hawake : Awake s.noteHalf := hs
    obtain ⟨hrails, -⟩ := hs
    exact ⟨_, execWdtHalfPeriod_of_due s hrails hp hhalf hdue, State.raiseVector_wdtHalf ..,
      s.noteHalf.raiseVector_pend 3 (by decide) hawake,
      onlyParts_trans s.noteHalf_onlyHub (s.noteHalf.raiseVector_onlyParts 3 (by decide) hawake) (by simp),
      s.noteHalf.raiseVector_onlyObjects 3 (by decide) hawake⟩
  case expire =>
    have hexec := execWdtExpire_of_due s hrails hp hexp hdue
    refine ⟨hexec, _, hexec, s.unsatisfy_event_wdtExpired .., State.beats_of_wdtExpired _ (s.unsatisfy_event_wdtExpired ..) ?period,
      ?counted, State.unsatisfy_event_onlyParts _ _ _ _ _ _, fun n hn hside => ?others⟩
    case period => simpa [s.unsatisfy_event_get _ _ _ _ _ 0x208001 (by decide)] using hp
    case counted => simp [CountedBy, s.unsatisfy_event_get _ _ _ _ _ 0x71A009 (by decide)]
    case others =>
      simp only [List.mem_singleton] at hn
      simp [s.unsatisfy_event_get _ _ _ _ _ n hside, hn]

end Sys2Proof.Machine
end

section
/-!
PROOFS. The comparison with the cap (R385): what a comparison leaves in each case, and the clock step that a request puts in force where
no operation is in the array (R375).
-/

namespace Sys2Proof.Machine

/-! ## The clock step requested -/

/-- With no operation in the array a request brings the clock step into force at once (R175, R375). -/
theorem State.requestClock_get_step (s : State) (hidle : s.arr.ops = []) : s.requestClock.get 0x200009 = s.clockStep % 2 ^ 64 := by
  by_cases hsame : s.clockStep = s.get 0x200009
  · have hlt : s.get 0x200009 < 2 ^ 64 := BitVec.isLt _
    simp only [State.requestClock, State.applyClock, hidle, hsame, if_true]
    exact (Nat.mod_eq_of_lt hlt).symm
  · simp [State.requestClock, State.applyClock, hidle, hsame]

theorem State.requestClock_stepFollows {s u : State} (hops : u.arr.ops = s.arr.ops) : StepFollows s u.requestClock := by
  intro hidle
  rw [u.requestClock_get_step (hops.trans hidle)]
  simp [State.clockStep]

/-! ## The comparison made -/

/-- The state in which the comparison has been made at this tick and the cap step is `k`. -/
def State.capCompared (s : State) (k : Nat) : State := s.putPower { s.isl.power with capStep := k, lastCap := s.tick }

/-- The state in which the comparison has raised the cap step. -/
def State.capRaised (s : State) : State := ((s.capCompared (s.isl.power.capStep + 1)).bump 0x711005 1).requestClock

/-- The state in which the comparison has lowered the cap step. -/
def State.capLowered (s : State) : State := (s.capCompared (s.isl.power.capStep - 1)).requestClock

/-- The state that a comparison leaves: above the cap, below 95 % of it with no throttle in force, or neither (R385). -/
def State.capAdjusted (s : State) : State :=
  if s.cap < s.get 0x200008 ∧ s.isl.power.capStep < 7 then s.capRaised
  else if 100 * s.get 0x200008 < 95 * s.cap ∧ s.isl.power.throttled = false then s.capLowered
  else s.capCompared s.isl.power.capStep

theorem execCapStepAdjust_of_due (s : State) (hrails : s.railsUp = true) (hdue : s.isl.power.lastCap + 125000 ≤ s.tick) :
    execCapStepAdjust s = .next s.capAdjusted := by
  have hnot : ¬(s.railsUp = false ∨ s.tick < s.isl.power.lastCap + 125000) := by
    simp only [hrails, Bool.true_eq_false, false_or]
    omega
  unfold execCapStepAdjust State.capAdjusted
  simp only [Bool.not_eq_true', if_neg hnot]
  split
  · rfl
  · split <;> rfl

theorem execCapStepAdjust_of_not_due (s : State) (h : s.tick < s.isl.power.lastCap + 125000) : execCapStepAdjust s = .next s :=
  if_pos (.inr h)

theorem State.capAdjusted_of_above (s : State) (habove : s.cap < s.get 0x200008) (hstep : s.isl.power.capStep < 7) :
    s.capAdjusted = s.capRaised :=
  if_pos ⟨habove, hstep⟩

theorem State.capAdjusted_of_below (s : State) (hbelow : 100 * s.get 0x200008 < 95 * s.cap) (hfree : s.isl.power.throttled = false) :
    s.capAdjusted = s.capLowered := by
  have hnot : ¬s.cap < s.get 0x200008 := by omega
  simp [State.capAdjusted, hnot, hbelow, hfree]

theorem State.capAdjusted_of_neither (s : State) (habove : s.get 0x200008 ≤ s.cap ∨ 7 ≤ s.isl.power.capStep)
    (hbelow : 95 * s.cap ≤ 100 * s.get 0x200008 ∨ s.isl.power.throttled = true) :
    s.capAdjusted = s.capCompared s.isl.power.capStep := by
  have hraise : ¬(s.cap < s.get 0x200008 ∧ s.isl.power.capStep < 7) := by omega
  have hlower : ¬(100 * s.get 0x200008 < 95 * s.cap ∧ s.isl.power.throttled = false) := by
    rintro ⟨hlt, hfree⟩
    simp [hfree] at hbelow
    omega
  rw [State.capAdjusted, if_neg hraise, if_neg hlower]

/-! ## What a comparison leaves of the state -/

theorem State.capRaised_power (s : State) :
    s.capRaised.isl.power = { s.isl.power with capStep := s.isl.power.capStep + 1, lastCap := s.tick } := by
  simp [State.capRaised, State.capCompared]

theorem State.capLowered_power (s : State) :
    s.capLowered.isl.power = { s.isl.power with capStep := s.isl.power.capStep - 1, lastCap := s.tick } := by
  simp [State.capLowered, State.capCompared]

theorem State.capRaised_stepFollows (s : State) : StepFollows s s.capRaised :=
  State.requestClock_stepFollows (by simp [State.capCompared])

theorem State.capLowered_stepFollows (s : State) : StepFollows s s.capLowered :=
  State.requestClock_stepFollows (by simp [State.capCompared])

/-- A raise counts once at 7110:05. -/
theorem State.capRaised_counted (s : State) : CountedBy 0x711005 1 s s.capRaised := by
  simp [CountedBy, State.capRaised, State.capCompared]

/-- Nothing but a raise is counted at 7110:05. -/
theorem State.capAdjusted_uncounted (s : State) (h : s.get 0x200008 ≤ s.cap ∨ s.isl.power.capStep = 7) :
    s.capAdjusted.get 0x711005 = s.get 0x711005 := by
  have hraise : ¬(s.cap < s.get 0x200008 ∧ s.isl.power.capStep < 7) := by omega
  rw [State.capAdjusted, if_neg hraise]
  split <;> simp [State.capLowered, State.capCompared]

theorem State.capAdjusted_lastCap (s : State) : s.capAdjusted.isl.power.lastCap = s.tick := by
  unfold State.capAdjusted
  split
  · simp [s.capRaised_power]
  · split
    · simp [s.capLowered_power]
    · rfl

theorem State.capAdjusted_onlyParts (s : State) : OnlyParts [.objects, .array, .island] s s.capAdjusted := by
  intro p hp
  unfold State.capAdjusted State.capRaised State.capLowered State.capCompared
  split
  · cases p <;> simp_all [Part.Same]
  · split <;> cases p <;> simp_all [Part.Same]

theorem State.capAdjusted_onlyObjects (s : State) : OnlyObjects [0x711005, 0x200009, 0x20000A] s s.capAdjusted := by
  intro n hn
  obtain ⟨hcount, hstep, hclock⟩ : n ≠ 0x711005 ∧ n ≠ 0x200009 ∧ n ≠ 0x20000A := by simpa using hn
  unfold State.capAdjusted State.capRaised State.capLowered State.capCompared
  split
  · simp [hcount, hstep, hclock]
  · split <;> simp [hstep, hclock]

/-! ## The statement -/

/-- Settles O55: a comparison that is due leaves `capAdjusted`, and each clause reads the case of it that its hypotheses name. -/
theorem capStepFollowsTheAverage : Obligations.CapStepFollowsTheAverage := by
  rintro s p avg c rfl rfl hrails hc
  replace hc : c = s.cap := hc
  subst hc
  refine ⟨fun hdue => ⟨s.capAdjusted, execCapStepAdjust_of_due s hrails hdue, s.capAdjusted_lastCap, fun habove hstep => ?raised,
    fun _ hstep => ?atSeven, fun hbelow hfree => ?lowered, fun hbelow hthrottled => ?throttled, fun hle hge => ?between,
    s.capAdjusted_uncounted, s.capAdjusted_onlyParts, s.capAdjusted_onlyObjects⟩, execCapStepAdjust_of_not_due s⟩
  case raised =>
    rw [s.capAdjusted_of_above habove hstep]
    exact ⟨by rw [s.capRaised_power], s.capRaised_counted, s.capRaised_stepFollows⟩
  case atSeven =>
    rw [s.capAdjusted_of_neither (.inr hstep.ge) (.inl (by omega))]
    exact hstep
  case lowered =>
    rw [s.capAdjusted_of_below hbelow hfree]
    exact ⟨by rw [s.capLowered_power], s.capLowered_stepFollows⟩
  case throttled =>
    rw [s.capAdjusted_of_neither (.inl (by omega)) (.inr hthrottled)]
    rfl
  case between =>
    rw [s.capAdjusted_of_neither (.inl hle) (.inl hge)]
    rfl

end Sys2Proof.Machine
end

section
/-!
PROOFS. The sideband (R435 to R437): what each of its commands stores in the island, and that it stores nothing elsewhere.
-/

namespace Sys2Proof.Machine

/-! ## The sideband stored -/

theorem State.putSide_isl (s : State) (x : Sideband) : (s.putSide x).isl = { s.isl with side := x } := rfl

theorem State.putSide_onlyIsland (s : State) (x : Sideband) : OnlyParts [.island] s (s.putSide x) := by
  intro p hp
  cases p <;> simp_all [Part.Same]

/-- A command that stores a sideband answers with that sideband in the island and every other part as it was. -/
theorem answers_of_exec_putSide {c : Instr} {s : State} {x : Sideband} (h : exec c s = .next (s.putSide x)) :
    Answers c s fun t => t.isl = { s.isl with side := x } ∧ OnlyParts [.island] s t :=
  ⟨s.putSide x, h, s.putSide_isl x, s.putSide_onlyIsland x⟩

/-! ## The map refreshed -/

/-- The sideband with the map `m` taken: a change of STATUS raises an in-band interrupt where the target has an address and
interrupts are enabled, and one that is pending stays (R436, R437). -/
def Sideband.refreshed (x : Sideband) (m : List Byte) : Sideband :=
  { x with map := m, ibiPending := x.ibiPending || (decide (m.getD 3 0 ≠ x.map.getD 3 0) && x.dynAddr.isSome && x.ibiEnabled) }

theorem execSidebandRefresh_of_up (s : State) (hup : s.isl.trust.up = true) :
    execSidebandRefresh s = .next (s.putSide (s.isl.side.refreshed s.sideMap)) := by
  simp [execSidebandRefresh, hup, Sideband.refreshed, Sideband.status]

/-! ## The address taken -/

theorem State.takeAddress_of_none (s : State) (addr : Nat) (hup : s.isl.trust.up = true) (hfree : s.isl.side.dynAddr = none) :
    s.takeAddress addr = s.putSide { s.isl.side with dynAddr := some addr } := by
  simp [State.takeAddress, hup, hfree]

theorem State.takeAddress_of_held (s : State) (addr : Nat) (hheld : s.isl.side.dynAddr ≠ none) : s.takeAddress addr = s :=
  if_pos (.inr (Option.isSome_iff_ne_none.mpr hheld))

theorem execSetdasa_of_none (s : State) (addr : Nat) (hup : s.isl.trust.up = true) (hfree : s.isl.side.dynAddr = none) :
    execSetdasa addr s = .next (s.putSide { s.isl.side with dynAddr := some addr }) := by
  rw [execSetdasa, s.takeAddress_of_none addr hup hfree]

theorem execSetdasa_of_held (s : State) (addr : Nat) (hheld : s.isl.side.dynAddr ≠ none) : execSetdasa addr s = .next s := by
  rw [execSetdasa, s.takeAddress_of_held addr hheld]

/-- Both commands give an address alike (R435). -/
theorem execEntdaa_eq_execSetdasa (s : State) (addr : Nat) : execEntdaa addr s = execSetdasa addr s := rfl

/-! ## Interrupts enabled -/

theorem execEnec_of_up (s : State) (hup : s.isl.trust.up = true) :
    execEnec s = .next (s.putSide { s.isl.side with ibiEnabled := true }) := by
  simp [execEnec, hup]

/-! ## The map read -/

/-- The bytes of the map from an offset, which wraps from 0x3F to 0x00 (R436). -/
def Sideband.bytesFrom (x : Sideband) (off len : Nat) : List Byte := (List.range len).map fun i => x.map.getD ((off + i) % 64) 0

theorem Sideband.bytesFrom_length (x : Sideband) (off len : Nat) : (x.bytesFrom off len).length = len := by
  simp [Sideband.bytesFrom]

theorem Sideband.bytesFrom_getD (x : Sideband) (off len i : Nat) (hi : i < len) :
    (x.bytesFrom off len).getD i 0 = x.map.getD ((off + i) % 64) 0 := by
  simp [Sideband.bytesFrom, List.getD_eq_getElem?_getD, hi]

theorem execSidebandRead_of_up (s : State) (off len : Nat) (hup : s.isl.trust.up = true) :
    execSidebandRead off len s = .next (s.putSide { s.isl.side with readData := s.isl.side.bytesFrom off len }) := by
  simp [execSidebandRead, hup, Sideband.bytesFrom]

/-! ## The interrupt acknowledged -/

theorem execIbiAck_of_pending (s : State) (hpending : s.isl.side.ibiPending = true) :
    execIbiAck s = .next (s.putSide { s.isl.side with ibiPending := false, ibiData := some (s.isl.side.map.getD 3 0) }) := by
  simp [execIbiAck, hpending, Sideband.status]

theorem execIbiAck_of_not_pending (s : State) (hnone : s.isl.side.ibiPending = false) : execIbiAck s = .next s := by
  simp [execIbiAck, hnone]

/-! ## The statement -/

/-- Settles O53: with the island up each command stores the one sideband its clause names, or nothing. -/
theorem sidebandShowsItsMap : Obligations.SidebandShowsItsMap := by
  rintro s _ hup rfl
  refine ⟨answers_of_exec_putSide (execSidebandRefresh_of_up s hup),
    fun addr => ⟨fun hfree => ?setdasa, fun hfree => ?entdaa, fun hheld => ?held⟩,
    answers_of_exec_putSide (execEnec_of_up s hup), fun off len => ?read,
    fun hpending => answers_of_exec_putSide (execIbiAck_of_pending s hpending), execIbiAck_of_not_pending s⟩
  case setdasa => exact answers_of_exec_putSide (execSetdasa_of_none s addr hup hfree)
  case entdaa => exact answers_of_exec_putSide ((execEntdaa_eq_execSetdasa s addr).trans (execSetdasa_of_none s addr hup hfree))
  case held =>
    have hkept := execSetdasa_of_held s addr hheld
    exact ⟨hkept, (execEntdaa_eq_execSetdasa s addr).trans hkept⟩
  case read =>
    exact ⟨_, execSidebandRead_of_up s off len hup, s.isl.side.bytesFrom_length off len,
      fun i hi => s.isl.side.bytesFrom_getD off len i hi, rfl, s.putSide_onlyIsland _⟩

end Sys2Proof.Machine
end
